-- ==== Sys2Proof/Word.lean ====
section
/-! DEFINITION. The word types of the engine (R3, R4, R5): 32-bit registers, bytes, 16-bit record items and the
56-bit coarse count. -/

namespace Sys2Proof

/-- A register (R5). -/
abbrev Word := BitVec 32

/-- A byte. -/
abbrev Byte := BitVec 8

/-- A record item (R169). -/
abbrev Item := BitVec 16

/-- The coarse count of the time base, in cu (R4, R39). -/
abbrev Time := BitVec 56

end Sys2Proof
end

