-- ==== Sys2Proof/Syntax.lean ====
section
/-! DEFINITION. The commands of the engine: one constructor per row of the opcode table, with the operands that the
rule of the row needs from outside the engine (a port and an address, a voltage, a count of samples seen, what a bus
partner answered). The table gives its rows no operands, so these are the model's (log entry 2). -/

namespace Sys2Proof

/-- The three ports of the register space (R13, R338: port codes 0, 1 and 2). -/
inductive Port where
  | f0 | f1 | i2c
  deriving DecidableEq, Repr

/-- What SECDED finds in a word it checks (R197, R235). -/
inductive Ecc where
  | single | double
  deriving DecidableEq, Repr

/-- A word of Shoal that has been disturbed: the index of the 64-bit word and what the check will find. -/
structure Upset where
  word : Nat
  ecc  : Ecc
  /-- The data bits of the word that the disturbance flips. -/
  flip : BitVec 64
  deriving DecidableEq, Repr

/-- Calibration captures of one input in one bin during the tide that ends (R129). -/
structure CalHit where
  input : Fin 4
  bin   : Fin 256
  count : Nat
  deriving DecidableEq, Repr

/-- The answer of a target on the pod bus (R115). -/
inductive BusReply where
  /-- The address or the word address was not acknowledged. -/
  | nack
  /-- All bytes of the transaction were read. -/
  | bytes (data : List Byte)
  deriving DecidableEq, Repr

/-- What is found to hold the pod bus (R118). -/
inductive BusStuckCause where
  /-- SDA reads low where the engine has released it. -/
  | sda
  /-- A target has held SCL low for more than 25 ms. -/
  | scl
  deriving DecidableEq, Repr

/-- One crossing seen by a timing input (R124, R126): the pin voltage after it in nV, and the capture's coarse cycle
and tap. -/
structure TinCap where
  input : Fin 4
  nv    : Int
  cr    : Time
  tap   : Byte
  deriving DecidableEq, Repr

/-- Whose frame a sample frame is (R324, R331). What Cliff samples for a lane frame of cycle c is given by the pins: for
each of the 14 channels the pin voltage at c × 1.6 ns and at each 25 ps step after it, in units of 156.25 µV / 8 000 000;
after the last voltage listed the pin stays as it is (log entry 53). -/
inductive FrameBody where
  | lane (m : Fin 4) (pins : List (List Int))
  | timing
  deriving DecidableEq, Repr

/-- A Hinge-C sample frame at Headland (R331). -/
structure Frame where
  body    : FrameBody
  /-- False: the frame did not arrive (Hinge-C retraining or in DIE_FAULT). -/
  arrived : Bool
  /-- The CRC-16 of the frame matches. -/
  crcOk   : Bool
  /-- The low 4 bits of the cycle number that the frame carries. -/
  cyc     : BitVec 4
  deriving DecidableEq, Repr

/-- The two Hinge links (R324). -/
inductive Link where
  | c | s
  deriving DecidableEq, Repr

/-- The sender at an end of a Hinge link: Headland, or the other die (R327). -/
structure Sender where
  link : Link
  atHeadland : Bool
  deriving DecidableEq, Repr

/-- A register access: which port asks, where, and what it writes (none for a read). -/
structure RegAccess where
  port  : Port
  page  : Nat
  slot  : Nat
  /-- Byte enables. -/
  be    : BitVec 4
  /-- The word written, or none for a read. -/
  data  : Option Word
  deriving DecidableEq, Repr

/-- A protected frame at its receiver: its 64 bytes in the layout of R325. What a DATA frame asks for is what its sender's
replay buffer holds under its sequence number, since R325 gives the payload no layout (log entry 34). -/
structure LinkFrame where
  /-- True: it arrives at Headland. False: at the other die. -/
  atHeadland : Bool
  bytes : List Byte
  deriving DecidableEq, Repr

/-- The kinds of inbound PCI Express request that address memory or I/O space (R275, R279). -/
inductive ReqKind where
  | memory | io | locked | atomic | deferrable
  deriving DecidableEq, Repr

/-- An inbound memory or I/O request (R275). -/
structure MemReq where
  kind  : ReqKind
  /-- The address on the link. -/
  addr  : Nat
  /-- Length in DW. -/
  len   : Nat
  /-- First-DW and last-DW byte enables. -/
  fbe   : BitVec 4
  lbe   : BitVec 4
  /-- The data of a write, one word per DW. -/
  data  : List Word
  /-- The EP bit. -/
  ep    : Bool
  /-- An End-End TLP Prefix is present. -/
  tlpPrefix : Bool
  deriving DecidableEq, Repr

/-- An inbound configuration request (R271). -/
structure CfgReq where
  fn     : Nat
  /-- Type 1 requests are not for an endpoint. -/
  type1  : Bool
  off    : Nat
  be     : BitVec 4
  data   : Option Word
  /-- An End-End TLP Prefix is present. -/
  tlpPrefix : Bool
  deriving DecidableEq, Repr

/-- What the physical and the data link layer find wrong with what they receive or send (R296), and a TLP that is
malformed by the rules of the specification. -/
inductive RxErr where
  | receiver | badTlp | badDllp | replayRollover | replayTimeout | dllProtocol | flowControl | overflow | malformed
  deriving DecidableEq, Repr

/-- Inbound messages (R279, R289). The table has no row for what the link receives and cannot take as a TLP: that comes
under MESSAGE_RECEIVED as well (log entry 2). -/
inductive Msg where
  | vendorType0 | vendorType1 | other
  /-- A message with an End-End TLP Prefix. -/
  | prefixed
  | error (x : RxErr)
  deriving DecidableEq, Repr

/-- The status of a completion (R259). -/
inductive CplStatus where
  | success | unsupported | abort
  deriving DecidableEq, Repr

/-- The causes of the first row of R294. -/
inductive PciReset where
  | perst | hotReset | linkDown
  deriving DecidableEq, Repr

/-- A transaction of another controller on the two-wire bus: the bytes of a write part from its address byte on; a read
part after a write part that may be empty, with its address byte and the bytes that the controller takes. -/
inductive I2cTx where
  | write (bytes : List Byte)
  | read (wr : List Byte) (addr : Byte) (count : Nat)
  deriving DecidableEq, Repr

/-- How an attempt of the port as controller ended (R318, R319). -/
inductive NoticeResult where
  | sent
  /-- The target refused a byte. -/
  | nacked
  /-- A bus timeout ended it. -/
  | timeout
  /-- Arbitration was lost to another controller, whose transaction goes on. -/
  | lostArbitration (won : I2cTx)
  deriving DecidableEq, Repr

/-- The self-managed blocks of R75. -/
inductive Blk where
  | i2cp | fe (m : Fin 4) | tdc | tdccal | seq | pat | recf | cmp | dcmp | stg | mem | job
  deriving DecidableEq, Repr

/-- The commands, in the order of the opcode table. -/
inductive Instr where
  | registerWrite (port : Port) (page slot : Nat) (be : BitVec 4) (value : Word)
  | rcRead (port : Port) (page slot : Nat)
  | rlLoRead (port : Port) (page slot : Nat)
  | cliffAccessComplete
  | tideBoundary (hits : List CalHit)
  | monitorWindow (edges altEdges : Nat)
  | pllLock
  | timeBaseWrap
  | slackWaterStep
  | coarseCountResume
  | x32Measurement (ppb : Word)
  | x32Fail
  | timeCmpFire (ch : Fin 16)
  | modeTransitionComplete
  | railSequenceStep (periods : Nat)
  | wakeIn (rising : Bool)
  | aonAlarm
  | pllLockTimeout
  | powerGood
  | bootComplete
  | powerGoodFailure (periods : Nat)
  | powerOnReset
  | coreReset (port : Port) (confirm : BitVec 16)
  | cliffReset (port : Port) (confirm : BitVec 16)
  | testReset
  | blockWakeComplete (block : Blk)
  | rangeEntry (lane : Fin 4) (ch : Fin 14)
  | rangeExit (lane : Fin 4) (ch : Fin 14)
  | ambigBegin (lane : Fin 4) (ch : Fin 14)
  | ambigEnd (lane : Fin 4) (ch : Fin 14)
  | podPresenceChange (slot : Fin 4) (seated : Bool) (samples : Nat)
  | podAttentionChange (slot : Fin 4) (pressed : Bool) (samples : Nat)
  | podPowerOn (slot : Fin 4)
  | podPowerOff (slot : Fin 4)
  | podReady (slot : Fin 4)
  | fastDrop (slot : Fin 4) (samples : Nat)
  | podGlitch (slot : Fin 4) (samples : Nat)
  | podFault (slot : Fin 4) (samples : Nat)
  | census (slots : BitVec 4)
  | censusTransaction (reply : BusReply)
  | censusRetry (reply : BusReply)
  | busStuck (cause : BusStuckCause) (freed : Bool)
  | podBusStuck
  | tinEdge (caps : List TinCap)
  | tdcTimeout (unit : Fin 4)
  | tdcTermTrip (input : Fin 4) (nv : Int) (cycles : Nat)
  | sequencerDecision
  | timerLimit (timer : Fin 4)
  | preTriggerMet
  | postTriggerStop
  | trigOutPulseEnd
  | trigInEdge (level : Bool)
  | sampleFrame (frame : Frame)
  | recUser (port : Port) (streams : BitVec 5) (arg : BitVec 10)
  | blockArrival
  | bankSwap
  | stagingWordDelivery (upset : Option Upset)
  | dropRest
  | blockPlacement
  | scrubRead (upsets : List Upset)
  | evqPop (port : Port) (flipHi flipLo : Word)
  | evqOverrun
  | completion (tag : Nat) (status : CplStatus) (poisoned : Bool) (data : List Word)
  | entryRead (slot : Fin 4) (upsets : List Upset)
  | blockRead (slot : Fin 4) (upsets : List Upset)
  | decodeBlock
  | jobWriteback (ring : Fin 64)
  | memoryReadRequest (req : MemReq)
  | memoryWriteRequest (req : MemReq)
  | apertureRead (off len : Nat) (upsets : List Upset)
  | expansionRomRead (off len : Nat)
  | configurationRequest (req : CfgReq)
  | messageReceived (fn : Fin 2) (msg : Msg)
  | hostLinkUp (speed width : Nat)
  | hostLinkDown
  | linkRecovery (requested : Bool)
  | pciExpressReset (cause : PciReset)
  | flr (fn : Fin 2)
  | pmPme (fn : Fin 2)
  | l0sEntry (idle : Nat)
  | l1Entry (idleUs : Nat)
  | completionTimeout (tag : Nat)
  | breakwaterRelease
  | i2cWriteTransaction (bytes : List Byte)
  | i2cReadTransaction (wr : List Byte) (addr : Byte) (count : Nat)
  | aonAddressMatch (addr : Byte)
  | i2cBusTimeout (controller : Bool) (ms : Nat)
  | notice (result : NoticeResult)
  | noticeRetry (result : NoticeResult)
  | hingeDataFrame (link : Link) (frame : LinkFrame)
  | hingeAck (link : Link) (frame : LinkFrame)
  | hingeNak (link : Link) (frame : LinkFrame)
  | replayTimeout (sender : Sender)
  | retrainC
  | retrainS
  | retrainComplete (link : Link)
  | hingeDieFault (link : Link)
  | shoalSelfRefresh
  | injectionArm (port : Port)
  | injectionStop (port : Port)
  | challenge (port : Port) (slot : BitVec 2)
  | respond (port : Port) (slot : BitVec 2)
  | responseCheckComplete (port : Port)
  | close (port : Port) (slot : BitVec 2)
  | program (port : Port) (slot : BitVec 2) (confirm : BitVec 16)
  | programComplete (port : Port) (burned : List Word)
  | clear (port : Port)
  | secBufWrite (port : Port) (data : Word)
  | challengeExpired (port : Port)
  | secTimeout (port : Port) (slot : BitVec 2)
  | lockoutEnd (slot : BitVec 2)
  | x32OkRise
  | clkreqNAsserted
  | perstNRelease
  | resetNRelease (a1 a0 : Bool)
  | vddIoLoss
  | vddIoReturn
  | coreResetEnd
  | postedCreditsReturn (credits : Nat)
  deriving DecidableEq, Repr

end Sys2Proof
end

