-- ==== Sys2Proof/WellFormed.lean ====
section
/-! DEFINITION. Which commands are well formed: operands that the ports, the link, the buses and the links can carry. The
meanings answer for every operand; a term that this file refuses stands for nothing that can happen outside the engine. -/

namespace Sys2Proof

/-- A register address: a page number and a word slot in its 256 bytes (R13, R14). -/
def regAddrOk (page slot : Nat) : Bool := decide (page < 256) && decide (slot < 256) && slot % 4 == 0

/-- A lane frame gives, for each of its 14 channels, at least the pin's voltage at the cycle's own instant (R80). -/
def frameShapeOk (f : Frame) : Bool :=
  match f.body with
  | .lane _ pins => pins.length == 14 && pins.all fun v => !v.isEmpty
  | .timing => true

/-- A request: a DW address of at most 64 bits, 1 to 1024 DW that do not cross 4 KiB (R278). -/
def memReqOk (q : MemReq) : Bool :=
  q.addr % 4 == 0 && decide (q.addr < 2 ^ 64) && decide (1 ≤ q.len) && decide (q.addr % 4096 + 4 * q.len ≤ 4096)

/-- Words of Shoal have 27-bit indices (R197). -/
def upsetsOk (us : List Upset) : Bool := us.all fun u => decide (u.word < 2 ^ 27)

/-- A protected frame has 64 bytes (R325). -/
def linkFrameOk (f : LinkFrame) : Bool := f.bytes.length == 64

/-- A transaction has an address byte; a read part's asks for a read (R304, R305). -/
def i2cTxOk : I2cTx → Bool
  | .write bytes => !bytes.isEmpty
  | .read _ addr _ => addr.getLsbD 0

/-- A lost arbitration names the transaction that won. -/
def noticeOk : NoticeResult → Bool
  | .lostArbitration won => i2cTxOk won
  | _ => true

/-- The well-formed commands. -/
def Instr.wf : Instr → Bool
  | .registerWrite _ page slot _ _ | .rcRead _ page slot | .rlLoRead _ page slot => regAddrOk page slot
  | .sampleFrame f => frameShapeOk f
  | .scrubRead us | .entryRead _ us | .blockRead _ us => upsetsOk us
  | .stagingWordDelivery u => upsetsOk u.toList
  | .apertureRead off len us => off % 4 == 0 && len % 4 == 0 && decide (1 ≤ len) && upsetsOk us
  | .expansionRomRead off len => off % 4 == 0 && len % 4 == 0 && decide (1 ≤ len)
  | .completion tag _ _ _ | .completionTimeout tag => decide (tag < 256)
  | .memoryReadRequest q => memReqOk q && q.data.isEmpty
  | .memoryWriteRequest q => memReqOk q && q.data.length == q.len
  | .configurationRequest q => decide (q.off < 4096) && q.off % 4 == 0 && decide (q.fn < 8)
  | .hostLinkUp speed width => decide (1 ≤ speed) && decide (1 ≤ width)
  | .i2cWriteTransaction bytes => !bytes.isEmpty
  | .i2cReadTransaction _ addr _ => addr.getLsbD 0
  | .notice r | .noticeRetry r => noticeOk r
  | .hingeDataFrame _ f | .hingeAck _ f | .hingeNak _ f => linkFrameOk f
  | .programComplete _ burned => burned.length == 8
  | .tideBoundary .. | .cliffAccessComplete | .monitorWindow .. | .pllLock | .timeBaseWrap | .slackWaterStep
  | .coarseCountResume | .x32Measurement .. | .x32Fail | .timeCmpFire .. | .modeTransitionComplete | .railSequenceStep ..
  | .wakeIn .. | .aonAlarm | .pllLockTimeout | .powerGood | .bootComplete | .powerGoodFailure .. | .powerOnReset
  | .coreReset .. | .cliffReset .. | .testReset | .blockWakeComplete .. | .rangeEntry .. | .rangeExit .. | .ambigBegin ..
  | .ambigEnd .. | .podPresenceChange .. | .podAttentionChange .. | .podPowerOn .. | .podPowerOff .. | .podReady ..
  | .fastDrop .. | .podGlitch .. | .podFault .. | .census .. | .censusTransaction .. | .censusRetry .. | .busStuck ..
  | .podBusStuck | .tinEdge .. | .tdcTimeout .. | .tdcTermTrip .. | .sequencerDecision | .timerLimit .. | .preTriggerMet
  | .postTriggerStop | .trigOutPulseEnd | .trigInEdge .. | .recUser .. | .blockArrival | .bankSwap | .dropRest
  | .blockPlacement | .evqPop .. | .evqOverrun | .decodeBlock | .jobWriteback .. | .messageReceived .. | .hostLinkDown
  | .linkRecovery .. | .pciExpressReset .. | .flr .. | .pmPme .. | .l0sEntry .. | .l1Entry .. | .breakwaterRelease
  | .aonAddressMatch .. | .i2cBusTimeout ..
  | .replayTimeout .. | .retrainC | .retrainS | .retrainComplete .. | .hingeDieFault .. | .shoalSelfRefresh
  | .injectionArm .. | .injectionStop .. | .challenge .. | .respond .. | .responseCheckComplete .. | .close .. | .program ..
  | .clear .. | .secBufWrite .. | .challengeExpired .. | .secTimeout .. | .lockoutEnd .. | .x32OkRise | .clkreqNAsserted
  | .perstNRelease | .resetNRelease .. | .vddIoLoss | .vddIoReturn | .coreResetEnd | .postedCreditsReturn .. => true

end Sys2Proof
end

