-- ==== Sys2Proof/Config.lean ====
section
/-! DEFINITION. What the spec leaves open or takes from outside the machine: constants with no body, so that no proof
can see their values. Each is named in an assumption log entry. -/

namespace Sys2Proof.Config

/-! What the instrument chart holds of its own in every unit (R352; log entry 6): whether it is of the reel variant, the
unit serial, the test date, the calibration temperature, entry j of FEm's calibration window, the two offsets of input i,
and whether the record has been damaged since it was written. -/

opaque reel : Bool
opaque unitSerial : BitVec 64
opaque testDate : BitVec 32
opaque calTemp : BitVec 16
opaque calEntry : Nat → Nat → BitVec 16
opaque tinOfs : Nat → BitVec 32
opaque recordDamaged : Bool

/-- The n-th nonce that the random source draws (R343; log entry 7). -/
opaque nonce : Nat → BitVec 128

/-- The unit serial of the Device Serial Number capability (R273), and the OTP subsystem identifiers (R271; log entry
12). -/
opaque subsystem : Nat → Word

/-- What a byte of Shoal that nothing has written reads as (R197: contents undefined); the first argument counts the
reads (log entry 5). -/
opaque shoalFill : Nat → Nat → Byte

/-- CLK_PLL.phase_err of a tide (log entry 8). -/
opaque phaseErr : Nat → BitVec 16

/-- DIAG_TEMP of a tide (R336: x at reset; log entry 8). -/
opaque dieTemp : Nat → BitVec 16

/-- The levels of PODn_PRES_N (bits 0 to 3) and PODn_FLT_N (bits 4 to 7) in a cycle, 1 for low, as POD_STAT shows them
(R122; log entry 61). -/
opaque podPins : Nat → BitVec 8

/-- The close-on-tide work of a tide does not reach a stream before the next boundary: tide, stream (R31, R213; log entry
62). -/
opaque closeLate : Nat → Nat → Bool

/-- The header of a TLP as it was received, by the count of headers logged (AER Header Log, R296; log entry 64). -/
opaque tlpHeader : Nat → BitVec 128

/-- What a lane's margining status answers to a command other than No Command: lane, control field (R269; log entry 64). -/
opaque marginStatus : Nat → BitVec 16 → BitVec 16

/-- The µs from recognition to register access at a wake from DOZE, at most 50 (R64; log entry 9). -/
opaque dozeAccess : Nat → Nat

end Sys2Proof.Config
end

