-- ==== Sys2Proof/Machine/Bits.lean ====
section
/-! DEFINITION. Bit fields, saturating counts, byte orders, CRCs and HMAC-SHA-256: the arithmetic that the chapters
share. -/

namespace Sys2Proof.Machine

/-- Bits [lo + len − 1 : lo] of a word, as a number. -/
def fld (w : Word) (lo len : Nat) : Nat := (w.toNat >>> lo) % 2 ^ len

/-- Bit i of a word. -/
def bit (w : Word) (i : Nat) : Bool := w.getLsbD i

/-- A word from a number. -/
def w32 (n : Nat) : Word := BitVec.ofNat 32 n

/-- A Boolean as bit i of a number. -/
def at1 (b : Bool) (i : Nat) : Nat := if b then 2 ^ i else 0

/-- Replaces the bits of old selected by mask. -/
def merge (mask old new : Word) : Word := (old &&& ~~~mask) ||| (new &&& mask)

/-- n stuck at the all-ones value of a field (R46). -/
def stick (len n : Nat) : Nat := min n (2 ^ len - 1)

/-- A field written into a word. -/
def putf (w : Word) (lo len v : Nat) : Word :=
  merge (w32 ((2 ^ len - 1) * 2 ^ lo)) w (w32 (v % 2 ^ len * 2 ^ lo))

/-- One more in a counter of the 16-bit error class: sticks at 0xFFFF and sets sat in bit 31 (R46). -/
def bump16 (w : Word) : Word :=
  if w.toNat % 65536 = 65535 then w ||| 0x80000000#32 else w32 (w.toNat + 1)

/-- The byte enables as a mask of bits (R275). -/
def beMask (be : BitVec 4) : Word :=
  w32 (at1 (be.getLsbD 0) 0 * 0xFF + at1 (be.getLsbD 1) 0 * 0xFF00 + at1 (be.getLsbD 2) 0 * 0xFF0000
    + at1 (be.getLsbD 3) 0 * 0xFF000000)

/-- The len low bits of n, as a signed number. -/
def sgn (len n : Nat) : Int := if n % 2 ^ len < 2 ^ (len - 1) then (n % 2 ^ len : Nat) else (n % 2 ^ len : Nat) - (2 ^ len : Nat)

/-- n / d to the nearest integer, halves away from zero (R42 and the conventions). -/
def roundDiv (n d : Int) : Int :=
  if 0 ≤ n then (2 * n + d) / (2 * d) else -((2 * (-n) + d) / (2 * d))

/-- A word as four bytes, the least significant first (R5). -/
def bytesOfWord (w : Word) : List Byte :=
  [w.extractLsb' 0 8, w.extractLsb' 8 8, w.extractLsb' 16 8, w.extractLsb' 24 8]

/-- k bytes of a number, the least significant first. -/
def bytesOfNat (k n : Nat) : List Byte := (List.range k).map fun i => BitVec.ofNat 8 (n >>> (8 * i))

/-- The number that bytes spell, the least significant first. -/
def natOfBytes : List Byte → Nat
  | [] => 0
  | b :: bs => b.toNat + 256 * natOfBytes bs

/-- The lowest set bit below n, if any. -/
def lowBit (n v : Nat) : Option Nat := (List.range n).find? fun i => v.testBit i

/-- How many of the n low bits are set. -/
def popCount (n v : Nat) : Nat := ((List.range n).filter fun i => v.testBit i).length

/-- The n-bit number whose bit i is f i. -/
def mapBits (n : Nat) (f : Nat → Bool) : Nat := ((List.range n).map fun i => at1 (f i) i).sum

/-- Updates entry i of a list. -/
def upd {α : Type} (l : List α) (i : Nat) (f : α → α) : List α := l.modify i f

/-! ### CRCs -/

/-- One bit of CRC-16, polynomial 0x1021 (R112, R203). -/
def crc16Bit (c : BitVec 16) : BitVec 16 := if c.getLsbD 15 then (c <<< 1) ^^^ 0x1021#16 else c <<< 1

/-- One byte of CRC-16. -/
def crc16Byte (c : BitVec 16) (b : Byte) : BitVec 16 :=
  (List.range 8).foldl (fun c _ => crc16Bit c) (c ^^^ ((b.setWidth 16) <<< 8))

/-- CRC-16 of R203: initial value 0xFFFF, no reflection, no final XOR. -/
def crc16 (bs : List Byte) : BitVec 16 := bs.foldl crc16Byte 0xFFFF#16

/-- One bit of the reflected CRC-32 (R204). -/
def crc32Bit (c : BitVec 32) : BitVec 32 := if c.getLsbD 0 then (c >>> 1) ^^^ 0xEDB88320#32 else c >>> 1

/-- One byte of CRC-32. -/
def crc32Byte (c : BitVec 32) (b : Byte) : BitVec 32 :=
  (List.range 8).foldl (fun c _ => crc32Bit c) (c ^^^ b.setWidth 32)

/-- CRC-32 of R204. -/
def crc32 (bs : List Byte) : BitVec 32 := ~~~(bs.foldl crc32Byte 0xFFFFFFFF#32)

/-- One bit of CRC-8, polynomial 0x07. -/
def crc8Bit (c : Byte) : Byte := if c.getLsbD 7 then (c <<< 1) ^^^ 0x07#8 else c <<< 1

/-- One byte of CRC-8. -/
def crc8Byte (c b : Byte) : Byte := (List.range 8).foldl (fun c _ => crc8Bit c) (c ^^^ b)

/-- The SMBus packet error code (R310). -/
def crc8 (bs : List Byte) : Byte := bs.foldl crc8Byte 0#8

/-! ### HMAC-SHA-256 (R343; the functions are those of FIPS 180-4 and FIPS 198-1, PRESUMED, log entry 10) -/

/-- The 64 round constants. -/
def shaK : List Word :=
  [0x428a2f98#32, 0x71374491#32, 0xb5c0fbcf#32, 0xe9b5dba5#32, 0x3956c25b#32, 0x59f111f1#32, 0x923f82a4#32,
   0xab1c5ed5#32, 0xd807aa98#32, 0x12835b01#32, 0x243185be#32, 0x550c7dc3#32, 0x72be5d74#32, 0x80deb1fe#32,
   0x9bdc06a7#32, 0xc19bf174#32, 0xe49b69c1#32, 0xefbe4786#32, 0x0fc19dc6#32, 0x240ca1cc#32, 0x2de92c6f#32,
   0x4a7484aa#32, 0x5cb0a9dc#32, 0x76f988da#32, 0x983e5152#32, 0xa831c66d#32, 0xb00327c8#32, 0xbf597fc7#32,
   0xc6e00bf3#32, 0xd5a79147#32, 0x06ca6351#32, 0x14292967#32, 0x27b70a85#32, 0x2e1b2138#32, 0x4d2c6dfc#32,
   0x53380d13#32, 0x650a7354#32, 0x766a0abb#32, 0x81c2c92e#32, 0x92722c85#32, 0xa2bfe8a1#32, 0xa81a664b#32,
   0xc24b8b70#32, 0xc76c51a3#32, 0xd192e819#32, 0xd6990624#32, 0xf40e3585#32, 0x106aa070#32, 0x19a4c116#32,
   0x1e376c08#32, 0x2748774c#32, 0x34b0bcb5#32, 0x391c0cb3#32, 0x4ed8aa4a#32, 0x5b9cca4f#32, 0x682e6ff3#32,
   0x748f82ee#32, 0x78a5636f#32, 0x84c87814#32, 0x8cc70208#32, 0x90befffa#32, 0xa4506ceb#32, 0xbef9a3f7#32,
   0xc67178f2#32]

/-- The initial hash value. -/
def shaH0 : List Word :=
  [0x6a09e667#32, 0xbb67ae85#32, 0x3c6ef372#32, 0xa54ff53a#32, 0x510e527f#32, 0x9b05688c#32, 0x1f83d9ab#32,
   0x5be0cd19#32]

/-- Extends the message schedule by one word; the list holds the latest word first. -/
def shaExtend (w : List Word) : List Word :=
  let a := w.getD 14 0; let b := w.getD 1 0
  let s0 := (a.rotateRight 7) ^^^ (a.rotateRight 18) ^^^ (a >>> 3)
  let s1 := (b.rotateRight 17) ^^^ (b.rotateRight 19) ^^^ (b >>> 10)
  (w.getD 15 0 + s0 + w.getD 6 0 + s1) :: w

/-- One round. -/
def shaRound : List Word → Word × Word → List Word
  | [a, b, c, d, e, f, g, h], (k, w) =>
    let s1 := (e.rotateRight 6) ^^^ (e.rotateRight 11) ^^^ (e.rotateRight 25)
    let ch := (e &&& f) ^^^ (~~~e &&& g)
    let t1 := h + s1 + ch + k + w
    let s0 := (a.rotateRight 2) ^^^ (a.rotateRight 13) ^^^ (a.rotateRight 22)
    let mj := (a &&& b) ^^^ (a &&& c) ^^^ (b &&& c)
    [t1 + (s0 + mj), a, b, c, d + t1, e, f, g]
  | l, _ => l

/-- One 64-byte block of SHA-256. -/
def shaBlock (h : List Word) (blk : List Byte) : List Word :=
  let w0 := (List.range 16).map fun i => w32 (natOfBytes ((blk.drop (4 * i)).take 4).reverse)
  let ws := ((List.range 48).foldl (fun w _ => shaExtend w) w0.reverse).reverse
  List.zipWith (· + ·) h ((shaK.zip ws).foldl shaRound h)

/-- The padding of a message. -/
def shaPad (bs : List Byte) : List Byte :=
  bs ++ [0x80#8] ++ List.replicate ((119 - bs.length % 64) % 64) 0#8 ++ (bytesOfNat 8 (8 * bs.length)).reverse

/-- SHA-256, as 32 bytes. -/
def sha256 (bs : List Byte) : List Byte :=
  let p := shaPad bs
  let h := (List.range (p.length / 64)).foldl (fun h i => shaBlock h ((p.drop (64 * i)).take 64)) shaH0
  h.flatMap fun w => (bytesOfWord w).reverse

/-- HMAC-SHA-256 with a 32-byte key. -/
def hmac (key msg : List Byte) : List Byte :=
  let k := key ++ List.replicate (64 - key.length) 0#8
  sha256 (k.map (· ^^^ 0x5C#8) ++ sha256 (k.map (· ^^^ 0x36#8) ++ msg))

end Sys2Proof.Machine
end

