-- ==== Sys2Proof/Machine/RegMap.lean ====
section
/-! DEFINITION. The register map: for every register of the 28 pages its slot, access code, the bits of its fields and its
reset value, written from the register tables of the chapters; the page headers (R19, R20); configuration space (R271 to
R274). A register is named by its key: page × 256 + slot, plus 65 536 × index for a register behind a window;
configuration space has keys 0x100_0000 + function × 0x1000 + offset. -/

namespace Sys2Proof.Machine

/-- Access codes (R6). rwk carries the guarding slot and whether the field is shadowed (R98). -/
inductive Acc where
  | ro | rw | rws
  | rwk (slot : Nat) (shadowed : Bool)
  | w1c | rc | wo | rl
  deriving DecidableEq, Repr

/-- A register of the map. mask has the bits of its fields; rsvd bits are outside it (R9). -/
structure Row where
  slot  : Nat
  acc   : Acc
  mask  : Word
  reset : Word
  deriving DecidableEq, Repr

/-- What the header of a page holds (R19): the page number, class, version, instance, _CAP and the two slots of _LOCK. -/
structure PageInfo where
  page  : Nat
  id    : Word
  cap   : Word
  slotA : Nat
  slotB : Nat
  rows  : List Row
  deriving DecidableEq, Repr

/-! ### Keys of the block registers -/

namespace R

abbrev SYS_MODE_REQ : Nat := 0x0020
abbrev SYS_MODE_STAT : Nat := 0x0024
abbrev SYS_REJ_CNT : Nat := 0x0028
abbrev SYS_WAKE_EN : Nat := 0x002C
abbrev SYS_WAKE_SRC : Nat := 0x0030
abbrev SYS_RESET_CAUSE : Nat := 0x0034
abbrev SYS_RESET_CTL : Nat := 0x0038
abbrev SYS_IRQ_SUM : Nat := 0x003C
abbrev SYS_IRQ_F0 : Nat := 0x0040
abbrev SYS_IRQ_F1 : Nat := 0x0044
abbrev SYS_IRQ_I2C : Nat := 0x0048
abbrev SYS_AON_ALARM : Nat := 0x004C
abbrev PWR_CTL : Nat := 0x0120
abbrev PWR_STAT : Nat := 0x0124
abbrev PWR_SEQ : Nat := 0x0128
abbrev PWR_BLK_ON : Nat := 0x012C
abbrev PWR_BLK_RET : Nat := 0x0130
abbrev PWR_EST : Nat := 0x0134
abbrev PWR_WAKE_LAT : Nat := 0x0138
abbrev PWR_PG_CNT : Nat := 0x013C
abbrev PWR_SCR0 : Nat := 0x0140
abbrev PWR_SCR1 : Nat := 0x0144
abbrev CLK_CTL : Nat := 0x0220
abbrev CLK_STAT : Nat := 0x0224
abbrev CLK_MON : Nat := 0x0228
abbrev CLK_LOSS_CNT : Nat := 0x022C
abbrev CLK_HOLD_TIDES : Nat := 0x0230
abbrev CLK_LOCK_LAT : Nat := 0x0234
abbrev CLK_X32 : Nat := 0x0238
abbrev CLK_PLL : Nat := 0x023C
abbrev TIDE_CTL : Nat := 0x0320
abbrev TIDE_STAT : Nat := 0x0324
abbrev TIDE_OVR_CNT : Nat := 0x0328
abbrev TIDE_OVR_SRC : Nat := 0x032C
abbrev TIDE_DROP_CNT : Nat := 0x0330
abbrev TIDE_COMMITS : Nat := 0x0334
abbrev SEC_CTL : Nat := 0x0420
abbrev SEC_CMD : Nat := 0x0424
abbrev SEC_STAT : Nat := 0x0428
abbrev SEC_SLOTS : Nat := 0x042C
abbrev SEC_NONCE0 : Nat := 0x0430
abbrev SEC_NONCE1 : Nat := 0x0434
abbrev SEC_NONCE2 : Nat := 0x0438
abbrev SEC_NONCE3 : Nat := 0x043C
abbrev SEC_BUF : Nat := 0x0440
abbrev SEC_FAIL : Nat := 0x0444
abbrev SEC_LOG : Nat := 0x0448
abbrev SEC_REJ_CNT : Nat := 0x044C
abbrev TB_CTL : Nat := 0x0520
abbrev TB_STAT : Nat := 0x0524
abbrev TB_LO : Nat := 0x0528
abbrev TB_HI : Nat := 0x052C
abbrev TB_SNAP_LO : Nat := 0x0530
abbrev TB_SNAP_HI : Nat := 0x0534
abbrev TB_EPOCH : Nat := 0x0538
abbrev TB_SNAP_EP : Nat := 0x053C
abbrev TB_SLACK_ERR : Nat := 0x0540
abbrev TB_SLACK_LEN : Nat := 0x0544
abbrev TB_X32_ERR : Nat := 0x0548
abbrev TB_CMP_SEL : Nat := 0x054C
abbrev TB_CMP_LO : Nat := 0x0550
abbrev TB_CMP_HI : Nat := 0x0554
abbrev TB_CMP_RLD : Nat := 0x0558
abbrev TB_CMP_EN : Nat := 0x055C
abbrev TB_CMP_PEND : Nat := 0x0560
abbrev TB_CMP_LATE : Nat := 0x0564
abbrev TB_EVT_EN : Nat := 0x0568
abbrev TB_EVT_PRIO : Nat := 0x056C
abbrev TB_FT0 : Nat := 0x0570
abbrev TB_FT1 : Nat := 0x0574
abbrev TB_FT2 : Nat := 0x0578
abbrev TB_FT3 : Nat := 0x057C
abbrev TB_FT4 : Nat := 0x0580
abbrev TB_FT5 : Nat := 0x0584
abbrev TB_FT6 : Nat := 0x0588
abbrev TB_FT7 : Nat := 0x058C
abbrev TB_FT8 : Nat := 0x0590
abbrev TB_FT9 : Nat := 0x0594
abbrev TB_FT10 : Nat := 0x0598
abbrev TB_FT11 : Nat := 0x059C
abbrev TB_FT12 : Nat := 0x05A0
abbrev TB_FT13 : Nat := 0x05A4
abbrev TB_FT14 : Nat := 0x05A8
abbrev TB_FT15 : Nat := 0x05AC
abbrev POD_CTL : Nat := 0x0620
abbrev POD_TIM : Nat := 0x0624
abbrev POD_STAT : Nat := 0x0628
abbrev POD_PWR_CMD : Nat := 0x062C
abbrev POD_IND : Nat := 0x0630
abbrev POD_STATE : Nat := 0x0634
abbrev POD_CENSUS : Nat := 0x0638
abbrev POD_FAULT_CNT : Nat := 0x063C
abbrev POD_GLITCH_CNT : Nat := 0x0640
abbrev POD_LAST : Nat := 0x0644
abbrev POD_ID0 : Nat := 0x0648
abbrev POD_ID1 : Nat := 0x064C
abbrev POD_ID2 : Nat := 0x0650
abbrev POD_ID3 : Nat := 0x0654
abbrev POD_SER0 : Nat := 0x0658
abbrev POD_SER1 : Nat := 0x065C
abbrev POD_SER2 : Nat := 0x0660
abbrev POD_SER3 : Nat := 0x0664
abbrev I2CT_CTL : Nat := 0x0720
abbrev I2CT_STAT : Nat := 0x0724
abbrev I2CT_TIMD : Nat := 0x0728
abbrev I2CT_TIMC : Nat := 0x072C
abbrev I2CT_NOTICE : Nat := 0x0730
abbrev I2CT_PEC_CNT : Nat := 0x0734
abbrev I2CT_TMO_CNT : Nat := 0x0738
abbrev I2CT_ARB_CNT : Nat := 0x073C
abbrev I2CP_CTL : Nat := 0x0820
abbrev I2CP_CMD : Nat := 0x0824
abbrev I2CP_STAT : Nat := 0x0828
abbrev I2CP_SEL : Nat := 0x082C
abbrev I2CP_LIST : Nat := 0x0830
abbrev I2CP_RES : Nat := 0x0834
abbrev I2CP_NACK_CNT : Nat := 0x0838
abbrev I2CP_RECOV_CNT : Nat := 0x083C
abbrev FEn_CTL (m : Nat) : Nat := 0x1020 + 256 * m
abbrev FEn_STAT (m : Nat) : Nat := 0x1024 + 256 * m
abbrev FEn_CH_CFG (m : Nat) : Nat := 0x1028 + 256 * m
abbrev FEn_IDLE (m : Nat) : Nat := 0x102C + 256 * m
abbrev FEn_AMBIG_LEN (m : Nat) : Nat := 0x1030 + 256 * m
abbrev FEn_FLT (m : Nat) : Nat := 0x1034 + 256 * m
abbrev FEn_RANGE_CNT (m : Nat) : Nat := 0x1038 + 256 * m
abbrev FEn_AMBIG_CNT (m : Nat) : Nat := 0x103C + 256 * m
abbrev FEn_LEVEL (m : Nat) : Nat := 0x1040 + 256 * m
abbrev FEn_AMBIG_LAST (m : Nat) : Nat := 0x1044 + 256 * m
abbrev FEn_GAIN (m : Nat) : Nat := 0x1048 + 256 * m
abbrev FEn_CAL_SEL (m : Nat) : Nat := 0x104C + 256 * m
abbrev FEn_CAL_DATA (m : Nat) : Nat := 0x1050 + 256 * m
abbrev FEn_TIM0 (m : Nat) : Nat := 0x1054 + 256 * m
abbrev FEn_TIM1 (m : Nat) : Nat := 0x1058 + 256 * m
abbrev FEn_TIM2 (m : Nat) : Nat := 0x105C + 256 * m
abbrev FEn_TIM3 (m : Nat) : Nat := 0x1060 + 256 * m
abbrev FEn_TIM4 (m : Nat) : Nat := 0x1064 + 256 * m
abbrev FEn_TIM5 (m : Nat) : Nat := 0x1068 + 256 * m
abbrev FEn_TIM6 (m : Nat) : Nat := 0x106C + 256 * m
abbrev FEn_THR0 (m : Nat) : Nat := 0x1070 + 256 * m
abbrev FEn_THR1 (m : Nat) : Nat := 0x1074 + 256 * m
abbrev FEn_THR2 (m : Nat) : Nat := 0x1078 + 256 * m
abbrev FEn_THR3 (m : Nat) : Nat := 0x107C + 256 * m
abbrev FEn_THR4 (m : Nat) : Nat := 0x1080 + 256 * m
abbrev FEn_THR5 (m : Nat) : Nat := 0x1084 + 256 * m
abbrev FEn_THR6 (m : Nat) : Nat := 0x1088 + 256 * m
abbrev FEn_THR7 (m : Nat) : Nat := 0x108C + 256 * m
abbrev FEn_THR8 (m : Nat) : Nat := 0x1090 + 256 * m
abbrev FEn_THR9 (m : Nat) : Nat := 0x1094 + 256 * m
abbrev FEn_THR10 (m : Nat) : Nat := 0x1098 + 256 * m
abbrev FEn_THR11 (m : Nat) : Nat := 0x109C + 256 * m
abbrev FEn_THR12 (m : Nat) : Nat := 0x10A0 + 256 * m
abbrev FEn_THR13 (m : Nat) : Nat := 0x10A4 + 256 * m
abbrev TDC_CTL : Nat := 0x1420
abbrev TDC_STAT : Nat := 0x1424
abbrev TDC_TIN0 : Nat := 0x1428
abbrev TDC_TIN1 : Nat := 0x142C
abbrev TDC_TIN2 : Nat := 0x1430
abbrev TDC_TIN3 : Nat := 0x1434
abbrev TDC_LOST : Nat := 0x1438
abbrev TDC_SEL : Nat := 0x143C
abbrev TDC_STAMP_LO : Nat := 0x1440
abbrev TDC_STAMP_HI : Nat := 0x1444
abbrev TDC_D_WMAX : Nat := 0x1448
abbrev TDC_D_TMO : Nat := 0x144C
abbrev TDC_S_MIN_LO : Nat := 0x1450
abbrev TDC_S_MIN_HI : Nat := 0x1454
abbrev TDC_S_MAX_LO : Nat := 0x1458
abbrev TDC_S_MAX_HI : Nat := 0x145C
abbrev TDC_S_SUM_LO : Nat := 0x1460
abbrev TDC_S_SUM_HI : Nat := 0x1464
abbrev TDC_S_CNT : Nat := 0x1468
abbrev TDC_EVT : Nat := 0x146C
abbrev TDC_D_CFG : Nat := 0x1470
abbrev TDC_D_WMIN : Nat := 0x1474
abbrev TDCCAL_CTL : Nat := 0x1520
abbrev TDCCAL_STAT : Nat := 0x1524
abbrev TDCCAL_SEL : Nat := 0x1528
abbrev TDCCAL_BIN : Nat := 0x152C
abbrev TDCCAL_OFS : Nat := 0x1530
abbrev TDCCAL_REJ_CNT : Nat := 0x1534
abbrev SEQ_CTL : Nat := 0x1820
abbrev SEQ_STAT : Nat := 0x1824
abbrev SEQ_PRE : Nat := 0x1828
abbrev SEQ_POST : Nat := 0x182C
abbrev SEQ_SRC : Nat := 0x1830
abbrev SEQ_CN_CFG : Nat := 0x1834
abbrev SEQ_CMP0 : Nat := 0x1838
abbrev SEQ_CMP1 : Nat := 0x183C
abbrev SEQ_CMP2 : Nat := 0x1840
abbrev SEQ_CMP3 : Nat := 0x1844
abbrev SEQ_TMLIM0 : Nat := 0x1848
abbrev SEQ_TMLIM1 : Nat := 0x184C
abbrev SEQ_TMLIM2 : Nat := 0x1850
abbrev SEQ_TMLIM3 : Nat := 0x1854
abbrev SEQ_RD_SEL : Nat := 0x1858
abbrev SEQ_RD_VAL : Nat := 0x185C
abbrev SEQ_TRIG_LO : Nat := 0x1860
abbrev SEQ_TRIG_HI : Nat := 0x1864
abbrev SEQ_SAT : Nat := 0x1868
abbrev SEQ_LAST : Nat := 0x186C
abbrev SEQL_SEL : Nat := 0x1920
abbrev SEQL_LVL : Nat := 0x1924
abbrev SEQL_COND_A : Nat := 0x1928
abbrev SEQL_COND_B : Nat := 0x192C
abbrev SEQL_COND_C : Nat := 0x1930
abbrev SEQL_COND_D : Nat := 0x1934
abbrev SEQL_ACT_A : Nat := 0x1938
abbrev SEQL_ACT_B : Nat := 0x193C
abbrev SEQL_ACT_C : Nat := 0x1940
abbrev SEQL_ACT_D : Nat := 0x1944
abbrev SEQL_OCC_AB : Nat := 0x1948
abbrev SEQL_OCC_CD : Nat := 0x194C
abbrev PAT0_CFG : Nat := 0x1A20
abbrev PAT0_MV : Nat := 0x1A24
abbrev PAT0_HI : Nat := 0x1A28
abbrev PAT0_EDGE : Nat := 0x1A2C
abbrev PAT1_CFG : Nat := 0x1A30
abbrev PAT1_MV : Nat := 0x1A34
abbrev PAT1_HI : Nat := 0x1A38
abbrev PAT1_EDGE : Nat := 0x1A3C
abbrev PAT2_CFG : Nat := 0x1A40
abbrev PAT2_MV : Nat := 0x1A44
abbrev PAT2_HI : Nat := 0x1A48
abbrev PAT2_EDGE : Nat := 0x1A4C
abbrev PAT3_CFG : Nat := 0x1A50
abbrev PAT3_MV : Nat := 0x1A54
abbrev PAT3_HI : Nat := 0x1A58
abbrev PAT3_EDGE : Nat := 0x1A5C
abbrev PAT4_CFG : Nat := 0x1A60
abbrev PAT4_MV : Nat := 0x1A64
abbrev PAT4_HI : Nat := 0x1A68
abbrev PAT4_EDGE : Nat := 0x1A6C
abbrev PAT5_CFG : Nat := 0x1A70
abbrev PAT5_MV : Nat := 0x1A74
abbrev PAT5_HI : Nat := 0x1A78
abbrev PAT5_EDGE : Nat := 0x1A7C
abbrev PAT6_CFG : Nat := 0x1A80
abbrev PAT6_MV : Nat := 0x1A84
abbrev PAT6_HI : Nat := 0x1A88
abbrev PAT6_EDGE : Nat := 0x1A8C
abbrev PAT7_CFG : Nat := 0x1A90
abbrev PAT7_MV : Nat := 0x1A94
abbrev PAT7_HI : Nat := 0x1A98
abbrev PAT7_EDGE : Nat := 0x1A9C
abbrev REC_CTL : Nat := 0x1C20
abbrev REC_MODE : Nat := 0x1C24
abbrev REC_STAT : Nat := 0x1C28
abbrev REC_USER : Nat := 0x1C2C
abbrev REC_SEL : Nat := 0x1C30
abbrev REC_ITEMS_LO : Nat := 0x1C34
abbrev REC_ITEMS_HI : Nat := 0x1C38
abbrev REC_BLOCKS : Nat := 0x1C3C
abbrev REC_USER_DROP : Nat := 0x1C40
abbrev REC_STOP : Nat := 0x1C44
abbrev CMP_CTL : Nat := 0x1D20
abbrev CMP_STAT : Nat := 0x1D24
abbrev CMP_SEL : Nat := 0x1D28
abbrev CMP_BYTES : Nat := 0x1D2C
abbrev CMP_STORED : Nat := 0x1D30
abbrev CMP_DROP_CNT : Nat := 0x1D34
abbrev DEC_CTL : Nat := 0x1E20
abbrev DEC_STAT : Nat := 0x1E24
abbrev DEC_LAST : Nat := 0x1E28
abbrev DEC_LAST_BLK : Nat := 0x1E2C
abbrev DEC_CNT_SEL : Nat := 0x1E30
abbrev DEC_CNT : Nat := 0x1E34
abbrev STG_CTL : Nat := 0x2020
abbrev STG_STAT : Nat := 0x2024
abbrev STG_COUNT : Nat := 0x2028
abbrev STG_CMD : Nat := 0x202C
abbrev STG_ROUTE : Nat := 0x2030
abbrev STG_CE_CNT : Nat := 0x2034
abbrev STG_UE_CNT : Nat := 0x2038
abbrev STG_DROP_CNT : Nat := 0x203C
abbrev STG_GAP_CNT : Nat := 0x2040
abbrev STG_PEAK : Nat := 0x2044
abbrev EVQ_STAT : Nat := 0x2120
abbrev EVQ_COUNT : Nat := 0x2124
abbrev EVQ_POP_LO : Nat := 0x2128
abbrev EVQ_POP_HI : Nat := 0x212C
abbrev EVQ_POP_TAG : Nat := 0x2130
abbrev EVQ_LOST : Nat := 0x2134
abbrev MEM_CTL : Nat := 0x2220
abbrev MEM_STAT : Nat := 0x2224
abbrev MEM_DIR : Nat := 0x2228
abbrev MEM_SEL : Nat := 0x222C
abbrev MEM_REGION : Nat := 0x2230
abbrev MEM_DIR_SHARE : Nat := 0x2234
abbrev MEM_HEAD : Nat := 0x2238
abbrev MEM_LIVE : Nat := 0x223C
abbrev MEM_TRIG : Nat := 0x2240
abbrev MEM_OLDEST_LO : Nat := 0x2244
abbrev MEM_OLDEST_HI : Nat := 0x2248
abbrev MEM_WPTR : Nat := 0x224C
abbrev MEM_CE_CNT : Nat := 0x2250
abbrev MEM_UE_CNT : Nat := 0x2254
abbrev MEM_ERR_ADDR : Nat := 0x2258
abbrev MEM_SCRUB_POS : Nat := 0x225C
abbrev HINGE_CTL : Nat := 0x2320
abbrev HINGE_STAT : Nat := 0x2324
abbrev HINGE_CMD : Nat := 0x2328
abbrev HINGE_C_REPLAY_CNT : Nat := 0x232C
abbrev HINGE_C_DUP_CNT : Nat := 0x2330
abbrev HINGE_C_RETRAIN_CNT : Nat := 0x2334
abbrev HINGE_C_SMP_CNT : Nat := 0x2338
abbrev HINGE_S_REPLAY_CNT : Nat := 0x233C
abbrev HINGE_S_DUP_CNT : Nat := 0x2340
abbrev HINGE_S_RETRAIN_CNT : Nat := 0x2344
abbrev HINGE_C_LAST : Nat := 0x2348
abbrev HINGE_S_LAST : Nat := 0x234C
abbrev HINGE_FAULT_CNT : Nat := 0x2350
abbrev HINGE_TRAIN_LAT : Nat := 0x2354
abbrev JOB_CTL : Nat := 0x2420
abbrev JOB_STAT : Nat := 0x2424
abbrev JOB_RING_LO : Nat := 0x2428
abbrev JOB_RING_HI : Nat := 0x242C
abbrev JOB_WB_LO : Nat := 0x2430
abbrev JOB_WB_HI : Nat := 0x2434
abbrev JOB_TAIL : Nat := 0x2438
abbrev JOB_HEAD : Nat := 0x243C
abbrev JOB_CANCEL : Nat := 0x2440
abbrev JOB_SLOT0 : Nat := 0x2444
abbrev JOB_SLOT1 : Nat := 0x2448
abbrev JOB_SLOT2 : Nat := 0x244C
abbrev JOB_SLOT3 : Nat := 0x2450
abbrev JOB_ENDED : Nat := 0x2454
abbrev JOB_FAIL_CNT : Nat := 0x2458
abbrev JOB_STALL_HOST : Nat := 0x245C
abbrev JOB_STALL_MEM : Nat := 0x2460
abbrev JOB_STALL_SLOT : Nat := 0x2464
abbrev HOST_CTL : Nat := 0x2520
abbrev HOST_STAT : Nat := 0x2524
abbrev HOST_LINK : Nat := 0x2528
abbrev HOST_ASPM : Nat := 0x252C
abbrev HOST_LTR_ACT : Nat := 0x2530
abbrev HOST_LTR_IDLE : Nat := 0x2534
abbrev HOST_APER : Nat := 0x2538
abbrev HOST_BW_CTL : Nat := 0x253C
abbrev HOST_BW_STAT : Nat := 0x2540
abbrev HOST_BW_DISC : Nat := 0x2544
abbrev HOST_BW_CA : Nat := 0x2548
abbrev HOST_UR_CNT : Nat := 0x254C
abbrev HOST_CA_CNT : Nat := 0x2550
abbrev HOST_CTO_CNT : Nat := 0x2554
abbrev HOST_POIS_CNT : Nat := 0x2558
abbrev HOST_RETRAIN_CNT : Nat := 0x255C
abbrev HOST_CORR_CNT : Nat := 0x2560
abbrev HOST_PM_RES : Nat := 0x2564
abbrev HOST_INTX : Nat := 0x2568
abbrev HOST_LAST_ERR : Nat := 0x256C
abbrev DIAG_CTL : Nat := 0x3020
abbrev DIAG_STAT : Nat := 0x3024
abbrev DIAG_INJ_SEL : Nat := 0x3028
abbrev DIAG_INJ_CNT : Nat := 0x302C
abbrev DIAG_INJ_DONE : Nat := 0x3030
abbrev DIAG_ERR_SUM : Nat := 0x3034
abbrev DIAG_TEMP : Nat := 0x3038
abbrev DIAG_IDCODE : Nat := 0x303C

end R

/-- The key of entry i behind a window register. -/
def win (k i : Nat) : Nat := k + 65536 * i

/-! ### The pages -/

/-- SYS page (03 R78). -/
def rowsSYS : List Row :=
  [⟨0x20, .rws, 0xFF37#32, 0x2#32⟩, ⟨0x24, .ro, 0xFFFFF0FF#32, 0x22000000#32⟩,
   ⟨0x28, .rc, 0x8000FFFF#32, 0x0#32⟩, ⟨0x2C, .rw, 0x3FF#32, 0x4F#32⟩, ⟨0x30, .ro, 0xFF#32, 0x80#32⟩,
   ⟨0x34, .w1c, 0x1F#32, 0x1#32⟩, ⟨0x38, .wo, 0xFFFF0003#32, 0x0#32⟩, ⟨0x3C, .ro, 0xFFFFFFF#32, 0x0#32⟩,
   ⟨0x40, .rw, 0xFFFFFFF#32, 0xFFFFFFF#32⟩, ⟨0x44, .rw, 0xFFFFFFF#32, 0x0#32⟩,
   ⟨0x48, .rw, 0xFFFFFFF#32, 0x0#32⟩, ⟨0x4C, .rw, 0xFFFFFFFF#32, 0x0#32⟩]

/-- PWR page (03 R78). -/
def rowsPWR : List Row :=
  [⟨0x20, .rw, 0x6#32, 0x0#32⟩, ⟨0x24, .ro, 0xF0000000#32, 0x0#32⟩, ⟨0x28, .rw, 0xFF00FFFF#32, 0x10000404#32⟩,
   ⟨0x2C, .ro, 0xFFFFFFF#32, 0x0#32⟩, ⟨0x30, .ro, 0xFFFFFFF#32, 0x0#32⟩, ⟨0x34, .ro, 0xFFFF#32, 0x0#32⟩,
   ⟨0x38, .ro, 0xC0FFFFFF#32, 0x0#32⟩, ⟨0x3C, .rc, 0x8000FFFF#32, 0x0#32⟩, ⟨0x40, .rw, 0xFFFFFFFF#32, 0x0#32⟩,
   ⟨0x44, .rw, 0xFFFFFFFF#32, 0x0#32⟩]

/-- CLK page (02 R49). -/
def rowsCLK : List Row :=
  [⟨0x20, .rws, 0x35#32, 0x10#32⟩, ⟨0x24, .ro, 0xF8000001#32, 0x0#32⟩, ⟨0x28, .rws, 0xFF#32, 0x10#32⟩,
   ⟨0x2C, .rc, 0x8000FFFF#32, 0x0#32⟩, ⟨0x30, .ro, 0xFFFFFFFF#32, 0x0#32⟩, ⟨0x34, .ro, 0xFFFFFF#32, 0x0#32⟩,
   ⟨0x38, .rw, 0x1#32, 0x0#32⟩, ⟨0x3C, .ro, 0xFFFF#32, 0x0#32⟩]

/-- TIDE page (02 R49). -/
def rowsTIDE : List Row :=
  [⟨0x20, .rws, 0x1F#32, 0xC#32⟩, ⟨0x24, .w1c, 0x60000000#32, 0x0#32⟩, ⟨0x28, .rc, 0x8000FFFF#32, 0x0#32⟩,
   ⟨0x2C, .ro, 0xFF#32, 0x0#32⟩, ⟨0x30, .rc, 0x8000FFFF#32, 0x0#32⟩, ⟨0x34, .rc, 0x7F01FF#32, 0x0#32⟩]

/-- SEC page (15 R355). -/
def rowsSEC : List Row :=
  [⟨0x20, (.rwk 3 false), 0xFFFF000C#32, 0x40000008#32⟩, ⟨0x24, .wo, 0xFFFF0307#32, 0x0#32⟩,
   ⟨0x28, .ro, 0xFFFFF7FF#32, 0x0#32⟩, ⟨0x2C, .ro, 0xFFFFFF#32, 0x0#32⟩, ⟨0x30, .ro, 0xFFFFFFFF#32, 0x0#32⟩,
   ⟨0x34, .ro, 0xFFFFFFFF#32, 0x0#32⟩, ⟨0x38, .ro, 0xFFFFFFFF#32, 0x0#32⟩, ⟨0x3C, .ro, 0xFFFFFFFF#32, 0x0#32⟩,
   ⟨0x40, .wo, 0xFFFFFFFF#32, 0x0#32⟩, ⟨0x44, .ro, 0xFFFFFF#32, 0x0#32⟩, ⟨0x48, .ro, 0xFFFFFFFF#32, 0x0#32⟩,
   ⟨0x4C, .rc, 0x8000FFFF#32, 0x0#32⟩]

/-- TB page (02 R49). -/
def rowsTB : List Row :=
  [⟨0x20, .rw, 0x7#32, 0x5#32⟩, ⟨0x24, .ro, 0xB0000000#32, 0x0#32⟩, ⟨0x28, .rl, 0xFFFFFFFF#32, 0x0#32⟩,
   ⟨0x2C, .rl, 0xFFFFFF#32, 0x0#32⟩, ⟨0x30, .rl, 0xFFFFFFFF#32, 0x0#32⟩, ⟨0x34, .rl, 0xFFFFFF#32, 0x0#32⟩,
   ⟨0x38, .ro, 0x8000FFFF#32, 0x0#32⟩, ⟨0x3C, .ro, 0xFFFF#32, 0x0#32⟩, ⟨0x40, .ro, 0xFFFFFFFF#32, 0x0#32⟩,
   ⟨0x44, .ro, 0xFFFFFFFF#32, 0x0#32⟩, ⟨0x48, .ro, 0xFFFFFFFF#32, 0x0#32⟩, ⟨0x4C, .rw, 0xF#32, 0x0#32⟩,
   ⟨0x50, .rws, 0xFFFFFFFF#32, 0x0#32⟩, ⟨0x54, .rws, 0x80FFFFFF#32, 0x0#32⟩,
   ⟨0x58, .rws, 0xFFFFFFFF#32, 0x40#32⟩, ⟨0x5C, .rws, 0xFFFF#32, 0x0#32⟩, ⟨0x60, .ro, 0xFFFF#32, 0x0#32⟩,
   ⟨0x64, .w1c, 0xFFFF#32, 0x0#32⟩, ⟨0x68, .rw, 0xFFFF#32, 0x0#32⟩, ⟨0x6C, .rw, 0xFFFFFFFF#32, 0x0#32⟩,
   ⟨0x70, .ro, 0xFFFFFFFF#32, 0x0#32⟩, ⟨0x74, .ro, 0xFFFFFFFF#32, 0x0#32⟩, ⟨0x78, .ro, 0xFFFFFFFF#32, 0x0#32⟩,
   ⟨0x7C, .ro, 0xFFFFFFFF#32, 0x0#32⟩, ⟨0x80, .ro, 0xFFFFFFFF#32, 0x0#32⟩, ⟨0x84, .ro, 0xFFFFFFFF#32, 0x0#32⟩,
   ⟨0x88, .ro, 0xFFFFFFFF#32, 0x0#32⟩, ⟨0x8C, .ro, 0xFFFFFFFF#32, 0x0#32⟩, ⟨0x90, .ro, 0xFFFFFFFF#32, 0x0#32⟩,
   ⟨0x94, .ro, 0xFFFFFFFF#32, 0x0#32⟩, ⟨0x98, .ro, 0xFFFFFFFF#32, 0x0#32⟩, ⟨0x9C, .ro, 0xFFFFFFFF#32, 0x0#32⟩,
   ⟨0xA0, .ro, 0xFFFFFFFF#32, 0x0#32⟩, ⟨0xA4, .ro, 0xFFFFFFFF#32, 0x0#32⟩, ⟨0xA8, .ro, 0xFFFFFFFF#32, 0x0#32⟩,
   ⟨0xAC, .ro, 0xFFFFFFFF#32, 0x0#32⟩]

/-- POD page (05 R122). -/
def rowsPOD : List Row :=
  [⟨0x20, .rw, 0xFF0F#32, 0xFF0F#32⟩, ⟨0x24, .rw, 0xFFFFFFFF#32, 0x2900148#32⟩, ⟨0x28, .ro, 0xFFFFF#32, 0x0#32⟩,
   ⟨0x2C, .wo, 0xFF#32, 0x0#32⟩, ⟨0x30, .rw, 0x7777#32, 0x4444#32⟩, ⟨0x34, .ro, 0x0#32, 0x0#32⟩,
   ⟨0x38, .ro, 0x80000000#32, 0x0#32⟩, ⟨0x3C, .rc, 0x8000FFFF#32, 0x0#32⟩, ⟨0x40, .rc, 0x8000FFFF#32, 0x0#32⟩,
   ⟨0x44, .ro, 0xFCFFFFFF#32, 0x0#32⟩, ⟨0x48, .ro, 0xFFFFFFFF#32, 0x0#32⟩, ⟨0x4C, .ro, 0xFFFFFFFF#32, 0x0#32⟩,
   ⟨0x50, .ro, 0xFFFFFFFF#32, 0x0#32⟩, ⟨0x54, .ro, 0xFFFFFFFF#32, 0x0#32⟩, ⟨0x58, .ro, 0xFFFFFFFF#32, 0x0#32⟩,
   ⟨0x5C, .ro, 0xFFFFFFFF#32, 0x0#32⟩, ⟨0x60, .ro, 0xFFFFFFFF#32, 0x0#32⟩, ⟨0x64, .ro, 0xFFFFFFFF#32, 0x0#32⟩]

/-- I2CT page (13 R323). -/
def rowsI2CT : List Row :=
  [⟨0x20, .rw, 0x13F1#32, 0x1100#32⟩, ⟨0x24, .ro, 0xF0FFFF7F#32, 0x0#32⟩,
   ⟨0x28, .rw, 0xFFFFFFFF#32, 0x3A1B120E#32⟩, ⟨0x2C, .rw, 0xFFFFFFFF#32, 0x1B1B1B3A#32⟩,
   ⟨0x30, .rw, 0xF7F#32, 0x808#32⟩, ⟨0x34, .rc, 0x8000FFFF#32, 0x0#32⟩, ⟨0x38, .rc, 0x8000FFFF#32, 0x0#32⟩,
   ⟨0x3C, .rc, 0x8000FFFF#32, 0x0#32⟩]

/-- I2CP page (05 R122). -/
def rowsI2CP : List Row :=
  [⟨0x20, .rw, 0x101#32, 0x101#32⟩, ⟨0x24, .wo, 0xF#32, 0x0#32⟩, ⟨0x28, .ro, 0xFF800000#32, 0x0#32⟩,
   ⟨0x2C, .rw, 0x7#32, 0x0#32⟩, ⟨0x30, .rw, 0xE37F00FF#32, 0x0#32⟩, ⟨0x34, .ro, 0xFFFFFFFF#32, 0x0#32⟩,
   ⟨0x38, .rc, 0x8000FFFF#32, 0x0#32⟩, ⟨0x3C, .rc, 0x8000FFFF#32, 0x0#32⟩]

/-- FE page (04 R97). -/
def rowsFE : List Row :=
  [⟨0x20, (.rwk 1 true), 0xC3#32, 0xC1#32⟩, ⟨0x24, .ro, 0xF8003FFF#32, 0x0#32⟩,
   ⟨0x28, (.rwk 1 true), 0x3FFF3FFF#32, 0x3FFF#32⟩, ⟨0x2C, (.rwk 1 true), 0x3FFF#32, 0x0#32⟩,
   ⟨0x30, (.rwk 1 true), 0xFFFF#32, 0x40#32⟩, ⟨0x34, .w1c, 0x3FFF3FFF#32, 0x0#32⟩,
   ⟨0x38, .rc, 0x8000FFFF#32, 0x0#32⟩, ⟨0x3C, .rc, 0x8000FFFF#32, 0x0#32⟩, ⟨0x40, .ro, 0xFFFFFFF#32, 0x0#32⟩,
   ⟨0x44, .ro, 0xBFFFFFFF#32, 0x0#32⟩, ⟨0x48, .ro, 0x4000FFFF#32, 0x0#32⟩, ⟨0x4C, .rw, 0x3F#32, 0x0#32⟩,
   ⟨0x50, (.rwk 2 true), 0xFFFF#32, 0x0#32⟩, ⟨0x54, (.rwk 1 true), 0x3F3F3F3F#32, 0x0#32⟩,
   ⟨0x58, (.rwk 1 true), 0x3F3F3F3F#32, 0x0#32⟩, ⟨0x5C, (.rwk 1 true), 0x3F3F3F3F#32, 0x0#32⟩,
   ⟨0x60, (.rwk 1 true), 0x3F3F3F3F#32, 0x0#32⟩, ⟨0x64, (.rwk 1 true), 0x3F3F3F3F#32, 0x0#32⟩,
   ⟨0x68, (.rwk 1 true), 0x3F3F3F3F#32, 0x0#32⟩, ⟨0x6C, (.rwk 1 true), 0x3F3F3F3F#32, 0x0#32⟩,
   ⟨0x70, (.rwk 1 true), 0x3FFF3FFF#32, 0x3800300#32⟩, ⟨0x74, (.rwk 1 true), 0x3FFF3FFF#32, 0x3800300#32⟩,
   ⟨0x78, (.rwk 1 true), 0x3FFF3FFF#32, 0x3800300#32⟩, ⟨0x7C, (.rwk 1 true), 0x3FFF3FFF#32, 0x3800300#32⟩,
   ⟨0x80, (.rwk 1 true), 0x3FFF3FFF#32, 0x3800300#32⟩, ⟨0x84, (.rwk 1 true), 0x3FFF3FFF#32, 0x3800300#32⟩,
   ⟨0x88, (.rwk 1 true), 0x3FFF3FFF#32, 0x3800300#32⟩, ⟨0x8C, (.rwk 1 true), 0x3FFF3FFF#32, 0x3800300#32⟩,
   ⟨0x90, (.rwk 1 true), 0x3FFF3FFF#32, 0x3800300#32⟩, ⟨0x94, (.rwk 1 true), 0x3FFF3FFF#32, 0x3800300#32⟩,
   ⟨0x98, (.rwk 1 true), 0x3FFF3FFF#32, 0x3800300#32⟩, ⟨0x9C, (.rwk 1 true), 0x3FFF3FFF#32, 0x3800300#32⟩,
   ⟨0xA0, (.rwk 1 true), 0x3FFF3FFF#32, 0x3800300#32⟩, ⟨0xA4, (.rwk 1 true), 0x3FFF3FFF#32, 0x3800300#32⟩]

/-- TDC page (06 R139). -/
def rowsTDC : List Row :=
  [⟨0x20, (.rwk 1 true), 0xFF0#32, 0xFF0#32⟩, ⟨0x24, .ro, 0xCF0FFF0F#32, 0x0#32⟩,
   ⟨0x28, (.rwk 1 true), 0xBB003FFF#32, 0x1001180#32⟩, ⟨0x2C, (.rwk 1 true), 0xBB003FFF#32, 0x1001180#32⟩,
   ⟨0x30, (.rwk 1 true), 0xBB003FFF#32, 0x1001180#32⟩, ⟨0x34, (.rwk 1 true), 0xBB003FFF#32, 0x1001180#32⟩,
   ⟨0x38, .rc, 0x8000FFFF#32, 0x0#32⟩, ⟨0x3C, .rw, 0x303#32, 0x0#32⟩, ⟨0x40, .rl, 0xFFFFFFFF#32, 0x0#32⟩,
   ⟨0x44, .rl, 0xFFFFFFFF#32, 0x0#32⟩, ⟨0x48, (.rwk 1 true), 0xFFFFFFFF#32, 0xFFFFFFFF#32⟩,
   ⟨0x4C, (.rwk 1 true), 0xFFFFFFFF#32, 0x3B9ACA00#32⟩, ⟨0x50, .rl, 0xFFFFFFFF#32, 0x0#32⟩,
   ⟨0x54, .rl, 0xFF#32, 0x0#32⟩, ⟨0x58, .rl, 0xFFFFFFFF#32, 0x0#32⟩, ⟨0x5C, .rl, 0xFF#32, 0x0#32⟩,
   ⟨0x60, .rl, 0xFFFFFFFF#32, 0x0#32⟩, ⟨0x64, .rl, 0xFFFF#32, 0x0#32⟩, ⟨0x68, .ro, 0xFFFFFFFF#32, 0x0#32⟩,
   ⟨0x6C, .rw, 0xFC110#32, 0x8100#32⟩, ⟨0x70, (.rwk 1 true), 0xE3FC0000#32, 0x0#32⟩,
   ⟨0x74, (.rwk 1 true), 0xFFFFFFFF#32, 0x0#32⟩]

/-- TDCCAL page (06 R139). -/
def rowsTDCCAL : List Row :=
  [⟨0x20, .rws, 0x1F0001#32, 0x140001#32⟩, ⟨0x24, .ro, 0xFF00FFFF#32, 0x0#32⟩, ⟨0x28, .rw, 0x3FF#32, 0x0#32⟩,
   ⟨0x2C, .ro, 0xFFFFFFFF#32, 0x0#32⟩, ⟨0x30, (.rwk 2 true), 0xFFFFFFFF#32, 0x0#32⟩,
   ⟨0x34, .rc, 0x8000FFFF#32, 0x0#32⟩]

/-- SEQ page (07 R168). -/
def rowsSEQ : List Row :=
  [⟨0x20, (.rwk 1 true), 0xFF80#32, 0x1E80#32⟩, ⟨0x24, .ro, 0xFCFF0000#32, 0x0#32⟩,
   ⟨0x28, (.rwk 1 true), 0xFFFFFFFF#32, 0x0#32⟩, ⟨0x2C, (.rwk 1 true), 0xFFFFFFFF#32, 0x100000#32⟩,
   ⟨0x30, (.rwk 1 true), 0xC77#32, 0x844#32⟩, ⟨0x34, (.rwk 1 true), 0xF0F#32, 0x0#32⟩,
   ⟨0x38, (.rwk 1 true), 0xFFFFFFFF#32, 0x1#32⟩, ⟨0x3C, (.rwk 1 true), 0xFFFFFFFF#32, 0x1#32⟩,
   ⟨0x40, (.rwk 1 true), 0xFFFFFFFF#32, 0x1#32⟩, ⟨0x44, (.rwk 1 true), 0xFFFFFFFF#32, 0x1#32⟩,
   ⟨0x48, (.rwk 1 true), 0xFFFFFFFF#32, 0x271#32⟩, ⟨0x4C, (.rwk 1 true), 0xFFFFFFFF#32, 0x271#32⟩,
   ⟨0x50, (.rwk 1 true), 0xFFFFFFFF#32, 0x271#32⟩, ⟨0x54, (.rwk 1 true), 0xFFFFFFFF#32, 0x271#32⟩,
   ⟨0x58, .rw, 0xF#32, 0x0#32⟩, ⟨0x5C, .ro, 0xFFFFFFFF#32, 0x0#32⟩, ⟨0x60, .rl, 0xFFFFFFFF#32, 0x0#32⟩,
   ⟨0x64, .rl, 0xFFFFFF#32, 0x0#32⟩, ⟨0x68, .w1c, 0xF#32, 0x0#32⟩, ⟨0x6C, .ro, 0xFFCFFFFF#32, 0x0#32⟩]

/-- SEQL page (07 R168). -/
def rowsSEQL : List Row :=
  [⟨0x20, .rw, 0xF#32, 0x0#32⟩, ⟨0x24, (.rwk 1 true), 0xB0#32, 0x0#32⟩,
   ⟨0x28, (.rwk 1 true), 0xEFFFFFFF#32, 0x7EFDFBF#32⟩, ⟨0x2C, (.rwk 1 true), 0xEFFFFFFF#32, 0x7EFDFBF#32⟩,
   ⟨0x30, (.rwk 1 true), 0xEFFFFFFF#32, 0x7EFDFBF#32⟩, ⟨0x34, (.rwk 1 true), 0xEFFFFFFF#32, 0x7EFDFBF#32⟩,
   ⟨0x38, (.rwk 1 true), 0xFFFFE000#32, 0x4000#32⟩, ⟨0x3C, (.rwk 1 true), 0xFFFFE000#32, 0x4000#32⟩,
   ⟨0x40, (.rwk 1 true), 0xFFFFE000#32, 0x4000#32⟩, ⟨0x44, (.rwk 1 true), 0xFFFFE000#32, 0x4000#32⟩,
   ⟨0x48, (.rwk 1 true), 0xFFFFFFFF#32, 0x10001#32⟩, ⟨0x4C, (.rwk 1 true), 0xFFFFFFFF#32, 0x10001#32⟩]

/-- PAT page (07 R168). -/
def rowsPAT : List Row :=
  [⟨0x20, (.rwk 1 true), 0xEC00FFFF#32, 0x0#32⟩, ⟨0x24, (.rwk 1 true), 0x3FFF3FFF#32, 0x3FFF0000#32⟩,
   ⟨0x28, (.rwk 1 true), 0x3FFF#32, 0x3FFF#32⟩, ⟨0x2C, (.rwk 1 true), 0xFFFFFFF#32, 0x0#32⟩,
   ⟨0x30, (.rwk 1 true), 0xEC00FFFF#32, 0x0#32⟩, ⟨0x34, (.rwk 1 true), 0x3FFF3FFF#32, 0x3FFF0000#32⟩,
   ⟨0x38, (.rwk 1 true), 0x3FFF#32, 0x3FFF#32⟩, ⟨0x3C, (.rwk 1 true), 0xFFFFFFF#32, 0x0#32⟩,
   ⟨0x40, (.rwk 1 true), 0xEC00FFFF#32, 0x0#32⟩, ⟨0x44, (.rwk 1 true), 0x3FFF3FFF#32, 0x3FFF0000#32⟩,
   ⟨0x48, (.rwk 1 true), 0x3FFF#32, 0x3FFF#32⟩, ⟨0x4C, (.rwk 1 true), 0xFFFFFFF#32, 0x0#32⟩,
   ⟨0x50, (.rwk 1 true), 0xEC00FFFF#32, 0x0#32⟩, ⟨0x54, (.rwk 1 true), 0x3FFF3FFF#32, 0x3FFF0000#32⟩,
   ⟨0x58, (.rwk 1 true), 0x3FFF#32, 0x3FFF#32⟩, ⟨0x5C, (.rwk 1 true), 0xFFFFFFF#32, 0x0#32⟩,
   ⟨0x60, (.rwk 1 true), 0xEC00FFFF#32, 0x0#32⟩, ⟨0x64, (.rwk 1 true), 0x3FFF3FFF#32, 0x3FFF0000#32⟩,
   ⟨0x68, (.rwk 1 true), 0x3FFF#32, 0x3FFF#32⟩, ⟨0x6C, (.rwk 1 true), 0xFFFFFFF#32, 0x0#32⟩,
   ⟨0x70, (.rwk 1 true), 0xEC00FFFF#32, 0x0#32⟩, ⟨0x74, (.rwk 1 true), 0x3FFF3FFF#32, 0x3FFF0000#32⟩,
   ⟨0x78, (.rwk 1 true), 0x3FFF#32, 0x3FFF#32⟩, ⟨0x7C, (.rwk 1 true), 0xFFFFFFF#32, 0x0#32⟩,
   ⟨0x80, (.rwk 1 true), 0xEC00FFFF#32, 0x0#32⟩, ⟨0x84, (.rwk 1 true), 0x3FFF3FFF#32, 0x3FFF0000#32⟩,
   ⟨0x88, (.rwk 1 true), 0x3FFF#32, 0x3FFF#32⟩, ⟨0x8C, (.rwk 1 true), 0xFFFFFFF#32, 0x0#32⟩,
   ⟨0x90, (.rwk 1 true), 0xEC00FFFF#32, 0x0#32⟩, ⟨0x94, (.rwk 1 true), 0x3FFF3FFF#32, 0x3FFF0000#32⟩,
   ⟨0x98, (.rwk 1 true), 0x3FFF#32, 0x3FFF#32⟩, ⟨0x9C, (.rwk 1 true), 0xFFFFFFF#32, 0x0#32⟩]

/-- REC page (08 R200). -/
def rowsREC : List Row :=
  [⟨0x20, (.rwk 1 true), 0x1F011F#32, 0x1F#32⟩, ⟨0x24, (.rwk 1 true), 0x3FF#32, 0x55#32⟩,
   ⟨0x28, .ro, 0x9F1F03FF#32, 0x0#32⟩, ⟨0x2C, .wo, 0x1F03FF#32, 0x0#32⟩, ⟨0x30, .rw, 0x7#32, 0x0#32⟩,
   ⟨0x34, .rl, 0xFFFFFFFF#32, 0x0#32⟩, ⟨0x38, .rl, 0xFFFF#32, 0x0#32⟩, ⟨0x3C, .ro, 0xFFFFFFFF#32, 0x0#32⟩,
   ⟨0x40, .rc, 0x8000FFFF#32, 0x0#32⟩, ⟨0x44, .ro, 0x8FFFFFFF#32, 0x0#32⟩]

/-- CMP page (09 R221). -/
def rowsCMP : List Row :=
  [⟨0x20, (.rwk 1 true), 0x1F1F0F01#32, 0xF01#32⟩, ⟨0x24, .ro, 0x9F1F07FF#32, 0x0#32⟩,
   ⟨0x28, .rw, 0x7#32, 0x0#32⟩, ⟨0x2C, .ro, 0xFFFFFFFF#32, 0x0#32⟩, ⟨0x30, .ro, 0xFFFFFFFF#32, 0x0#32⟩,
   ⟨0x34, .rc, 0x8000FFFF#32, 0x0#32⟩]

/-- DEC page (09 R221). -/
def rowsDEC : List Row :=
  [⟨0x20, .rw, 0x1#32, 0x1#32⟩, ⟨0x24, .ro, 0x8000FFFF#32, 0x0#32⟩, ⟨0x28, .ro, 0xFFF81FFF#32, 0x0#32⟩,
   ⟨0x2C, .ro, 0xFFFFFF#32, 0x0#32⟩, ⟨0x30, .rw, 0x7#32, 0x1#32⟩, ⟨0x34, .rc, 0x8000FFFF#32, 0x0#32⟩]

/-- STG page (10 R245). -/
def rowsSTG : List Row :=
  [⟨0x20, .rws, 0x307FF#32, 0x30020#32⟩, ⟨0x24, .ro, 0xF01F0000#32, 0x0#32⟩, ⟨0x28, .ro, 0xFFF3FFF#32, 0x0#32⟩,
   ⟨0x2C, .wo, 0x1#32, 0x0#32⟩, ⟨0x30, .ro, 0x80000007#32, 0x0#32⟩, ⟨0x34, .rc, 0x8000FFFF#32, 0x0#32⟩,
   ⟨0x38, .rc, 0x8000FFFF#32, 0x0#32⟩, ⟨0x3C, .rc, 0x8000FFFF#32, 0x0#32⟩, ⟨0x40, .rc, 0x8000FFFF#32, 0x0#32⟩,
   ⟨0x44, .rc, 0x3FFF#32, 0x0#32⟩]

/-- EVQ page (10 R245). -/
def rowsEVQ : List Row :=
  [⟨0x20, .w1c, 0x60000000#32, 0x0#32⟩, ⟨0x24, .ro, 0x1FF#32, 0x0#32⟩, ⟨0x28, .rl, 0xFFFFFFFF#32, 0x0#32⟩,
   ⟨0x2C, .rl, 0xFFFFFFFF#32, 0x0#32⟩, ⟨0x30, .rl, 0xF00001FF#32, 0x0#32⟩, ⟨0x34, .rc, 0x8000FFFF#32, 0x0#32⟩]

/-- MEM page (08 R200). -/
def rowsMEM : List Row :=
  [⟨0x20, .rws, 0xFF0003#32, 0x400001#32⟩, ⟨0x24, .ro, 0xDF00001F#32, 0x0#32⟩,
   ⟨0x28, (.rwk 1 true), 0x7FFF3FFF#32, 0x100000#32⟩, ⟨0x2C, .rw, 0x7#32, 0x0#32⟩,
   ⟨0x30, (.rwk 1 true), 0x7FFF3FFF#32, 0x0#32⟩, ⟨0x34, (.rwk 1 true), 0x7FFF3FFF#32, 0x30000#32⟩,
   ⟨0x38, .ro, 0x3FFFFFF#32, 0x0#32⟩, ⟨0x3C, .ro, 0x3FFFFFF#32, 0x0#32⟩, ⟨0x40, .ro, 0x83FFFFFF#32, 0x0#32⟩,
   ⟨0x44, .rl, 0xFFFFFFFF#32, 0x0#32⟩, ⟨0x48, .rl, 0xFFFFFF#32, 0x0#32⟩, ⟨0x4C, .ro, 0xFFFFFF#32, 0x0#32⟩,
   ⟨0x50, .rc, 0x8000FFFF#32, 0x0#32⟩, ⟨0x54, .rc, 0x8000FFFF#32, 0x0#32⟩, ⟨0x58, .ro, 0xDFFFFFFF#32, 0x0#32⟩,
   ⟨0x5C, .ro, 0x70FFFFFF#32, 0x0#32⟩]

/-- HINGE page (14 R336). -/
def rowsHINGE : List Row :=
  [⟨0x20, .rw, 0x3#32, 0x3#32⟩, ⟨0x24, .ro, 0xF0003F3F#32, 0x0#32⟩, ⟨0x28, .wo, 0x3#32, 0x0#32⟩,
   ⟨0x2C, .rc, 0x8000FFFF#32, 0x0#32⟩, ⟨0x30, .rc, 0x8000FFFF#32, 0x0#32⟩, ⟨0x34, .rc, 0x8000FFFF#32, 0x0#32⟩,
   ⟨0x38, .rc, 0x8000FFFF#32, 0x0#32⟩, ⟨0x3C, .rc, 0x8000FFFF#32, 0x0#32⟩, ⟨0x40, .rc, 0x8000FFFF#32, 0x0#32⟩,
   ⟨0x44, .rc, 0x8000FFFF#32, 0x0#32⟩, ⟨0x48, .ro, 0xFFFFFFFF#32, 0x0#32⟩, ⟨0x4C, .ro, 0xFFFFFFFF#32, 0x0#32⟩,
   ⟨0x50, .rc, 0x8000FFFF#32, 0x0#32⟩, ⟨0x54, .ro, 0x80FFFFFF#32, 0x0#32⟩]

/-- JOB page (11 R268). -/
def rowsJOB : List Row :=
  [⟨0x20, .rw, 0x1#32, 0x0#32⟩, ⟨0x24, .ro, 0xE07F7F07#32, 0x0#32⟩, ⟨0x28, .rw, 0xFFFFFFC0#32, 0x0#32⟩,
   ⟨0x2C, .rw, 0xFFFFFFFF#32, 0x0#32⟩, ⟨0x30, .rw, 0xFFFFFFC0#32, 0x0#32⟩, ⟨0x34, .rw, 0xFFFFFFFF#32, 0x0#32⟩,
   ⟨0x38, .rws, 0x7F#32, 0x0#32⟩, ⟨0x3C, .ro, 0x7F#32, 0x0#32⟩, ⟨0x40, .rws, 0x8000003F#32, 0x0#32⟩,
   ⟨0x44, .ro, 0xFFFFFFFF#32, 0x0#32⟩, ⟨0x48, .ro, 0xFFFFFFFF#32, 0x0#32⟩, ⟨0x4C, .ro, 0xFFFFFFFF#32, 0x0#32⟩,
   ⟨0x50, .ro, 0xFFFFFFFF#32, 0x0#32⟩, ⟨0x54, .ro, 0xFFFFFFFF#32, 0x0#32⟩, ⟨0x58, .rc, 0x8000FFFF#32, 0x0#32⟩,
   ⟨0x5C, .rc, 0x8000FFFF#32, 0x0#32⟩, ⟨0x60, .rc, 0x8000FFFF#32, 0x0#32⟩, ⟨0x64, .rc, 0x8000FFFF#32, 0x0#32⟩]

/-- HOST page (12 R301). -/
def rowsHOST : List Row :=
  [⟨0x20, .rw, 0x11F#32, 0x14#32⟩, ⟨0x24, .ro, 0xFFC00000#32, 0x0#32⟩, ⟨0x28, .ro, 0xFFE00000#32, 0xA00000#32⟩,
   ⟨0x2C, .rw, 0xFFFF#32, 0x204E#32⟩, ⟨0x30, .rw, 0xFFFFFFFF#32, 0x88628862#32⟩,
   ⟨0x34, .rw, 0xFFFFFFFF#32, 0x8C5C8C5C#32⟩, ⟨0x38, .rw, 0x3FFF#32, 0x0#32⟩, ⟨0x3C, .rw, 0x7#32, 0x0#32⟩,
   ⟨0x40, .ro, 0xCFFFFFFF#32, 0x0#32⟩, ⟨0x44, .rc, 0x8000FFFF#32, 0x0#32⟩, ⟨0x48, .rc, 0x8000FFFF#32, 0x0#32⟩,
   ⟨0x4C, .rc, 0x8000FFFF#32, 0x0#32⟩, ⟨0x50, .rc, 0x8000FFFF#32, 0x0#32⟩, ⟨0x54, .rc, 0x8000FFFF#32, 0x0#32⟩,
   ⟨0x58, .rc, 0x8000FFFF#32, 0x0#32⟩, ⟨0x5C, .rc, 0x8000FFFF#32, 0x0#32⟩, ⟨0x60, .rc, 0x8000FFFF#32, 0x0#32⟩,
   ⟨0x64, .ro, 0xFFFFFFFF#32, 0x0#32⟩, ⟨0x68, .ro, 0xF000FFFF#32, 0x0#32⟩, ⟨0x6C, .ro, 0x9FFFFFFF#32, 0x0#32⟩]

/-- DIAG page (14 R336). -/
def rowsDIAG : List Row :=
  [⟨0x20, (.rwk 3 false), 0x1#32, 0x0#32⟩, ⟨0x24, .ro, 0x80000000#32, 0x0#32⟩,
   ⟨0x28, (.rwk 3 false), 0x70F#32, 0x0#32⟩, ⟨0x2C, (.rwk 3 false), 0xFFFF#32, 0x1#32⟩,
   ⟨0x30, .ro, 0xFFFF#32, 0x0#32⟩, ⟨0x34, .ro, 0xFFFFFFF#32, 0x0#32⟩, ⟨0x38, .ro, 0xFFFF#32, 0x0#32⟩,
   ⟨0x3C, .ro, 0xFFFFFFFF#32, 0x15614299#32⟩]

/-- The page map (R22), part 1: the pages of function 1 (R16). -/
def pagesLow : List PageInfo :=
  [⟨0x00, 0x0001B000#32, 0x80000000#32, 0, 0, rowsSYS⟩,
   ⟨0x01, 0x01010100#32, 0x00000000#32, 0, 0, rowsPWR⟩,
   ⟨0x02, 0x02010100#32, 0x80000000#32, 0, 0, rowsCLK⟩,
   ⟨0x03, 0x03010100#32, 0x80000000#32, 0, 0, rowsTIDE⟩,
   ⟨0x04, 0x04010100#32, 0x40000303#32, 3, 0, rowsSEC⟩,
   ⟨0x05, 0x05010100#32, 0x80000000#32, 0, 0, rowsTB⟩,
   ⟨0x06, 0x06020100#32, 0x00000004#32, 0, 0, rowsPOD⟩,
   ⟨0x07, 0x07020100#32, 0x00000003#32, 0, 0, rowsI2CT⟩,
   ⟨0x08, 0x08020100#32, 0x20000008#32, 0, 0, rowsI2CP⟩]

/-- The page map, part 2. -/
def pagesHigh : List PageInfo :=
  [⟨0x10, 0x10030100#32, 0xE0013FFF#32, 1, 2, rowsFE⟩,
   ⟨0x11, 0x11030101#32, 0xE0003FFF#32, 1, 2, rowsFE⟩,
   ⟨0x12, 0x12030102#32, 0xE0003FFF#32, 1, 2, rowsFE⟩,
   ⟨0x13, 0x13030103#32, 0xE0003FFF#32, 1, 2, rowsFE⟩,
   ⟨0x14, 0x14040100#32, 0xE00000FF#32, 1, 0, rowsTDC⟩,
   ⟨0x15, 0x15040100#32, 0xE0000100#32, 2, 0, rowsTDCCAL⟩,
   ⟨0x18, 0x18050100#32, 0xE0044410#32, 1, 0, rowsSEQ⟩,
   ⟨0x19, 0x19050100#32, 0xC0000410#32, 1, 0, rowsSEQL⟩,
   ⟨0x1A, 0x1A050100#32, 0xE0000008#32, 1, 0, rowsPAT⟩,
   ⟨0x1C, 0x1C060100#32, 0xE0000005#32, 1, 0, rowsREC⟩,
   ⟨0x1D, 0x1D060100#32, 0xE0001000#32, 1, 0, rowsCMP⟩,
   ⟨0x1E, 0x1E060100#32, 0x20000006#32, 0, 0, rowsDEC⟩,
   ⟨0x20, 0x20070100#32, 0xA0021000#32, 0, 0, rowsSTG⟩,
   ⟨0x21, 0x21070100#32, 0x00040100#32, 0, 0, rowsEVQ⟩,
   ⟨0x22, 0x22070100#32, 0xE0000400#32, 1, 0, rowsMEM⟩,
   ⟨0x23, 0x23080100#32, 0x00000020#32, 0, 0, rowsHINGE⟩,
   ⟨0x24, 0x24080100#32, 0xA0004004#32, 0, 0, rowsJOB⟩,
   ⟨0x25, 0x25080100#32, 0x00000024#32, 0, 0, rowsHOST⟩,
   ⟨0x30, 0x300F0100#32, 0x4000000B#32, 3, 0, rowsDIAG⟩]

/-- The 28 pages, in the order of the index of R76. -/
def pageMap : List PageInfo := pagesLow ++ pagesHigh

/-- The page with a number, if it is implemented. -/
def pageInfo? (p : Nat) : Option PageInfo := pageMap.find? fun i => i.page = p

/-- The index of a page in the map (R76). -/
def pageIndex (p : Nat) : Nat := pageMap.findIdx fun i => i.page = p

/-- Bit 29 of _CAP: the block manages its own power (R75). -/
def PageInfo.pwrSelf (i : PageInfo) : Bool := bit i.cap 29

/-- The header registers of a page (R19); _ISTAT bit 31 and _PWRSTAT and _LOCK are computed on read. -/
def headerRows (i : PageInfo) : List Row :=
  [⟨0x00, .ro, 0xFFFFFFFF#32, i.id⟩, ⟨0x04, .ro, 0xFFFFFFFF#32, i.cap⟩,
   ⟨0x08, if i.pwrSelf then .rws else .ro, 0x3FFFF#32, if i.pwrSelf then 0x10#32 else 0x10000#32⟩,
   ⟨0x0C, .ro, 0xFFFFFFFF#32, 0#32⟩, ⟨0x10, .w1c, 0x7FFFFFFF#32, 0#32⟩, ⟨0x14, .rw, 0xFFFFFFFF#32, 0#32⟩,
   ⟨0x18, .w1c, 0xFFFFFFFF#32, 0#32⟩, ⟨0x1C, .ro, 0xFFFFFFFF#32, 0#32⟩]

/-- The register at a slot of a page, if it is implemented (R11). FE1 to FE3 have no fast bit (R97). -/
def row? (p slot : Nat) : Option Row :=
  match pageInfo? p with
  | none => none
  | some i =>
    match (headerRows i ++ i.rows).find? fun r => r.slot = slot with
    | none => none
    | some r => some (if 0x11 ≤ p ∧ p ≤ 0x13 ∧ slot = 0x20 then { r with mask := 0xC1#32 } else r)

/-- Keys of the header registers of a page. -/
abbrev istatKey (p : Nat) : Nat := p * 256 + 0x10
abbrev estatKey (p : Nat) : Nat := p * 256 + 0x18
abbrev ienKey (p : Nat) : Nat := p * 256 + 0x14
abbrev pwrctlKey (p : Nat) : Nat := p * 256 + 0x08

/-! ### The chart and what is loaded from it (R352, R353, R96, R131) -/

/-- Whether a calibration window index exists in lane m (R96). -/
def calIndexOk (m i : Nat) : Bool :=
  i ≤ 13 || (16 ≤ i && i ≤ 29) || (32 ≤ i && i ≤ 45) || i = 48 || (52 ≤ i && i ≤ 55 && m = 0)

/-- Bytes followed by their CRC-32 (R204, R352). -/
def withCrc (bs : List Byte) : List Byte := bs ++ bytesOfNat 4 (crc32 bs).toNat

/-- The chart's header. -/
def chartHeader : List Byte :=
  withCrc ([0x4B#8, 0x4C#8, 0x43#8, 0x48#8] ++ bytesOfNat 2 1 ++ bytesOfNat 2 32 ++ bytesOfNat 4 644 ++ bytesOfNat 4 0x20
    ++ bytesOfNat 4 64 ++ bytesOfNat 4 0x60 ++ bytesOfNat 4 548)

/-- The device descriptor. -/
def chartDescriptor : List Byte :=
  withCrc (bytesOfNat 2 0x1F4C ++ bytesOfNat 2 0x5614 ++ [0xB0#8, 0#8] ++ bytesOfNat 2 (if Config.reel then 1 else 0)
    ++ bytesOfNat 8 Config.unitSerial.toNat ++ bytesOfNat 2 56 ++ [4#8, 0#8] ++ bytesOfNat 4 1024
    ++ bytesOfNat 4 Config.testDate.toNat ++ bytesOfNat 4 0x15614299 ++ List.replicate 28 0#8)

/-- Entry j of FEm's window in the record: reserved indices hold 0. -/
def chartEntry (m j : Nat) : Nat := if calIndexOk m j then (Config.calEntry m j).toNat else 0

/-- The calibration record as every unit ships with it (R2). -/
def factoryRecord : List Byte :=
  withCrc ([0x4B#8, 0x4C#8, 0x43#8, 0x52#8] ++ bytesOfNat 2 1 ++ bytesOfNat 2 548 ++ bytesOfNat 2 Config.calTemp.toNat
    ++ List.replicate 6 0#8
    ++ ((List.range 4).flatMap fun m => (List.range 64).flatMap fun j => bytesOfNat 2 (chartEntry m j))
    ++ (List.range 4).flatMap fun i => bytesOfNat 4 (Config.tinOfs i).toNat)

/-- The record as the OTP reads: one that has been damaged fails its check (R353). -/
def recordBytes : List Byte :=
  if Config.recordDamaged then 0#8 :: factoryRecord.drop 1 else factoryRecord

/-- The record has its magic and its CRC-32 matches. -/
def chartOk : Bool :=
  recordBytes.take 4 = [0x4B#8, 0x4C#8, 0x43#8, 0x52#8] &&
    crc32 (recordBytes.take 544) = w32 (natOfBytes (recordBytes.drop 544))

/-- The instrument chart. -/
def chartBytes : List Byte := chartHeader ++ chartDescriptor ++ recordBytes

/-- What a reset loads into entry i of FEm's window, and into the offsets of input i: 0 where the record is bad (R353). -/
def calLoad (m i : Nat) : Word := if chartOk && calIndexOk m i then w32 (Config.calEntry m i).toNat else 0#32
def ofsLoad (i : Nat) : Word := if chartOk && decide (i < 4) then Config.tinOfs i else 0#32

/-! ### Configuration space (R271 to R274; the layout inside the capabilities is that of the PCI Express specification,
PRESUMED, log entry 11) -/

/-- A configuration register: offset, writable bits, write-1-to-clear bits, reset value. -/
structure CfgRow where
  off  : Nat
  mask : Word
  w1c  : Word
  rst  : Word
  deriving DecidableEq, Repr

/-- Key of a configuration register. -/
abbrev cfgKey (fn off : Nat) : Nat := 0x1000000 + 0x1000 * fn + off

/-- Function 0: header and first capabilities. -/
def cfgRows0 : List CfgRow :=
  [⟨0x00, 0#32, 0#32, 0x56141F4C#32⟩, ⟨0x04, 0x546#32, 0xF9000000#32, 0x100000#32⟩, ⟨0x08, 0#32, 0#32, 0x118000B0#32⟩,
   ⟨0x0C, 0#32, 0#32, 0x800000#32⟩, ⟨0x10, 0xFFFF0000#32, 0#32, 4#32⟩, ⟨0x14, 0xFFFFFFFF#32, 0#32, 0#32⟩,
   ⟨0x18, 0xF0000000#32, 0#32, 0xC#32⟩, ⟨0x1C, 0xFFFFFFFF#32, 0#32, 0#32⟩, ⟨0x2C, 0#32, 0#32, Config.subsystem 0⟩,
   ⟨0x30, 0xFFFF0001#32, 0#32, 0#32⟩, ⟨0x34, 0#32, 0#32, 0x40#32⟩, ⟨0x3C, 0xFF#32, 0#32, 0x100#32⟩,
   ⟨0x40, 0#32, 0#32, 0x48035001#32⟩, ⟨0x44, 0x103#32, 0x8000#32, 8#32⟩, ⟨0x50, 0#32, 0#32, 0x20010#32⟩,
   ⟨0x54, 0#32, 0#32, 0x10008CE2#32⟩, ⟨0x58, 0x79FF#32, 0xF0000#32, 0x2810#32⟩, ⟨0x5C, 0#32, 0#32, 0x45BC24#32⟩,
   ⟨0x60, 0x3CB#32, 0#32, 0#32⟩, ⟨0x74, 0#32, 0#32, 0x813#32⟩, ⟨0x78, 0x71F#32, 0#32, 0#32⟩,
   ⟨0x7C, 0#32, 0#32, 0x1E#32⟩, ⟨0x80, 0x3F#32, 0#32, 4#32⟩] ++
  [⟨0x100, 0#32, 0#32, 0x14820001#32⟩, ⟨0x104, 0#32, 0x17F010#32, 0#32⟩, ⟨0x108, 0x17F010#32, 0#32, 0#32⟩,
   ⟨0x10C, 0x17F010#32, 0#32, 0x62010#32⟩, ⟨0x110, 0#32, 0x31C1#32, 0#32⟩, ⟨0x114, 0x31C1#32, 0#32, 0x2000#32⟩,
   ⟨0x118, 0#32, 0#32, 0#32⟩, ⟨0x11C, 0#32, 0#32, 0#32⟩, ⟨0x120, 0#32, 0#32, 0#32⟩, ⟨0x124, 0#32, 0#32, 0#32⟩,
   ⟨0x128, 0#32, 0#32, 0#32⟩, ⟨0x148, 0#32, 0#32, 0x15810003#32⟩,
   ⟨0x14C, 0#32, 0#32, Config.unitSerial.setWidth 32⟩, ⟨0x150, 0#32, 0#32, Config.unitSerial.extractLsb' 32 32⟩] ++
  [⟨0x158, 0#32, 0#32, 0x17810019#32⟩, ⟨0x15C, 0xFE00#32, 0#32, 0#32⟩, ⟨0x160, 0#32, 3#32, 0#32⟩,
   ⟨0x164, 0#32, 0#32, 0x7F7F7F7F#32⟩, ⟨0x178, 0#32, 0#32, 0x1A810026#32⟩, ⟨0x17C, 0#32, 0#32, 0#32⟩,
   ⟨0x180, 0#32, 0#32, 0#32⟩, ⟨0x184, 0#32, 0x10#32, 0#32⟩, ⟨0x188, 0#32, 3#32, 0#32⟩, ⟨0x18C, 0#32, 3#32, 0#32⟩,
   ⟨0x190, 0#32, 3#32, 0#32⟩, ⟨0x198, 0#32, 0#32, 0xFFFF#32⟩, ⟨0x1A8, 0#32, 0#32, 0x1B810027#32⟩,
   ⟨0x1AC, 0#32, 0#32, 0x10000#32⟩, ⟨0x1B0, 0xFF7F#32, 0#32, 0x9C38#32⟩, ⟨0x1B4, 0xFF7F#32, 0#32, 0x9C38#32⟩,
   ⟨0x1B8, 0#32, 0#32, 0x1C010018#32⟩,
   ⟨0x1BC, 0x1FFF1FFF#32, 0#32, 0#32⟩, ⟨0x1C0, 0#32, 0#32, 0x1001E#32⟩, ⟨0x1C4, 0#32, 0#32, 0x211E1F#32⟩,
   ⟨0x1C8, 0xE3FF000F#32, 0#32, 0#32⟩, ⟨0x1CC, 0xFB#32, 0#32, 0x28#32⟩]

/-- Function 1. -/
def cfgRows1 : List CfgRow :=
  [⟨0x00, 0#32, 0#32, 0x56151F4C#32⟩, ⟨0x04, 0x542#32, 0xF9000000#32, 0x100000#32⟩, ⟨0x08, 0#32, 0#32, 0x088000B0#32⟩,
   ⟨0x0C, 0#32, 0#32, 0x800000#32⟩, ⟨0x10, 0xFFFFC000#32, 0#32, 4#32⟩, ⟨0x14, 0xFFFFFFFF#32, 0#32, 0#32⟩,
   ⟨0x2C, 0#32, 0#32, Config.subsystem 1⟩, ⟨0x34, 0#32, 0#32, 0x40#32⟩, ⟨0x3C, 0xFF#32, 0#32, 0x200#32⟩,
   ⟨0x40, 0#32, 0#32, 0x48035001#32⟩, ⟨0x44, 0x103#32, 0x8000#32, 8#32⟩, ⟨0x50, 0#32, 0#32, 0x20010#32⟩,
   ⟨0x54, 0#32, 0#32, 0x10008CE2#32⟩, ⟨0x58, 0x79FF#32, 0xF0000#32, 0x2810#32⟩, ⟨0x5C, 0#32, 0#32, 0x45BC24#32⟩,
   ⟨0x60, 0x3CB#32, 0#32, 0#32⟩, ⟨0x74, 0#32, 0#32, 0x13#32⟩, ⟨0x78, 0x31F#32, 0#32, 0#32⟩,
   ⟨0x7C, 0#32, 0#32, 0x1E#32⟩, ⟨0x80, 0x3F#32, 0#32, 4#32⟩, ⟨0x100, 0#32, 0#32, 0x20001#32⟩] ++
  [⟨0x104, 0#32, 0x17F010#32, 0#32⟩, ⟨0x108, 0x17F010#32, 0#32, 0#32⟩, ⟨0x10C, 0x17F010#32, 0#32, 0x62010#32⟩,
   ⟨0x110, 0#32, 0x31C1#32, 0#32⟩, ⟨0x114, 0x31C1#32, 0#32, 0x2000#32⟩, ⟨0x118, 0#32, 0#32, 0#32⟩,
   ⟨0x11C, 0#32, 0#32, 0#32⟩, ⟨0x120, 0#32, 0#32, 0#32⟩, ⟨0x124, 0#32, 0#32, 0#32⟩, ⟨0x128, 0#32, 0#32, 0#32⟩]

/-- The configuration register of a function at an offset; the others read 0. -/
def cfgRow? (fn off : Nat) : Option CfgRow :=
  (if fn = 0 then cfgRows0 else cfgRows1).find? fun r => r.off = off

/-! ### Reset values by key -/

/-- Reset of MEM_REGION of a stream (R201, reset layout). -/
def regionReset : Nat → Word
  | 0 => 0x0C800010#32
  | 1 => 0x0C800C90#32
  | 2 => 0x0C801910#32
  | 3 => 0x0C802590#32
  | _ => 0x0DF03210#32

/-- The value that every key holds after power-on reset. -/
def resetOf (k : Nat) : Word :=
  if 0x1000000 ≤ k then
    match cfgRow? ((k - 0x1000000) / 0x1000) (k % 0x1000) with
    | some r => r.rst
    | none => 0#32
  else
    let p := k % 65536 / 256
    let slot := k % 256
    let i := k / 65536
    if 0x10 ≤ p && p ≤ 0x13 && slot = 0x50 then
      calLoad (p - 0x10) i
    else if p = 0x15 && slot = 0x30 then ofsLoad i
    else if p = 0x22 && slot = 0x30 then regionReset i
    else if p = 0x22 && slot = 0x34 then w32 (0x30000 + 3 * i)
    else match row? p slot with
      | some r => r.reset
      | none => 0#32

end Sys2Proof.Machine
end

