-- ==== Sys2Proof/Machine/State.lean ====
section
/-! DEFINITION. The state of the engine as plain data: the register file, the state behind the registers block by block,
the event queue, Shoal, and the queue of waiting commands. The field defaults are the values after power-on reset. -/

namespace Sys2Proof.Machine

/-! ### Memories -/

/-- Stored registers, by key (RegMap): keys strictly rising, no entry equal to the register's reset value. -/
abbrev RegFile := List (Nat × Word)

/-- Shoal: address and byte, addresses strictly rising; an unlisted byte has never been written (R197). -/
abbrev Memory := List (Nat × Byte)

/-! ### What the engine transmits -/

/-- An output of the engine, in the order of transmission (R284). -/
inductive Tx where
  | completion (fn : Nat) (status : CplStatus) (data : List Word) (ep ido : Bool)
  | assertIntx (fn : Nat)
  | deassertIntx (fn : Nat)
  | ltr (word : Word)
  | pmPme (fn : Nat)
  /-- An error message: 0 correctable, 1 non-fatal, 2 fatal. -/
  | errMsg (fn kind : Nat)
  | writeMem (addr : Nat) (bytes : List Byte) (ido : Bool)
  | readMem (tag addr len : Nat) (ido : Bool)
  | portRead (port : Port) (key : Nat) (value : Word)
  | i2cSent (bytes : List Byte)
  | i2cAcks (acks : List Bool)
  | noticeSent (bytes : List Byte)
  /-- A transaction on the pod bus (R115): START, address with write, word address, repeated START, address with read,
  len bytes, STOP. -/
  | podRead (addr reg len : Nat)
  /-- SCL pulses that free the pod bus, and STOP once SDA reads high (R118). -/
  | podRecover (stop : Bool)
  /-- ACK and NAK frames that a receiver sends, Headland or the other die (R326). -/
  | hingeAck (link : Link) (atHeadland : Bool) (ack : Nat)
  | hingeNak (link : Link) (atHeadland : Bool) (ack : Nat)
  deriving DecidableEq, Repr

/-! ### Events (R237) -/

/-- A push of an event before it enters the queue. -/
structure Event where
  source : Nat
  code   : Nat
  prio   : Nat
  arg    : Nat
  time   : Nat
  /-- Its chapter orders it among the pushes of its source (R239). -/
  kept   : Bool := false
  deriving DecidableEq, Repr

/-- An entry of the event queue with its parity (R241). -/
structure Entry where
  bits  : BitVec 64
  /-- The class under which it was pushed (R238). -/
  cls   : Nat
  badHi : Bool
  badLo : Bool
  deriving DecidableEq, Repr

/-- The event queue (R237 to R242). -/
structure EvQueue where
  entries  : List Entry := []
  /-- Entries at the start of the current cycle that no pop has taken yet: what pops see (R243). -/
  visible  : Nat := 0
  /-- Pops of the current cycle that returned an entry. -/
  freed    : Nat := 0
  /-- Pushes discarded since the previous EVQ_OVERRUN. -/
  lostSince : Nat := 0
  deriving DecidableEq, Repr

/-- What a port latched at its last EVQ_POP_LO (R238); left is filled in at the end of the pop's cycle. -/
structure PopLatch where
  hi    : Word := 0#32
  tag   : Word := 0#32
  fresh : Bool := false
  deriving DecidableEq, Repr

/-! ### Time -/

/-- What has happened in the current coarse cycle (R12). -/
structure Cycle where
  /-- Bits of W1C registers that hardware has set in this cycle. -/
  sets : List (Nat × Word) := []
  /-- RC registers that hardware has updated in this cycle: key, value left to a read of this cycle, value without the
  earlier count. -/
  rc : List (Nat × Word × Word) := []
  /-- The boundary of this cycle has been taken. -/
  boundary : Bool := false
  /-- Compare channels whose commit takes effect from the next cycle (R43). -/
  fresh : BitVec 16 := 0#16
  /-- Words that staging has delivered in this cycle (R223). -/
  delivered : Nat := 0
  /-- REC_USER writes of this cycle: port order, streams, arg (R184). -/
  users : List (Nat × Nat × Nat) := []
  /-- An AON clock edge has been recognised in this cycle (R102). -/
  edge : Bool := false
  /-- Compare fires of this cycle, and edges of TRIG_IN in it: rising, falling. -/
  fires : BitVec 16 := 0#16
  trigRise : Bool := false
  trigFall : Bool := false
  /-- Sessions that have opened or ended in this cycle, with what held at its start: port, slot, open (R339, R350). -/
  sess : List ((Nat × Nat) × Bool) := []
  /-- The latest port in the order of R12 that has been served in this cycle. -/
  rank : Nat := 0
  deriving DecidableEq, Repr

/-- A compare channel (R37, R43, R44). -/
structure Chan where
  /-- CMPk, periodic adds included. -/
  val   : Time := 0#56
  hold  : Word := 0#32
  /-- It has fired and the value is still due (R44). -/
  catching : Bool := false
  deriving DecidableEq, Repr

/-- The time base, slack water and the compare channels (R39 to R45). -/
structure TimeBlk where
  /-- Coarse cycles since reset, for durations; not a register. -/
  now      : Nat := 0
  tb       : Time := 0#56
  counting : Bool := false
  /-- The coarse count has stopped and X32IN edges advance the time base (R41). -/
  coasting : Bool := false
  acc      : Nat := 0
  slackLen : Nat := 0
  advance  : Nat := 0
  errEntry : Word := 0#32
  validEntry : Bool := false
  chans    : List Chan := List.replicate 16 {}
  /-- Streams that owe MARK.ANCHOR 0x003 (R42). -/
  owed     : BitVec 5 := 0#5
  /-- The time base has passed 2^56 − 1 and the wrap has not been dealt with (R39). -/
  wrapDue  : Bool := false
  /-- Counts tides, for the free values of Config. -/
  tides    : Nat := 0
  deriving DecidableEq, Repr

/-- The PLL (R26). -/
inductive Pll where
  | acquiring | locked | holdover
  deriving DecidableEq, Repr

/-- The reference monitor and the PLL (R25 to R27). -/
structure ClkBlk where
  pll        : Pll := .acquiring
  everLocked : Bool := false
  refPresent : Bool := false
  altPresent : Bool := false
  srcActive  : Bool := false
  /-- Cycle in which acquiring or holdover began. -/
  start      : Nat := 0
  /-- Consecutive clean tides. -/
  good       : Nat := 0
  /-- No window of the current tide has failed, and one has passed. -/
  clean      : Bool := true
  /-- Cycle from which on no window has failed (R26 while the engine does not count). -/
  since      : Nat := 0
  /-- The latest window failed. -/
  failed     : Bool := false
  x32Ok      : Bool := false
  x32Valid   : Bool := false
  slackValid : Bool := false
  deriving DecidableEq, Repr

/-- A pending RWS write (R35): the key with its window index, the value, and the cycle in which it arrived. -/
structure Pend where
  key : Nat
  val : Word
  at' : Nat
  deriving DecidableEq, Repr

/-- The store of R35 and the scheduler's own marks. -/
structure TideBlk where
  store   : List Pend := []
  backlog : Bool := false
  /-- Cliff commits that wait for Hinge-C (R31). -/
  late    : List Pend := []
  snapCn  : List Word := [0#32, 0#32, 0#32, 0#32]
  snapTm  : List Word := [0#32, 0#32, 0#32, 0#32]
  snapTb  : Time := 0#56
  deriving DecidableEq, Repr

/-! ### Modes, power, resets -/

/-- The six modes (R51). -/
inductive Mode where
  | hibernate | doze | measure | armed | capture | unload
  deriving DecidableEq, Repr

/-- How far the engine is between its resets and running (R64, R67, R69). -/
inductive Phase where
  /-- RESET_N is low. -/
  | resetHeld
  /-- Rails are changing, upward or downward; the remaining steps are in PwrBlk.steps. -/
  | railsUp | railsDown
  /-- All changing rails are up; PG_IN is awaited. -/
  | waitPg
  /-- Boot (R69), after power-on reset or a hibernate exit. -/
  | boot
  /-- Waking from DOZE: register access comes with access. -/
  | waking
  | run
  /-- A core reset is in progress (R72). -/
  | coreReset
  deriving DecidableEq, Repr

/-- A transition in progress (R58). -/
structure Trans where
  src  : Mode
  tgt  : Mode
  tag  : Nat
  /-- A wake source became active during entry (R63). -/
  woken : Bool := false
  deriving DecidableEq, Repr

/-- A wake in progress (R64). -/
structure Wake where
  src    : Mode
  tgt    : Mode
  /-- Cycle of recognition. -/
  at'    : Nat
  fromHib : Bool
  /-- Register access is accepted. -/
  access : Bool := false
  /-- Coarse counting has resumed. -/
  resumed : Bool := false
  deriving DecidableEq, Repr

/-- The mode manager (R54 to R64). -/
structure SysBlk where
  phase    : Phase := .resetHeld
  /-- What the engine does now; SYS_MODE_STAT.mode follows a hardware transition at the next boundary (R60). -/
  mode     : Mode := .measure
  modeReg  : Mode := .measure
  target   : Mode := .measure
  trans    : Option Trans := none
  wake     : Option Wake := none
  /-- The pending request: tag and mode. -/
  req      : Option (Nat × Mode) := none
  lastTag    : Nat := 0
  lastReason : Nat := 0
  transTides : Nat := 0
  /-- Cycle of the last transition made by hardware (R60). -/
  hwAt     : Nat := 0
  /-- An abort or stop by request ends the run with this cycle, with MARK.STOP of this cause (R61, R93). -/
  ending   : Option Nat := none
  /-- The first cycle of a run that the stop condition has re-armed (R60). -/
  startAt  : Option Nat := none
  /-- SYS_PG_FAIL is owed to the next wake (R70). -/
  pgFailOwed : Bool := false
  wakeIn   : Bool := false
  deriving DecidableEq, Repr

/-- The switched rails (R66). -/
inductive Rail where
  | core | mem | ana
  deriving DecidableEq, Repr

/-- A rail that has still to switch: the level it takes and the AON periods after the previous one. -/
structure RailStep where
  rail  : Rail
  level : Bool
  delay : Nat
  deriving DecidableEq, Repr

/-- The power state of a block (R19 _PWRSTAT). -/
inductive PwrState where
  | off | on | retain | waking
  deriving DecidableEq, Repr

/-- A self-managed block (R73, R74). -/
structure BlkPwr where
  st      : PwrState := .on
  idle    : Nat := 0
  worked  : Bool := false
  start   : Nat := 0
  wakeLat : Nat := 0
  deriving DecidableEq, Repr

/-- The power manager and the AON rails (R66 to R75). -/
structure PwrBlk where
  enCore : Bool := false
  enMem  : Bool := false
  enAna  : Bool := false
  pgIn   : Bool := false
  /-- PG_IN has risen since the last enable rose. -/
  pgRisen : Bool := false
  steps  : List RailStep := []
  vddIo  : Bool := true
  perst  : Bool := true
  /-- The count of AON periods from which indicators blink, modulo 2^15 (R111). -/
  aon    : Nat := 0
  /-- The blocks in the order of Blk. -/
  blks   : List BlkPwr := List.replicate 15 {}
  /-- PWR_EST.mw of the last tide. -/
  est    : Nat := 0
  deriving DecidableEq, Repr

/-! ### Logic lanes (R79 to R98) -/

/-- A logic channel on Cliff. -/
structure ChanSt where
  /-- Comparator level after hold (R82). -/
  level  : Bool := false
  /-- Last report: 0 below, 1 between, 2 above. -/
  rep    : Nat := 0
  /-- The level is FEn_IDLE until the first report (R82). -/
  fresh  : Bool := true
  /-- The next evaluation is the first one: the filter takes its input at once (R85). -/
  start  : Bool := true
  filt   : Bool := false
  cnt    : Nat := 0
  /-- Consecutive between reports before this cycle (R83). -/
  t      : Nat := 0
  ep     : Bool := false
  rg     : Bool := false
  beyond : Nat := 0
  within : Nat := 0
  /-- The pin in the last two cycles, the later one first, by 25 ps steps (R86, R87). -/
  past   : List (List Int) := []
  deriving DecidableEq, Repr

/-- A lane: Cliff's state and what Headland holds of its frames. -/
structure Lane where
  running : Bool := false
  fast    : Bool := false
  chans   : List ChanSt := List.replicate 14 {}
  swap    : BitVec 14 := 0#14
  /-- The words and state vectors of the last intact frame (R333). -/
  words   : List (BitVec 14) := []
  rgVec   : BitVec 14 := 0#14
  amVec   : BitVec 14 := 0#14
  /-- One more than the cycle of the last evaluation on Cliff, and of the last intact frame. -/
  evalTo  : Nat := 0
  intactTo : Nat := 0
  damaged : Nat := 0
  /-- A damaged frame of this tide has been reported. -/
  dmgTide : Bool := false
  deriving DecidableEq, Repr

/-! ### Pods (R99 to R111) and the pod bus (R112 to R120) -/

/-- Slot states, in the order of their codes (R122). -/
inductive PodState where
  | empty | attached | powering | ready | fault | lost
  deriving DecidableEq, Repr

/-- A latched change (R100). -/
inductive PodFlag where
  | pres (seated : Bool)
  | attn (pressed : Bool)
  deriving DecidableEq, Repr

/-- A pod slot. -/
structure Pod where
  st      : PodState := .empty
  /-- Debounced states as sampled, and as reported. -/
  pres    : Bool := false
  attn    : Bool := false
  presRep : Bool := false
  attnRep : Bool := false
  flags   : List PodFlag := []
  /-- AON edges since it entered POWERING (R102). -/
  settle  : Nat := 0
  /-- It came to POWERING from LOST (R108 cause 1). -/
  glitched : Bool := false
  /-- Cycle of the AON edge that latched the last attention flag (R100). -/
  attnAt  : Option Nat := none
  census  : Nat := 0
  deriving DecidableEq, Repr

/-- What the walk does next: the slot visited, the item (none for the ID memory, or the list entry) and whether a
transaction awaits its retry (R114, R115). -/
structure Walk where
  todo    : List Nat
  slot    : Nat
  item    : Option Nat
  retry   : Bool
  visited : BitVec 4
  affected : BitVec 4
  /-- The recovery that precedes the first visit has not ended (R119). -/
  starting : Bool := false
  deriving DecidableEq, Repr

/-- The pod-bus controller. -/
structure PodBus where
  walk     : Option Walk := none
  queued   : BitVec 4 := 0#4
  refused  : Bool := false
  /-- The bus is stuck: since when, and whether it is SCL that is held low (R118, R119). -/
  recovering : Bool := false
  stuckAt  : Nat := 0
  stuckScl : Bool := false
  /-- The next walk begins with the recovery sequence (R119). -/
  needRecover : Bool := false
  entries  : List Nat := List.replicate 8 0
  /-- When the last transaction was refused, for the 1 ms of R115. -/
  nackAt   : Nat := 0
  deriving DecidableEq, Repr

/-! ### Timing inputs and difference units (R123 to R137) -/

/-- A timing input. -/
structure Tin where
  running : Bool := false
  level   : Bool := false
  /-- The pin voltage last seen, nV. -/
  volt    : Int := 0
  last    : Option (BitVec 64) := none
  stamp   : BitVec 64 := 0#64
  stampLost : Bool := false
  lostFlag : Bool := false
  lostTide : Bool := false
  trip    : Bool := false
  deriving DecidableEq, Repr

/-- Totals of a tide (R136). -/
structure Stats where
  cnt : Nat := 0
  tmo : Nat := 0
  min : Nat := 0xFFFFFFFFFF
  max : Nat := 0
  sum : Nat := 0
  deriving DecidableEq, Repr

/-- A difference unit. -/
structure DiffUnit where
  start  : Option (BitVec 64) := none
  lost   : Bool := false
  run    : Stats := {}
  /-- The snapshot of the last boundary; before the first it reads 0. -/
  snap   : Stats := { min := 0 }
  winTide : Bool := false
  deriving DecidableEq, Repr

/-- An interval or timeout on its way to the window check (R135): due cycle, unit, interval or none. -/
structure DiffRes where
  due  : Nat
  unit : Nat
  ival : Option Nat
  deriving DecidableEq, Repr

/-- The TDC. -/
structure TdcBlk where
  tins  : List Tin := List.replicate 4 {}
  units : List DiffUnit := List.replicate 4 {}
  res   : List DiffRes := []
  /-- Hits accumulated towards the next table, per input. -/
  hist  : List (List Nat) := List.replicate 4 (List.replicate 256 0)
  /-- The table in use, per input: none for the uniform one; else its hits. -/
  table : List (Option (List Nat)) := List.replicate 4 none
  /-- Depth N of the table in use. -/
  depth : List Nat := List.replicate 4 20
  valid : BitVec 4 := 0#4
  rej   : BitVec 4 := 0#4
  builds : Nat := 0
  /-- Hits of the last tide whose fold waits for Hinge-C (R31). -/
  fold : Option (List CalHit) := none
  /-- Cycle of the latest damaged timing frame (R333). -/
  badCyc : Option Nat := none
  /-- One more than the cycle of the last timing frame. -/
  frameTo : Nat := 0
  /-- Damaged timing frames in the span that a recording stream 4 is in. -/
  damaged : Nat := 0
  dmgTide : Bool := false
  deriving DecidableEq, Repr

/-! ### The trigger sequencer (R141 to R166) -/

/-- What the sequencer is given for a pin cycle: its lane words, RG and AM per lane, and the other sources. -/
structure Seen where
  n     : Nat
  words : List (List (BitVec 14)) := [[], [], [], []]
  rg    : BitVec 4 := 0#4
  am    : BitVec 4 := 0#4
  fires : BitVec 16 := 0#16
  tw    : BitVec 4 := 0#4
  /-- TRIG_IN: its level, and whether it rose or fell in the cycle. -/
  lvl   : Bool := false
  rise  : Bool := false
  fall  : Bool := false
  deriving DecidableEq, Repr

/-- A pattern matcher (R162). -/
structure Matcher where
  run  : Nat := 0
  prev : Option (BitVec 14) := none
  deriving DecidableEq, Repr

/-- The sequencer. -/
structure SeqBlk where
  running : Bool := false
  fired   : Bool := false
  q       : Bool := false
  level   : Nat := 0
  cnt     : List Nat := [0, 0, 0, 0]
  xprev   : List Bool := [false, false, false, false]
  cn      : List Word := [0#32, 0#32, 0#32, 0#32]
  /-- Cycle (model clock) of the word for which each timer was restarted. -/
  tm      : List Int := [0, 0, 0, 0]
  /-- Cycle up to which the timers of an ended run have counted. -/
  stopped : Nat := 0
  /-- Timers seen at their limit since their restart. -/
  tmSeen  : BitVec 4 := 0#4
  /-- First cycle of the run. -/
  arm     : Nat := 0
  pre     : Nat := 0
  post    : Nat := 0
  preHold : Bool := false
  preMet  : Bool := false
  holdSaid : Bool := false
  trigSub : Nat := 0
  /-- Cycle of the trigger word. -/
  trigAt  : Option Nat := none
  trigTb  : Time := 0#56
  /-- Next word to decide. -/
  next    : Nat := 0
  seen    : List Seen := []
  /-- What the last decided word was given, held for words of damaged frames (R333). -/
  held    : Seen := { n := 0 }
  pats    : List Matcher := List.replicate 8 {}
  /-- The pulses of TRIG_OUT, the one running and those to come: first cycle and the one after the last (R159). -/
  pulses  : List (Nat × Nat) := []
  trigIn  : Bool := false
  deriving DecidableEq, Repr

/-! ### Streams and the compressor (R169 to R214) -/

/-- One edge of stream 4 and the MARK.DIFF items that follow it. -/
structure EdgeItem where
  /-- The SAMPLE without its same bit (R179). -/
  item  : Item
  diffs : List Item := []
  deriving DecidableEq, Repr

/-- A mark with the key that orders it within its class. -/
structure OrdMark where
  key  : Nat
  item : Item
  deriving DecidableEq, Repr

/-- What one cycle of a stream holds before it is formatted (R174). -/
structure CycAcc where
  n       : Nat
  tbv     : Time
  words   : List (BitVec 14) := []
  /-- An intact frame has delivered the words of the cycle. -/
  got     : Bool := false
  damaged : Bool := false
  edges   : List EdgeItem := []
  /-- MARK.DIFF items that follow no edge SAMPLE. -/
  diffs   : List Item := []
  anchors : List Nat := []
  integ   : Option Nat := none
  fe      : List OrdMark := []
  trig    : Option Item := none
  levels  : List Item := []
  users   : List Item := []
  tide    : Option Item := none
  stop    : Option Nat := none
  qOn     : Bool := true
  /-- Close the open block before this cycle, which opens the next one (boundary with tide_close, wrap; R213). -/
  close   : Bool := false
  deriving DecidableEq, Repr

/-- An open block (R213). -/
structure OpenBlk where
  items  : List Item := []
  firstT : Time := 0#56
  live   : Bool := false
  runStart : Bool := false
  trig   : Bool := false
  afterGap : Bool := false
  lead   : List Item := []
  /-- A live block that staging has taken; one that staging dropped at its arrival (R225, R233). -/
  arrived : Bool := false
  gone    : Bool := false
  deriving DecidableEq, Repr

/-- A block that has closed (R202), with what its directory entry needs (R192). -/
structure Block where
  stream : Nat
  count  : Nat
  plen   : Nat
  firstT : Time
  /-- Payload bytes and CRC-32. -/
  body   : List Byte
  stored : Bool
  afterGap : Bool := false
  damaged  : Bool := false
  aborted  : Bool := false
  stop     : Bool := false
  runStart : Bool := false
  trig     : Bool := false
  /-- Its number in the stream's run (R192). -/
  num      : Nat := 0
  /-- The last block before the stream leaves the compressor input (R213). -/
  last     : Bool := false
  /-- The run that it belongs to. -/
  run      : Nat := 0
  /-- A gap block in a marker slot (R234). -/
  gap      : Bool := false
  mode     : Nat := 0
  lead     : List Item := []
  live     : Bool := false
  deriving DecidableEq, Repr

/-- A stream of the formatter and the compressor. -/
structure Stream where
  /-- The stream records in the current run, or is formatted in MEASURE. -/
  on      : Bool := false
  /-- It recorded in the current or last run (REC_STAT.rec). -/
  rec'    : Bool := false
  full    : Bool := false
  mode    : Nat := 1
  cycs    : List CycAcc := []
  /-- The slot after that of the last SAMPLE (cycle, or 4 per cycle in fast mode). -/
  next    : Nat := 0
  lastWord : Option (BitVec 14) := none
  blk     : Option OpenBlk := none
  fifo    : Nat := 0
  /-- Cycles are being discarded (R211). -/
  ovf     : Bool := false
  gapNext : Bool := false
  items   : Nat := 0
  blocks  : Nat := 0
  bytes   : Nat := 0
  storedN : Nat := 0
  stopTb  : Time := 0#56
  stopCause : Option Nat := none
  dropped : Bool := false
  /-- The next cycle opens a block whatever it holds. -/
  first   : Bool := true
  /-- A block of the run has opened. -/
  opened  : Bool := false
  deriving DecidableEq, Repr

/-- The formatter and compressor as a whole. -/
structure RecBlk where
  streams : List Stream := List.replicate 5 {}
  running : Bool := false
  runMode : Nat := 0
  tideMark : Nat := 0
  limit   : Nat := 15
  raw     : Nat := 0
  tideClose : Nat := 0
  ovfEv   : Bool := true
  /-- The layout registers of each stream as last taken at an arming (R177): region, share, directory. -/
  lay     : List (Word × Word × Word) := []
  /-- Counts runs. -/
  runNo   : Nat := 0
  peak    : Nat := 0
  /-- Next shared compressor slot goes to this stream (R210). -/
  robin   : Nat := 0
  /-- Services that the end of a run has taken before their cycles. -/
  ahead   : Nat := 0
  /-- Streams that close-on-tide has not reached since the last boundary (R31). -/
  closeLeft : BitVec 5 := 0#5
  /-- Closed blocks that wait for the staging queue (R225), in order. -/
  waiting : List Block := []
  /-- REC_CTL.meas_live acts (R188). -/
  measLive : Bool := false
  deriving DecidableEq, Repr

/-! ### Staging (R223 to R236) -/

/-- A block held in a bank. -/
structure SBlk where
  blk    : Block
  bank   : Bool
  start  : Nat
  resv   : Nat
  /-- Cycle of arrival. -/
  arr    : Nat
  marker : Bool := false
  /-- Header written (a live block is open until its close). -/
  closed : Bool := true
  /-- Cycle in which a live block closed, or of the gap block's latest version. -/
  closeAt : Nat := 0
  /-- Live: words written before this cycle, in the order of R224. -/
  wrote  : Nat := 0
  /-- Words delivered, in delivery order. -/
  deliv  : Nat := 0
  restart : Bool := false
  /-- Words that had been delivered before the restart. -/
  took   : Nat := 0
  dropped : Bool := false
  bad    : List (Nat × Ecc) := []
  /-- Data bits that uncorrectable words were delivered with inverted, by word offset. -/
  flips  : List (Nat × BitVec 64) := []
  /-- Destination offset of the block in its LIVE job (R263). -/
  off    : Option Nat := none
  deriving DecidableEq, Repr

/-- A gap episode (R233). -/
structure Episode where
  c    : Nat
  more : Bool
  deriving DecidableEq, Repr

/-- The staging queue. -/
structure StgBlk where
  fill   : Bool := false
  wp     : Nat := 0
  sealed : Bool := false
  blks   : List SBlk := []
  eps    : List (Option Episode) := List.replicate 5 none
  /-- The next placed block of the stream takes AFTER_GAP. -/
  gapped : BitVec 5 := 0#5
  routeLive : Bool := false
  routeStream : Nat := 0
  /-- A block is being written into F until this cycle. -/
  busyTo : Nat := 0
  /-- Blocks that the memory writer has taken whole and not placed (R193). -/
  toPlace : List Block := []
  peak   : Nat := 0
  deriving DecidableEq, Repr

/-! ### Shoal and the memory writer (R189 to R198) -/

/-- A live directory entry, oldest first. -/
structure LiveEnt where
  idx   : Nat
  addr  : Nat
  len   : Nat
  firstT : Time
  cyc   : Nat
  trig  : Bool
  deriving DecidableEq, Repr

/-- A stream's pointers. -/
structure MemStream where
  writing : Bool := false
  /-- The last run in which the stream recorded. -/
  run   : Nat := 0
  wptr  : Nat := 0
  head  : Nat := 0
  live  : List LiveEnt := []
  trig  : Option Nat := none
  /-- Entry index of the protected block P (R194). -/
  prot  : Option Nat := none
  deriving DecidableEq, Repr

/-- A run that has ended while blocks of it are still on their way to Shoal (R60, R193): its number, the layout that it
took, its pointers. -/
structure OldRun where
  run : Nat
  lay : List (Word × Word × Word)
  streams : List MemStream
  deriving DecidableEq, Repr

/-- The memory writer and scrub. -/
structure MemBlk where
  streams : List MemStream := List.replicate 5 {}
  /-- Streams that recorded in the run that ends (R195). -/
  ran     : BitVec 5 := 0#5
  old     : List OldRun := []
  scrubExt : Nat := 0
  scrubLine : Nat := 0
  scrubUsed : Nat := 0
  scrubAct : Bool := false
  selfRef : Bool := true
  deriving DecidableEq, Repr

/-- Shoal's contents and the words whose stored check fails (R197). -/
structure Shoal where
  mem : Memory := []
  bad : List (Nat × Ecc) := []
  /-- Counts what may make undefined bytes read otherwise, reads and losses of power, for Config.shoalFill. -/
  reads : Nat := 0
  deriving DecidableEq, Repr

/-! ### Jobs (R246 to R266) -/

/-- States of a ring entry (R252). -/
inductive JobState where
  | empty | ready | fetched | active | done | cancelled | failed
  deriving DecidableEq, Repr

/-- A ring entry. -/
structure JobEnt where
  st   : JobState := .empty
  desc : List Word := []
  /-- Its descriptor read is in flight. -/
  inRead : Bool := false
  /-- The tag of the read that has brought its descriptor, while other entries of that read are in flight (R259). -/
  tag  : Option Nat := none
  /-- A cancel or an error has been taken and the writeback waits: status, cause. -/
  ended : Option (Nat × Nat) := none
  /-- The writeback has been issued. -/
  wb   : Bool := false
  cancel : Bool := false
  deriving DecidableEq, Repr

/-- How far a Shoal job's slot is (R257). -/
inductive JobStage where
  | entry | block | decode | finish
  deriving DecidableEq, Repr

/-- A job slot. -/
structure JobSlot where
  busy   : Bool := false
  ring   : Nat := 0
  opcode : Nat := 0
  stream : Nat := 0
  stage  : JobStage := .entry
  /-- Words of the current directory entry. -/
  ent    : List Word := []
  entIdx : Nat := 0
  /-- Entries still to process. -/
  left   : Nat := 0
  /-- Sub-ring size and base, region base and end at activation. -/
  ringE  : Nat := 1
  dirAt  : Nat := 0
  regLo  : Nat := 0
  regHi  : Nat := 0
  /-- Bytes of dst that produced output takes, and bytes of it written. -/
  made   : Nat := 0
  out    : Nat := 0
  /-- The end of the bytes of dst written so far. -/
  top    : Nat := 0
  blocks : Nat := 0
  faults : Nat := 0
  /-- Code, position and entry of the first fault. -/
  code   : Nat := 0
  pos    : Nat := 0
  fent   : Nat := 0
  poison : Bool := false
  cut    : Bool := false
  /-- A LIVE job that a run has overtaken: it takes the live blocks still held and fails (R262). -/
  notSole : Bool := false
  frozen : Bool := false
  deriving DecidableEq, Repr

/-- A block handed to the decompressor (R219): slot, bytes, its 64-byte unit in Shoal (none: from staging), and the
entry's stream and time where it has one. -/
structure DecIn where
  slot  : Nat
  bytes : List Byte
  unit  : Option Nat
  /-- A live block that ends its stream (R265). -/
  last  : Bool
  expect : Option (Nat × Time)
  deriving DecidableEq, Repr

/-- A descriptor read in flight (R255, R259). -/
structure JobRead where
  tag   : Nat
  first : Nat
  n     : Nat
  at'   : Nat
  got   : List Word := []
  /-- It was outstanding when breakwater was entered. -/
  frozen : Bool := false
  /-- It has timed out while breakwater holds. -/
  late   : Bool := false
  deriving DecidableEq, Repr

/-- A data write that waits to be issued: its job's ring index, address and bytes, the end of the bytes in dst, and the
bytes before that end that it leaves unwritten: the header of a live block that comes last (R263). With tlp, it is no data
write but another TLP, which waits its turn behind them (R284, R285, R287). -/
structure OutWr where
  ring  : Nat
  addr  : Nat
  bytes : List Byte
  upTo  : Nat
  hole  : Nat := 0
  tlp   : Option Tx := none
  deriving DecidableEq, Repr

/-- A job whose writeback has been issued in this cycle and which is counted in the next (R260). -/
structure Ended where
  ring   : Nat
  status : Nat
  cause  : Nat
  irq    : Bool
  ev     : Bool
  deriving DecidableEq, Repr

/-- The job engine. -/
structure JobBlk where
  ents  : List JobEnt := List.replicate 64 {}
  head  : Nat := 0
  tail  : Nat := 0
  slots : List JobSlot := List.replicate 4 {}
  reads : List JobRead := []
  outQ  : List OutWr := []
  decQ  : List DecIn := []
  counted : List Ended := []
  ended : Nat := 0
  /-- An issue waited at the bound in this tide: host, memory, slots. -/
  waitHost : Bool := false
  waitMem  : Bool := false
  waitSlot : Bool := false
  /-- The tide work has left READY entries for the next tide (R255). -/
  left  : Bool := false
  decBlocks : Nat := 0
  deriving DecidableEq, Repr

/-! ### The host port (R269 to R299) -/

/-- Link power states, in the order of their codes. -/
inductive LinkPm where
  | l0 | l0s | l1 | l11 | l12 | down | recovery
  deriving DecidableEq, Repr

/-- Breakwater (R298). -/
inductive Breakwater where
  | opened | frozen | releasing
  deriving DecidableEq, Repr

/-- An I²C transaction that the port serves (R304 to R310). -/
structure I2cRun where
  /-- Acknowledges given so far. -/
  acks : List Bool := []
  /-- Registers of the write part still to be written. -/
  todo : List Word := []
  /-- They come under PEC, which has matched (R310). -/
  pec  : Bool := false
  /-- Bytes of a register that the write part does not complete (R309). -/
  rest : Nat := 0
  /-- The read part: its address byte and the bytes that the controller takes. -/
  rd   : Option (Byte × Nat) := none
  /-- The bytes that the PEC of the read part covers before its data. -/
  head : List Byte := []
  /-- The read part's address byte has been acknowledged; registers still to be read; bytes of those read. -/
  reading : Bool := false
  left : Nat := 0
  got  : List Byte := []
  /-- It is served after a lost arbitration (R319). -/
  lost : Bool := false
  deriving DecidableEq, Repr

/-- What a port has asked for. -/
inductive Work where
  /-- Register accesses in order, the values that those before them have read, and the function that is owed one
  completion for them all (none: a direct access). -/
  | regs (todo : List RegAccess) (got : List Word) (fn : Option Nat)
  /-- EVQ_POP: the bits of the entry that have been disturbed. -/
  | pop (flips : BitVec 64)
  /-- A memory request, with HOST_APER.base as it arrived (R276). -/
  | mem (q : MemReq) (base : Nat)
  | aper (off len : Nat) (upsets : List Upset) (base : Nat)
  | rom (off len : Nat)
  | cfg (q : CfgReq)
  | msg (fn : Nat) (m : Msg)
  /-- A transaction on the two-wire port that has not begun, after a lost arbitration or not; one that has. -/
  | bus (t : I2cTx) (lost : Bool)
  | i2c (t : I2cRun)
  deriving DecidableEq, Repr

/-- What a port has asked for and still waits (R17, R18, R72, R284, R330, R344). -/
structure Held where
  port : Port
  /-- Whether the port's sessions for slots 1 to 3 were open as the cycle of its arrival began (R339). -/
  auth : List Bool
  work : Work
  /-- It is served from this cycle on. -/
  after : Nat := 0
  /-- The Hinge-C frame that carries its first access, by sequence number; what that access has answered. -/
  sent : Option Nat := none
  reply : Option (Option Word) := none
  deriving DecidableEq, Repr

/-- The endpoint. -/
structure HostBlk where
  up      : Bool := false
  speed   : Nat := 0
  width   : Nat := 0
  pm      : LinkPm := .down
  /-- CLKREQ_N reads low. -/
  clkreq  : Bool := false
  inta    : Bool := false
  intb    : Bool := false
  msgs    : Nat := 0
  bw      : Breakwater := .opened
  bwCause : Nat := 0
  bwTb    : Time := 0#56
  lastErr : Word := 0#32
  ltrOn   : Bool := false
  ltrAct  : Bool := false
  /-- Posted credits that the root port has granted and no write has used, in units of 16 bytes. -/
  credits : Nat := 0
  /-- Cycle of the last PM_PME per function. -/
  pmeAt   : List (Option Nat) := [none, none]
  pmRes   : Nat := 0
  /-- What the three ports have asked for and still wait, in order of arrival. -/
  held    : List Held := []
  /-- TLP headers logged so far, for Config.tlpHeader. -/
  headers : Nat := 0
  /-- The highest rate that both ports support. -/
  peer    : Nat := 0
  /-- The engine has asked for a speed change that has not been made. -/
  speedReq : Bool := false
  deriving DecidableEq, Repr

/-! ### The two-wire port (R302 to R321) -/

/-- The target and its notices. -/
structure I2cBlk where
  addr   : Nat := 0x6C
  ptr    : Nat := 0
  /-- A transaction as target is in progress; so a read through the port itself finds it. -/
  busy   : Bool := false
  /-- A notice is due, the attempts that have failed, and whether the next attempt is a retry (R317, R318). -/
  due    : Bool := false
  attempts : Nat := 0
  waiting : Bool := false
  /-- Cycle of the last failed attempt (R318). -/
  failAt : Nat := 0
  /-- The I²C condition of R76 as last seen. -/
  cond   : Bool := false
  deriving DecidableEq, Repr

/-! ### Hinge links (R324 to R333) -/

/-- Link states, in the order of their codes. -/
inductive LinkState where
  | trained | replay | retrain | fault
  deriving DecidableEq, Repr

/-- What a DATA frame carries on Hinge-C: a register access to Cliff with the sessions that it found, or the value that a
read answers: the port, the sequence number of the frame that asked, the value (R324). -/
inductive HingeOp where
  | access (a : RegAccess) (auth : List Bool)
  | reply (port : Port) (of : Nat) (value : Word)
  deriving DecidableEq, Repr

/-- A DATA frame in the replay buffer. -/
structure OutFrame where
  seq  : Nat
  sent : Nat
  plays : Nat := 0
  op   : Option HingeOp := none
  deriving DecidableEq, Repr

/-- One end of a Hinge link: the sequence number of its next new frame, the one that it expects, its replay buffer, and
what waits for room in it (R326, R327). -/
structure LinkEnd where
  next  : Nat := 0
  exp   : Nat := 0
  out   : List OutFrame := []
  queue : List (Option HingeOp) := []
  deriving DecidableEq, Repr

/-- A Hinge link: Headland's end and the other die's. -/
structure HingeLink where
  st    : LinkState := .trained
  head  : LinkEnd := {}
  far   : LinkEnd := {}
  /-- Cycle in which Headland last sent a DATA frame. -/
  last  : Nat := 0
  start : Nat := 0
  /-- The retrain in progress is forced to fail (R334 kind 10). -/
  doomed : Bool := false
  /-- It is in DIE_FAULT: no retrain of HINGE_CMD has succeeded, and no reset has ended it (R329). -/
  faulted : Bool := false
  /-- It has not been trained since it entered DIE_FAULT (R18). -/
  lost : Bool := false
  deriving DecidableEq, Repr

/-- Both links. -/
structure HingeBlk where
  c : HingeLink := {}
  s : HingeLink := {}
  /-- Error injection (R334): active, kind, occurrences left, done. -/
  active : Bool := false
  kind   : Nat := 0
  left   : Nat := 0
  done   : Nat := 0
  deriving DecidableEq, Repr

/-! ### Key sessions (R337 to R351) -/

/-- Challenge states, in the order of their codes. -/
inductive Chal where
  | idle | challenged | checking | programming
  deriving DecidableEq, Repr

/-- A port's state (R342). -/
structure PortSec where
  chal   : Chal := .idle
  slot   : Nat := 0
  nonce  : BitVec 128 := 0#128
  age    : Nat := 0
  buf    : List Word := List.replicate 8 0#32
  idx    : Nat := 0
  ctr    : Nat := 0
  result : Nat := 0
  /-- Idle count of an opened session, per slot 1 to 3. -/
  sess   : List (Option Nat) := [none, none, none]
  deriving DecidableEq, Repr

/-- A key slot (R337, R346). -/
structure KeySlot where
  prog   : Bool := false
  key    : List Byte := List.replicate 32 0#8
  fails  : Nat := 0
  consec : Nat := 0
  level  : Nat := 0
  lock   : Option Nat := none
  deriving DecidableEq, Repr

/-- The key block. -/
structure SecBlk where
  ports : List PortSec := List.replicate 3 {}
  slots : List KeySlot := List.replicate 3 {}
  /-- A rejection of this tide has been pushed. -/
  said  : Bool := false
  nonces : Nat := 0
  deriving DecidableEq, Repr

/-- The instructions of the IEEE 1149.1 port (R378). -/
inductive TapIns
  | bypass | idcode | samplePreload | extest
  deriving DecidableEq, Repr

/-- The IEEE 1149.1 port (R378): whether its controller is in Test-Logic-Reset, its instruction, and the 76 cells of the
boundary-scan register, bit 0 nearest TDO. The spec gives the cells no reset value: zero is a DESIGN CHOICE
(assumption 46). -/
structure TapBlk where
  reset : Bool := true
  ir    : TapIns := .idcode
  cells : BitVec 76 := 0
  deriving DecidableEq, Repr

/-! ### The whole -/

/-- Per-port latches (R8, R17, R238). -/
structure PortLatch where
  /-- HI latches: key of the HI register and the value latched. -/
  hi  : List (Nat × Word) := []
  pop : PopLatch := {}
  deriving DecidableEq, Repr

/-- Everything but the event queue, Shoal and the command queue. -/
structure Engine where
  regs  : RegFile := []
  cyc   : Cycle := {}
  time  : TimeBlk := {}
  clk   : ClkBlk := {}
  tide  : TideBlk := {}
  sys   : SysBlk := {}
  pwr   : PwrBlk := {}
  lanes : List Lane := List.replicate 4 {}
  pods  : List Pod := List.replicate 4 {}
  bus   : PodBus := {}
  tdc   : TdcBlk := {}
  seq   : SeqBlk := {}
  recb  : RecBlk := {}
  stg   : StgBlk := {}
  mem   : MemBlk := {}
  job   : JobBlk := {}
  host  : HostBlk := {}
  i2c   : I2cBlk := {}
  hinge : HingeBlk := {}
  sec   : SecBlk := {}
  tap   : TapBlk := {}
  latch : List PortLatch := List.replicate 3 {}
  /-- Events pushed in the current cycle, which enter the queue at its end (R239). -/
  arriving : List Event := []
  tx    : List Tx := []
  deriving DecidableEq, Repr

/-- The state of the machine. -/
structure State where
  eng     : Engine := {}
  evq     : EvQueue := {}
  shoal   : Shoal := {}
  /-- The commands that wait, first in, first out. -/
  pending : List Instr := []
  deriving DecidableEq, Repr

/-- The machine right after power-on reset, with RESET_N still low (R69, R71, R374). -/
def State.reset : State := {}

/-- What stops the machine. -/
inductive Fault where
  /-- A Shoal byte address at or beyond 1 GiB, which does not exist (R190, R192). Raised by the readers and the writer
  of Shoal; safe: the machine stops where the manual gives no behaviour. -/
  | shoalRange
  deriving DecidableEq, Repr

/-- What the model does not run. -/
inductive Refusal where
  /-- A command that has no meaning yet; raised only by the dispatch; safe: the machine stops. -/
  | notModelled (mnemonic : String)
  deriving DecidableEq, Repr

/-- The outcome of a command. -/
abbrev Out := Host.Outcome State Fault Refusal

end Sys2Proof.Machine
end

