-- ==== Sys2Proof/Machine/Ops.lean ====
section
/-! DEFINITION. The named operations over the register file, the event log, Shoal, the blocks' power and the streams'
cycles that the meanings share. -/

namespace Sys2Proof.Machine

/-! ### The register file -/

/-- The value of a register: the listed one, else its reset value. -/
def RegFile.get (r : RegFile) (k : Nat) : Word :=
  match r.find? fun p => p.1 == k with
  | some p => p.2
  | none => resetOf k

/-- Puts a new key in its place. -/
def RegFile.insert (r : RegFile) (k : Nat) (v : Word) : RegFile :=
  match r with
  | [] => [(k, v)]
  | p :: t => if k < p.1 then (k, v) :: p :: t else p :: RegFile.insert t k v

/-- Writes a register, keeping the canonical form. -/
def RegFile.set (r : RegFile) (k : Nat) (v : Word) : RegFile :=
  if v = resetOf k then r.filter fun p => p.1 != k else RegFile.insert (r.filter fun p => p.1 != k) k v

/-- The canonical form: keys strictly rising, no entry equal to its reset value. -/
def RegFile.wf (r : RegFile) : Bool :=
  decide (List.Pairwise (fun a b : Nat × Word => a.1 < b.1) r) && r.all fun p => p.2 != resetOf p.1

/-- The output is a TLP. -/
def Tx.isPci : Tx → Bool
  | .completion .. | .assertIntx .. | .deassertIntx .. | .ltr .. | .pmPme .. | .errMsg .. | .writeMem .. | .readMem .. => true
  | .portRead .. | .i2cSent .. | .i2cAcks .. | .noticeSent .. | .podRead .. | .podRecover .. | .hingeAck .. | .hingeNak .. => false

namespace Engine

/-- Reads a stored register. -/
def rd (e : Engine) (k : Nat) : Word := e.regs.get k

/-- Writes a stored register. -/
def wr (e : Engine) (k : Nat) (v : Word) : Engine := { e with regs := e.regs.set k v }

/-- A field of a stored register. -/
def rf (e : Engine) (k lo len : Nat) : Nat := fld (e.rd k) lo len

/-- A bit of a stored register. -/
def rb (e : Engine) (k i : Nat) : Bool := bit (e.rd k) i

/-- Puts the registers that sel names back to their reset values. -/
def clearRegs (e : Engine) (sel : Nat → Bool) : Engine := { e with regs := e.regs.filter fun p => !sel p.1 }

/-- Hardware sets bits of a W1C register; a clear in the same cycle loses (R12). -/
def hwSet (e : Engine) (k : Nat) (m : Word) : Engine :=
  { e with regs := e.regs.set k (e.rd k ||| m), cyc := { e.cyc with sets := (k, m) :: e.cyc.sets } }

/-- A write of 1 to bits of a W1C register clears those that hardware has not set in this cycle (R6, R12). -/
def w1c (e : Engine) (k : Nat) (m : Word) : Engine :=
  let won := (e.cyc.sets.filter fun p => p.1 == k).foldl (fun a p => a ||| p.2) 0#32
  e.wr k (e.rd k &&& ~~~(m &&& ~~~won))

/-- Hardware updates an RC register (R12, R47): the read of this cycle still finds the start value. -/
def hwUpd (e : Engine) (k : Nat) (f : Word → Word) : Engine :=
  let rc' := match e.cyc.rc.find? fun p => p.1 == k with
    | some p => (k, p.2.1, f p.2.2) :: e.cyc.rc.filter fun q => q.1 != k
    | none => (k, e.rd k, f 0#32) :: e.cyc.rc
  { e with regs := e.regs.set k (f (e.rd k)), cyc := { e.cyc with rc := rc' } }

/-- Counts once in a counter of the 16-bit error class (R46, R47). -/
def count (e : Engine) (k : Nat) : Engine := e.hwUpd k bump16

/-- Counts n times. -/
def countN (e : Engine) (k n : Nat) : Engine := (List.range n).foldl (fun e _ => e.count k) e

/-- The value an RC read returns (R12). -/
def rcValue (e : Engine) (k : Nat) : Word :=
  match e.cyc.rc.find? fun p => p.1 == k with
  | some p => p.2.1
  | none => e.rd k

/-- What an RC read leaves (R6, R12). -/
def rcClear (e : Engine) (k : Nat) : Engine :=
  match e.cyc.rc.find? fun p => p.1 == k with
  | some p => { e with regs := e.regs.set k p.2.2
                       cyc := { e.cyc with rc := (k, 0#32, p.2.2) :: e.cyc.rc.filter fun q => q.1 != k } }
  | none => e.wr k 0#32

/-- Sets interrupt source bits of a page (R19). -/
def istat (e : Engine) (page bits : Nat) : Engine := e.hwSet (istatKey page) (w32 bits)

/-- Sets error bits of a page (R19). -/
def estat (e : Engine) (page bits : Nat) : Engine := e.hwSet (estatKey page) (w32 bits)

/-- Pushes an event with a time of its own (R237); it enters the queue at the end of the cycle (R239). -/
def pushAt (e : Engine) (source code prio arg time : Nat) : Engine :=
  { e with arriving := e.arriving ++ [{ source := source, code := code, prio := prio, arg := arg % 4096, time := time % 2 ^ 40 }] }

/-- Pushes an event with the time base of this cycle. -/
def push (e : Engine) (source code prio arg : Nat) : Engine := e.pushAt source code prio arg e.time.tb.toNat

/-- Pushes an event if a condition holds. -/
def pushIf (e : Engine) (c : Bool) (source code prio arg : Nat) : Engine :=
  if c then e.push source code prio arg else e

/-- A configuration register as stored. -/
def cfg (e : Engine) (fn off : Nat) : Word := e.rd (cfgKey fn off)

/-- Memory Space Enable. -/
def mse (e : Engine) (fn : Nat) : Bool := bit (e.cfg fn 0x04) 1

/-- Bus Master Enable of function 0 (R259). -/
def bme (e : Engine) : Bool := bit (e.cfg 0 0x04) 2

/-- The function is in D3hot. -/
def d3 (e : Engine) (fn : Nat) : Bool := fld (e.cfg fn 0x44) 0 2 == 3

/-- Host requests may be issued (R259, R266, R289). -/
def canIssue (e : Engine) : Bool := e.bme && !e.d3 0 && e.host.up && e.host.bw != .frozen

/-- IDO Request Enable of function 0, IDO Completion Enable of function 1 (R285). -/
def idoReq (e : Engine) : Bool := bit (e.cfg 0 0x78) 8
def idoCpl (e : Engine) (fn : Nat) : Bool := fn == 1 && bit (e.cfg 1 0x78) 9

/-- A TLP is to be sent or arrives: the link is in L0 (R291). From a substate the engine asserts CLKREQ_N again (R292). -/
def linkWake (e : Engine) : Engine :=
  match e.host.pm with
  | .l0s | .l1 => { e with host.pm := .l0 }
  | .l11 | .l12 => { e with host := { e.host with pm := .l0, clkreq := true } }
  | _ => e

/-- Puts an output on the link, the bus or the port. -/
def emit (e : Engine) (t : Tx) : Engine :=
  let e := if t.isPci then e.linkWake else e
  { e with tx := e.tx ++ [t] }

/-- It may pass posted writes that wait for credit: a completion with IDO set (R285). -/
def Tx.passes : Tx → Bool
  | .completion _ _ _ _ ido => ido
  | _ => false

/-- A TLP waits behind the posted writes that were issued before it and wait for credit (R284, R285, R287). -/
def waits (e : Engine) (t : Tx) : Bool := t.isPci && !Tx.passes t && e.canIssue && !e.job.outQ.isEmpty

/-- Transmits, in the order of R284 and R285. -/
def send (e : Engine) (t : Tx) : Engine :=
  if e.waits t then
    { e.linkWake with job.outQ := e.job.outQ ++ [{ ring := 64, addr := 0, bytes := [], upTo := 0, tlp := some t }] }
  else e.emit t

/-- Answers a request of a function (R280, R285). -/
def complete (e : Engine) (fn : Nat) (st : CplStatus) (data : List Word) (ep : Bool := false) : Engine :=
  e.send (.completion fn st data ep (e.idoCpl fn))

/-- n of the tide length 2^n (R29). -/
def tideN (e : Engine) : Nat := e.rf R.TIDE_CTL 0 5

/-- This cycle is a boundary cycle (R29). -/
def atBoundary (e : Engine) : Bool := e.time.counting && e.time.tb.toNat % 2 ^ e.tideN == 0

/-- Time base value of cycle n of the model clock, within the current run of counting. -/
def tbOf (e : Engine) (n : Nat) : Time := e.time.tb - BitVec.ofNat 56 (e.time.now - n)

/-! ### Per-block updates -/

def setLane (e : Engine) (m : Nat) (f : Lane → Lane) : Engine := { e with lanes := upd e.lanes m f }
def lane (e : Engine) (m : Nat) : Lane := e.lanes.getD m {}
def setPod (e : Engine) (n : Nat) (f : Pod → Pod) : Engine := { e with pods := upd e.pods n f }
def pod (e : Engine) (n : Nat) : Pod := e.pods.getD n {}
def setTin (e : Engine) (i : Nat) (f : Tin → Tin) : Engine := { e with tdc.tins := upd e.tdc.tins i f }
def tin (e : Engine) (i : Nat) : Tin := e.tdc.tins.getD i {}
def setUnit (e : Engine) (k : Nat) (f : DiffUnit → DiffUnit) : Engine := { e with tdc.units := upd e.tdc.units k f }
def unit (e : Engine) (k : Nat) : DiffUnit := e.tdc.units.getD k {}
def setStream (e : Engine) (s : Nat) (f : Stream → Stream) : Engine :=
  { e with recb.streams := upd e.recb.streams s f }
def stream (e : Engine) (s : Nat) : Stream := e.recb.streams.getD s {}
def setMem (e : Engine) (s : Nat) (f : MemStream → MemStream) : Engine :=
  { e with mem.streams := upd e.mem.streams s f }
def memS (e : Engine) (s : Nat) : MemStream := e.mem.streams.getD s {}
def setEnt (e : Engine) (i : Nat) (f : JobEnt → JobEnt) : Engine := { e with job.ents := upd e.job.ents i f }
def ent (e : Engine) (i : Nat) : JobEnt := e.job.ents.getD i {}
def setSlot (e : Engine) (k : Nat) (f : JobSlot → JobSlot) : Engine := { e with job.slots := upd e.job.slots k f }
def slot (e : Engine) (k : Nat) : JobSlot := e.job.slots.getD k {}
def setPort (e : Engine) (p : Nat) (f : PortSec → PortSec) : Engine := { e with sec.ports := upd e.sec.ports p f }
def port (e : Engine) (p : Nat) : PortSec := e.sec.ports.getD p {}
def setKey (e : Engine) (k : Nat) (f : KeySlot → KeySlot) : Engine := { e with sec.slots := upd e.sec.slots (k - 1) f }
/-- Key slot k, from 1 to 3 (R337). -/
def key (e : Engine) (k : Nat) : KeySlot := e.sec.slots.getD (k - 1) {}
def setLatch (e : Engine) (p : Nat) (f : PortLatch → PortLatch) : Engine := { e with latch := upd e.latch p f }

end Engine

/-- Port codes (R338). -/
def portCode : Port → Nat
  | .f0 => 0
  | .f1 => 1
  | .i2c => 2

/-! ### Modes -/

/-- Mode codes (R51). -/
def Mode.code : Mode → Nat
  | .hibernate => 0
  | .doze => 1
  | .measure => 2
  | .armed => 3
  | .capture => 4
  | .unload => 5

/-- The mode of a code below 6. -/
def Mode.ofCode : Nat → Mode
  | 0 => .hibernate
  | 1 => .doze
  | 2 => .measure
  | 3 => .armed
  | 4 => .capture
  | _ => .unload

/-- ARMED and CAPTURE. -/
def Mode.isRun (m : Mode) : Bool := m == .armed || m == .capture

/-- DOZE and HIBERNATE. -/
def Mode.isSleep (m : Mode) : Bool := m == .doze || m == .hibernate

/-- The modes in which the timing inputs run (R123). -/
def Mode.timing (m : Mode) : Bool := m == .measure || m == .armed || m == .capture

/-! ### Block power (R73 to R75, R379) -/

/-- Index of a block in PwrBlk.blks. -/
def blkIx : Blk → Nat
  | .i2cp => 0
  | .fe m => 1 + m.val
  | .tdc => 5
  | .tdccal => 6
  | .seq => 7
  | .pat => 8
  | .recf => 9
  | .cmp => 10
  | .dcmp => 11
  | .stg => 12
  | .mem => 13
  | .job => 14

/-- Pages of the self-managed blocks, by index (R75). -/
def blkPages : List Nat := [0x08, 0x10, 0x11, 0x12, 0x13, 0x14, 0x15, 0x18, 0x1A, 0x1C, 0x1D, 0x1E, 0x20, 0x22, 0x24]

/-- Page of a block index. -/
def blkPage (i : Nat) : Nat := blkPages.getD i 0

namespace Engine

/-- _PWRCTL.policy of a page: 0 AUTO, 1 ON, 2 OFF, 3 RETAIN. -/
def policy (e : Engine) (page : Nat) : Nat := e.rf (pwrctlKey page) 16 2

def blkP (e : Engine) (i : Nat) : BlkPwr := e.pwr.blks.getD i {}
def setBlk (e : Engine) (i : Nat) (f : BlkPwr → BlkPwr) : Engine := { e with pwr.blks := upd e.pwr.blks i f }

/-- The block is powered and ready. -/
def isOn (e : Engine) (i : Nat) : Bool := (e.blkP i).st == .on

/-- Power state of a block index that a mode powers from entry (R379), with the lanes of the run given. -/
def fromEntry (m : Mode) (lanes : Nat → Bool) (i : Nat) : Bool :=
  match m with
  | .measure => i == 5 || i == 6
  | .armed | .capture =>
    if 1 ≤ i ∧ i ≤ 4 then lanes (i - 1) else i == 5 || i == 6 || (7 ≤ i && i ≤ 10) || i == 12 || i == 13
  | .unload => i == 13 || i == 14
  | _ => false

/-- A block that a mode lets wake on demand (R379). -/
def onDemand (m : Mode) (i : Nat) : Bool :=
  match m with
  | .measure => i == 0 || i == 13 || i == 14 || i == 11 || i == 9 || i == 10 || i == 12
  | .armed | .capture => i == 0 || i == 14 || i == 11
  | .unload => i == 0 || i == 11
  | _ => false

/-- A demand on a block (R74): it counts as work of this tide, and a block that is off or in retention starts to wake,
unless its policy is OFF. -/
def demand (e : Engine) (i : Nat) : Engine :=
  let b := e.blkP i
  if e.policy (blkPage i) = 2 then e
  else if b.st = .off ∨ b.st = .retain then
    e.setBlk i fun b => { b with st := .waking, start := e.time.now, worked := true, idle := 0 }
  else e.setBlk i fun b => { b with worked := true }

end Engine

/-! ### Sessions (R338, R339) -/

namespace Engine

/-- The port has an open session for a slot: the slot is unprogrammed, or the port has opened one (R338). -/
def sessOpen (e : Engine) (p slot : Nat) : Bool :=
  slot == 0 || !(e.key slot).prog || ((e.port p).sess.getD (slot - 1) none).isSome

/-- It had one at the start of this cycle: what a guarded write that arrives now is checked against (R339, R350, R351). -/
def sessAt (e : Engine) (p slot : Nat) : Bool :=
  match e.cyc.sess.find? fun x => x.1 == (p, slot) with
  | some x => x.2
  | none => e.sessOpen p slot

/-- The port's sessions for slots 1 to 3 at the start of this cycle. -/
def auth (e : Engine) (p : Nat) : List Bool := [e.sessAt p 1, e.sessAt p 2, e.sessAt p 3]

/-- Sessions of a slot are about to open or end: what held at the start of the cycle is kept. -/
def keepSess (e : Engine) (p slot : Nat) : Engine :=
  if e.cyc.sess.any fun x => x.1 == (p, slot) then e
  else { e with cyc.sess := ((p, slot), e.sessOpen p slot) :: e.cyc.sess }

/-- A guarded write under a session restarts its idle count (R349). -/
def touchSess (e : Engine) (p slot : Nat) : Engine :=
  e.setPort p fun q => { q with sess := upd q.sess (slot - 1) fun o => o.map fun _ => 0 }

/-- A write that left an RWK field unchanged for lack of a session (R340). -/
def guardReject (e : Engine) (p page slotOff slot : Nat) : Engine :=
  let tide := e.time.tb.toNat / 2 ^ e.tideN % 16384
  let e := e.count R.SEC_REJ_CNT
  let e := e.wr R.SEC_LOG (w32 (p * 2 ^ 30 + slot * 2 ^ 28 + page * 2 ^ 20 + slotOff / 4 * 2 ^ 14 + tide))
  let e := e.istat 0x04 16
  if e.sec.said then e
  else { e.pushIf (e.rb R.SEC_CTL 3) 0xE 0x05 2 (p * 1024 + slot * 256 + page) with sec.said := true }

end Engine

/-! ### Shoal (R190, R197) -/

/-- Bytes of Shoal: 1 GiB. -/
def shoalSize : Nat := 2 ^ 30

/-- Inserts or replaces a byte, keeping the addresses rising. -/
def Memory.set (m : Memory) (a : Nat) (b : Byte) : Memory :=
  match m with
  | [] => [(a, b)]
  | p :: t => if a < p.1 then (a, b) :: p :: t else if a = p.1 then (a, b) :: t else p :: Memory.set t a b

/-- The byte at an address, none where nothing has written it. -/
def Memory.get (m : Memory) (a : Nat) : Option Byte := (m.find? fun p => p.1 == a).map (·.2)

/-- The canonical form: addresses strictly rising, all below 1 GiB. -/
def Memory.wf (m : Memory) : Bool :=
  decide (List.Pairwise (fun a b : Nat × Byte => a.1 < b.1) m) && m.all fun p => p.1 < shoalSize

namespace Shoal

/-- Writes bytes at consecutive addresses; a write outside Shoal faults. -/
def write (s : Shoal) (a : Nat) (bs : List Byte) : Except Fault Shoal :=
  if shoalSize < a + bs.length then .error .shoalRange
  else .ok { s with mem := (bs.zipIdx a).foldl (fun m p => Memory.set m p.2 p.1) s.mem
                    bad := s.bad.filter fun w => !(a / 8 ≤ w.1 && w.1 * 8 < a + bs.length) }

/-- The bytes at consecutive addresses; one that nothing has written is a free value. -/
def bytes (s : Shoal) (a n : Nat) : List Byte :=
  (List.range n).map fun i => match s.mem.get (a + i) with
    | some b => b
    | none => Config.shoalFill s.reads (a + i)

/-- Flips data bits of a stored 64-bit word. -/
def flipWord (s : Shoal) (w : Nat) (x : BitVec 64) : Shoal :=
  { s with mem := (List.range 8).foldl (fun m i => match Memory.get m (8 * w + i) with
      | some b => Memory.set m (8 * w + i) (b ^^^ x.extractLsb' (8 * i) 8)
      | none => m) s.mem }

/-- A disturbance of stored words (R197): the check of the word will find it. A double one changes the data too. -/
def disturb (s : Shoal) (us : List Upset) : Shoal :=
  us.foldl (fun s u =>
    if u.word < 2 ^ 27 then
      let s := if u.ecc = .double then s.flipWord u.word u.flip else s
      { s with bad := (u.word, u.ecc) :: s.bad.filter fun p => p.1 != u.word }
    else s) s

/-- The bad words of an extent, ascending. -/
def badIn (s : Shoal) (a n : Nat) : List (Nat × Ecc) :=
  (s.bad.filter fun p => a / 8 ≤ p.1 && p.1 * 8 < a + n).mergeSort fun x y => x.1 ≤ y.1

end Shoal

/-- What the check of words read by a reader reports (R197): readers 0 scrub, 1 job, 2 aperture. -/
def Engine.shoalErrors (e : Engine) (reader : Nat) (bad : List (Nat × Ecc)) : Engine :=
  bad.foldl (fun e p => match p.2 with
    | .single =>
      ((e.count R.MEM_CE_CNT).wr R.MEM_ERR_ADDR (w32 (2 ^ 31 + reader * 2 ^ 27 + p.1))).istat 0x22 4
    | .double =>
      let e := (e.count R.MEM_UE_CNT).wr R.MEM_ERR_ADDR (w32 (2 ^ 31 + 2 ^ 30 + reader * 2 ^ 27 + p.1))
      ((e.istat 0x22 1).estat 0x22 1).push 0x7 0x01 0 (reader * 256)) e

/-! ### Cycles of the streams -/

/-- Updates the account of cycle n of a stream, opening it where it does not exist; the list stays in cycle order. -/
def accUpd (l : List CycAcc) (n : Nat) (tbv : Time) (f : CycAcc → CycAcc) : List CycAcc :=
  match l with
  | [] => [f { n := n, tbv := tbv }]
  | c :: t => if n < c.n then f { n := n, tbv := tbv } :: c :: t
    else if n = c.n then f c :: t else c :: accUpd t n tbv f

/-- The account of cycle n of stream s, if the stream records in it: it goes on, or it has stopped later and the cycle
is still to be formatted. -/
def Engine.inCyc (e : Engine) (s n : Nat) (f : CycAcc → CycAcc) : Engine :=
  e.setStream s fun st =>
    if st.on || st.cycs.any (fun c => c.n == n) then { st with cycs := accUpd st.cycs n (e.tbOf n) f } else st

/-- Every recording stream. -/
def Engine.inAll (e : Engine) (n : Nat) (f : CycAcc → CycAcc) : Engine :=
  (List.range 5).foldl (fun e s => e.inCyc s n f) e

/-- A MARK item (R169, R170). -/
def markItem (type arg : Nat) : Item := BitVec.ofNat 16 (0x8000 + type * 1024 + arg % 1024)

/-- An EXT item. -/
def extItem (d : Nat) : Item := BitVec.ofNat 16 (0xC000 + d % 16384)

/-- The four EXT items of a 56-bit value (R170). -/
def ext56 (v : Nat) : List Item := (List.range 4).map fun i => extItem (v >>> (14 * i))

/-- MARK.ANCHOR of arg a is owed to this cycle in every stream that records (R28). -/
def Engine.anchorAll (e : Engine) (a : Nat) : Engine :=
  e.inAll e.time.now fun c => { c with anchors := c.anchors ++ [a] }

end Sys2Proof.Machine
end

