-- ==== Sys2Proof/Machine/Operands.lean ====
section
/-! DEFINITION. The operand forms of a register access: the key that a page and slot reach, windows included; the
reserved encodings (R10); byte enables (R275). -/

namespace Sys2Proof.Machine

/-- Windows: the register that names the entry, and the bit field of it. -/
def windowOf (k : Nat) : Option (Nat × Nat × Nat) :=
  if k = R.TB_CMP_LO ∨ k = R.TB_CMP_HI ∨ k = R.TB_CMP_RLD then some (R.TB_CMP_SEL, 0, 4)
  else if 0x1000 ≤ k ∧ k < 0x1400 ∧ k % 256 = 0x50 then some (k - 4, 0, 6)
  else if k = R.TDC_D_CFG ∨ k = R.TDC_D_WMIN ∨ k = R.TDC_D_WMAX ∨ k = R.TDC_D_TMO then some (R.TDC_SEL, 0, 2)
  else if k = R.TDCCAL_OFS then some (R.TDCCAL_SEL, 8, 2)
  else if 0x1924 ≤ k ∧ k ≤ 0x194C then some (R.SEQL_SEL, 0, 4)
  else if k = R.MEM_REGION ∨ k = R.MEM_DIR_SHARE then some (R.MEM_SEL, 0, 3)
  else if k = R.I2CP_LIST ∨ k = R.I2CP_RES then some (R.I2CP_SEL, 0, 3)
  else if k = R.DEC_CNT then some (R.DEC_CNT_SEL, 0, 3)
  else none

/-- The key that an access reaches at this moment (R50, R96, R140, R166, R201, R222). -/
def Engine.keyAt (e : Engine) (page slot : Nat) : Nat :=
  let k := page * 256 + slot
  match windowOf k with
  | some (sel, lo, len) => win k (e.rf sel lo len)
  | none => k

/-- The fields of a value that hold reserved encodings, as (lowest bit, length); those fields keep their value (R10). -/
def badFields (key : Nat) (v : Word) : List (Nat × Nat) :=
  let k := key % 65536
  let i := key / 65536
  let f := fld v
  let no (bad : Bool) (lo len : Nat) : List (Nat × Nat) := if bad then [(lo, len)] else []
  if k = R.CLK_CTL then no (f 4 2 == 3) 4 2
  else if k = R.CLK_MON then no (f 0 8 == 0) 0 8
  else if k = R.TIDE_CTL then no (f 0 5 < 10 || 16 < f 0 5) 0 5
  else if k = R.TB_CMP_RLD then no (v.toNat < 0x40) 0 32
  else if k = R.SYS_MODE_REQ then no (6 ≤ f 0 3) 0 3 ++ no (f 4 2 == 3) 4 2
  else if k = R.SYS_WAKE_EN then no (2 ≤ f 8 2) 8 2
  else if k = R.PWR_SEQ then no (f 24 8 == 0) 24 8
  else if k = R.POD_TIM then no (f 16 16 == 0) 16 16
  else if 0x1000 ≤ k ∧ k < 0x1400 then
    if k % 256 = 0x50 then
      let x := sgn 16 (f 0 16)
      no (if i < 32 then x < -2048 || 2047 < x else if i = 48 then false else x < -32 || 32 < x) 0 16
    else []
  else if R.TDC_TIN0 ≤ k ∧ k ≤ R.TDC_TIN3 then no (f 28 2 == 3) 28 2
  else if k = R.TDC_D_CFG then no (f 22 2 == 3) 22 2 ++ no (f 18 2 == 3) 18 2
  else if k = R.TDC_D_TMO then no (v.toNat == 0) 0 32
  else if k = R.TDCCAL_CTL then no (f 16 5 < 16 || 24 < f 16 5) 16 5
  else if k = R.SEQ_SRC then no (5 ≤ f 4 3) 4 3 ++ no (5 ≤ f 0 3) 0 3
  else if 0x1928 ≤ k ∧ k ≤ 0x1934 then
    (List.range 4).flatMap fun j => no (0x27 ≤ f (7 * j) 6 && f (7 * j) 6 ≤ 0x3E) (7 * j) 7
  else if 0x1938 ≤ k ∧ k ≤ 0x1944 then no (f 25 2 == 3) 25 2 ++ no (f 21 2 == 3) 21 2
  else if k = R.SEQL_OCC_AB ∨ k = R.SEQL_OCC_CD then no (f 0 16 == 0) 0 16 ++ no (f 16 16 == 0) 16 16
  else if k = R.REC_MODE then
    ((List.range 4).flatMap fun s => no (f (2 * s) 2 == 3) (2 * s) 2) ++ no (f 8 2 == 1 || f 8 2 == 3) 8 2
  else if k = R.REC_SEL ∨ k = R.MEM_SEL ∨ k = R.CMP_SEL then no (5 ≤ f 0 3) 0 3
  else if k = R.MEM_CTL then no (f 16 8 == 0) 16 8
  else if k = R.DEC_CNT_SEL then no (f 0 3 == 0 || f 0 3 == 7) 0 3
  else if k = R.STG_CTL then no (0x444 ≤ f 0 11) 0 11
  else if k = R.HOST_CTL then no (f 0 4 == 0 || 4 < f 0 4) 0 4
  else if k = R.HOST_ASPM then no (f 8 8 == 0) 8 8 ++ no (f 0 8 == 0) 0 8
  else if k = R.HOST_APER then no (0x3001 ≤ f 0 14) 0 14
  else if k = R.I2CT_TIMD then no (f 0 8 == 0) 0 8
  else if k = R.I2CT_TIMC then no (f 8 8 == 0) 8 8 ++ no (f 0 8 == 0) 0 8
  else if k = R.I2CT_NOTICE then
    no (f 0 7 < 8 || (0x6C ≤ f 0 7 && f 0 7 ≤ 0x6F) || 0x78 ≤ f 0 7) 0 7
  else if k = R.DIAG_INJ_SEL then no (11 ≤ f 0 4) 0 4
  else if k = R.DIAG_INJ_CNT then no (f 0 16 == 0) 0 16
  else []

/-- A written value with the reserved fields kept as they were (R10). -/
def sanitize (key : Nat) (old new : Word) : Word :=
  (badFields key new).foldl (fun v p => putf v p.1 p.2 (fld old p.1 p.2)) new

/-- The value that a write leaves in a register's fields: rsvd bits read 0 (R9), reserved encodings keep the field
(R10). -/
def written (r : Row) (key : Nat) (old new : Word) : Word := sanitize key old (merge r.mask old new)

/-- The newest pending value of a key (R35). -/
def Engine.pendingVal (e : Engine) (key : Nat) : Option Word :=
  (e.tide.store.reverse.find? fun p => p.key == key).map (·.val)

/-- A Cliff page (R22). -/
def isCliff (page : Nat) : Bool := 0x10 ≤ page && page ≤ 0x15

/-- Adds a pending entry, or drops it where 256 are held (R35). -/
def Engine.shadow (e : Engine) (key : Nat) (val : Word) : Engine :=
  if 256 ≤ e.tide.store.length then
    let e := ((e.hwSet R.TIDE_STAT (w32 (2 ^ 29))).estat 0x03 1).istat 0x03 8
    (e.count R.TIDE_DROP_CNT).push 0x1 0x07 1 (key % 65536 / 256)
  else
    let e := { e with tide.store := e.tide.store ++ [({ key := key, val := val, at' := e.time.now } : Pend)] }
    let n := e.tide.store.length
    e.hwUpd R.TIDE_COMMITS fun w => putf w 0 9 (max (fld w 0 9) n)

/-- A key of a calibration window whose index is reserved: it reads 0, and a write to it is ignored (R96). -/
def calReserved (key : Nat) : Bool :=
  let k := key % 65536
  decide (0x1000 ≤ k ∧ k < 0x1400 ∧ k % 256 = 0x50) && !calIndexOk (k / 256 - 0x10) (key / 65536)

/-- Adds a shadowed write: a partial one merges into the newest pending or the committed value (R35). -/
def Engine.shadowWrite (e : Engine) (r : Row) (key : Nat) (be : BitVec 4) (v : Word) : Engine :=
  if calReserved key then e
  else
  let base := (e.pendingVal key).getD (e.rd key)
  let new := if be = 15#4 then v else merge (beMask be) base v
  e.shadow key (new &&& r.mask)

end Sys2Proof.Machine
end

