-- ==== Sys2Proof/Machine/Flags.lean ====
section
/-! DEFINITION. The registers and bits that the engine computes from its state on a read: interrupt summary, status
registers, counters kept by the blocks. -/

namespace Sys2Proof.Machine

def PwrState.code : PwrState → Nat
  | .off => 0
  | .on => 1
  | .retain => 2
  | .waking => 3

def PodState.code : PodState → Nat
  | .empty => 0
  | .attached => 1
  | .powering => 2
  | .ready => 3
  | .fault => 4
  | .lost => 5

def LinkPm.code : LinkPm → Nat
  | .l0 => 0
  | .l0s => 1
  | .l1 => 2
  | .l11 => 3
  | .l12 => 4
  | .down => 5
  | .recovery => 6

def LinkState.code : LinkState → Nat
  | .trained => 0
  | .replay => 1
  | .retrain => 2
  | .fault => 3

def Chal.code : Chal → Nat
  | .idle => 0
  | .challenged => 1
  | .checking => 2
  | .programming => 3

def Breakwater.code : Breakwater → Nat
  | .opened => 0
  | .frozen => 1
  | .releasing => 2

namespace Engine

/-! ### Interrupts (R19, R21, R76) -/

/-- _ISTAT with esum. -/
def istatOf (e : Engine) (page : Nat) : Word :=
  e.rd (istatKey page) ||| (if e.rd (estatKey page) = 0#32 then 0#32 else 0x80000000#32)

/-- The page raises its interrupt (R21). -/
def raises (e : Engine) (page : Nat) : Bool := e.istatOf page &&& e.rd (ienKey page) != 0#32

/-- SYS_IRQ_SUM (R76). -/
def irqSum (e : Engine) : Word := w32 (mapBits 28 fun i => e.raises ((pageMap.getD i ⟨0, 0#32, 0#32, 0, 0, []⟩).page))

/-- The condition of a function's wire: 0 INTA, 1 INTB (R76). -/
def intxCond (e : Engine) (fn : Nat) : Bool :=
  e.irqSum &&& e.rd (if fn = 0 then R.SYS_IRQ_F0 else R.SYS_IRQ_F1) != 0#32

/-- The I²C condition (R76). -/
def i2cCond (e : Engine) : Bool := e.irqSum &&& e.rd R.SYS_IRQ_I2C != 0#32

/-! ### Configuration space conditions -/

/-- L1.2 is enabled (R292). -/
def l12Enabled (e : Engine) : Bool :=
  (bit (e.cfg 0 0x1C8) 2 && bit (e.cfg 0 0x60) 1) || (bit (e.cfg 0 0x1C8) 0 && e.d3 0 && e.d3 1)

/-- Max Payload Size of function 0, bytes (R269). -/
def maxPayload (e : Engine) : Nat := 128 * 2 ^ min 2 (fld (e.cfg 0 0x58) 5 3)

/-- Max Read Request Size of function 0, bytes. -/
def maxRead (e : Engine) : Nat := 128 * 2 ^ min 5 (fld (e.cfg 0 0x58) 12 3)

/-! ### Power views (R19, R75, R379) -/

/-- The rails have not come up, or boot runs: no mode has been entered yet, and the blocks read as reset leaves them
(R19, R69). -/
def starting (e : Engine) : Bool :=
  e.sys.phase == .resetHeld || e.sys.phase == .railsUp || e.sys.phase == .waitPg || e.sys.phase == .boot

/-- The power state a page shows: self-managed blocks have their own, the others are ON; MEM reports Shoal: OFF while
EN_MEM is low, RETAIN whenever Shoal is in self-refresh (R379). -/
def pwrState (e : Engine) (page : Nat) : PwrState :=
  match blkPages.findIdx? (· == page) with
  | some 13 =>
    if e.starting then (e.blkP 13).st
    else if !e.pwr.enMem then .off
    else match (e.blkP 13).st with
      | .on => if e.mem.selfRef then .retain else .on
      | .waking => .waking
      | _ => .retain
  | some i => (e.blkP i).st
  | none => .on

def wakeLat (e : Engine) (page : Nat) : Nat :=
  match blkPages.findIdx? (· == page) with
  | some i => (e.blkP i).wakeLat
  | none => 0

/-- _LOCK as a port reads it (R19, R338). -/
def lockOf (e : Engine) (p : Nat) (i : PageInfo) : Word :=
  let part (slot : Nat) : Nat :=
    if slot = 0 then 0
    else slot + at1 (e.key slot).prog 3 + at1 (e.sessAt p slot) 4 + at1 (e.key slot).lock.isSome 5
  w32 (part i.slotA + 256 * part i.slotB)

/-- Typical power of the current block states in units of 10 µW (R379's table). The table gives the port no figure for a
link that is down; it counts as in L1, with which the worked case's 140 mW after a hibernate wake agrees (DEDUCED, log
entry 18). -/
def powerSum (e : Engine) : Nat :=
  let b (i on ret : Nat) : Nat := match (e.blkP i).st with
    | .on | .waking => on
    | .retain => ret
    | .off => 0
  let fast := (e.lane 0).fast && (e.lane 0).running
  let host := match e.host.pm with
    | .l0 | .l0s | .recovery => 21000
    | .l1 | .l11 | .down => 600
    | .l12 => 5
  7500 + host + b 0 400 5 + b 1 (if fast then 40000 else 13000) 200 + b 2 13000 200 + b 3 13000 200 + b 4 13000 200
    + (if (List.range 4).any fun m => (e.lane m).running then 3600 else 0) + b 5 4800 150 + b 6 800 20 + b 7 3000 50
    + b 8 2500 50 + b 9 3500 50 + b 10 13000 100 + b 11 7000 50 + b 12 1800 50
    + (match e.pwrState 0x22 with
        | .on | .waking => if e.sys.mode.isRun then 11900 else 22000
        | .retain => 300
        | .off => 0) + b 14 2500 50

/-! ### Status registers -/

/-- SYS_MODE_STAT (R78). -/
def modeStat (e : Engine) : Word :=
  let s := e.sys
  let mode := match s.wake with
    | some w => w.src
    | none => s.modeReg
  w32 (at1 (s.trans.isSome || s.wake.isSome) 31 + s.target.code * 2 ^ 28 + at1 s.req.isSome 27
    + mode.code * 2 ^ 24 + s.lastTag * 2 ^ 16 + s.lastReason * 2 ^ 12 + stick 8 s.transTides)

/-- The channel's input stage is enabled (R84). -/
def chanEn (e : Engine) (m b : Nat) : Bool := e.rb (R.FEn_CH_CFG m) b

/-- pod_ok of a lane (R107). -/
def podOk (e : Engine) (m : Nat) : Bool := (e.pod m).st == .ready

/-- FEn_STAT. -/
def feStat (e : Engine) (m : Nat) : Word :=
  let l := e.lane m
  w32 (at1 l.running 31 + at1 (l.running && l.fast && m == 0) 30 + at1 (e.podOk m) 29
    + at1 (l.running && l.chans.any (·.rg)) 28 + at1 (l.running && l.chans.any (·.ep)) 27 + l.swap.toNat)

/-- FEn_LEVEL. -/
def feLevel (e : Engine) (m : Nat) : Word :=
  let l := e.lane m
  if !l.running || !e.podOk m then 0#32
  else w32 ((List.range 14).map fun b =>
    let c := l.chans.getD b {}
    (if !e.chanEn m b then 0 else if c.rg then 3 else c.rep) * 4 ^ b).sum

/-- PODn_PEN (R102). -/
def pen (e : Engine) (n : Nat) : Bool :=
  match (e.pod n).st with
  | .powering | .ready | .lost => true
  | _ => false

/-- Pack a 4-bit value per slot. -/
def nib (f : Nat → Nat) : Nat := ((List.range 4).map fun n => f n * 16 ^ n).sum

/-- Centre of a bin of an input's table, 1/256 fu (R129, R130). -/
def center (e : Engine) (i k : Nat) : Nat :=
  match e.tdc.table.getD i none with
  | none => 256 * k + 128
  | some h => ((2 * (h.take k).sum + h.getD k 0) * 32768) >>> e.tdc.depth.getD i 20

/-- The input is enabled and runs in this mode (R123). -/
def tinRuns (e : Engine) (i : Nat) : Bool :=
  e.rb (R.TDC_TIN0 + 4 * i) 31 && e.sys.mode.timing && e.time.counting && (e.isOn 5 || (e.blkP 5).st == .waking)

/-- TDC_STAT. -/
def tdcStat (e : Engine) : Word :=
  let en (i : Nat) : Bool := e.rb (R.TDC_TIN0 + 4 * i) 31
  w32 (at1 ((List.range 4).all fun i => !en i || e.tdc.valid.getLsbD i) 31 * (if e.tdc.valid = 0#4 then 0 else 1)
    + at1 (e.isOn 5 && (List.range 4).any fun i => e.tinRuns i) 30
    + mapBits 4 (fun k => (e.unit k).start.isSome) * 2 ^ 24 + mapBits 4 (fun i => (e.tin i).stampLost) * 2 ^ 16
    + mapBits 4 (fun i => e.rb (R.TDC_TIN0 + 4 * i) 27 && !(e.tin i).trip) * 2 ^ 12
    + mapBits 4 (fun i => (e.tin i).trip) * 2 ^ 8 + mapBits 4 (fun i => e.tinRuns i && (e.tin i).level))

/-- Elapsed cu of a level timer (R151). -/
def tmElapsed (e : Engine) (k : Nat) : Nat :=
  let upto : Int := if e.seq.running then (e.seq.next : Int) else e.seq.stopped
  stick 32 (upto - e.seq.tm.getD k 0).toNat

/-- Words in use in both banks (STG_COUNT.words). -/
def stgWords (e : Engine) : Nat := (e.stg.blks.map fun b => b.resv).sum

/-- Payload words of a block: those before its CRC word. -/
def blkWords (b : Block) : Nat := (20 + b.plen + 7) / 8

/-- Some word of a held block is still to be delivered. -/
def undelivered (b : SBlk) : Bool := !(b.dropped || (b.closed && blkWords b.blk ≤ b.deliv))

/-- A job state holds a number of entries. -/
def jobCount (e : Engine) (st : JobState) : Nat := (e.job.ents.filter fun j => j.st == st).length

/-- Any job is READY, FETCHED or ACTIVE (R57, R246). -/
def jobsBusy (e : Engine) : Bool :=
  e.job.ents.any fun j => j.st == .ready || j.st == .fetched || j.st == .active

/-- ALERT_N is driven low (R316). -/
def alert (e : Engine) : Bool := e.rb R.I2CT_CTL 8 && e.i2cCond && e.sys.mode != .hibernate

/-- PMCSR.PME_Status or the wire states: WAKE_N is driven low (R290). -/
def wakeN (e : Engine) : Bool :=
  !e.host.up && !e.pwr.perst && (bit (e.cfg 0 0x44) 15 || bit (e.cfg 1 0x44) 15)

/-- TRIG_OUT is in its pulse (R159). -/
def trigOut (e : Engine) : Bool :=
  let act := e.seq.running && e.seq.pulses.any fun p => decide (p.1 ≤ e.time.now) && decide (e.time.now < p.2)
  act != e.rb R.SEQ_CTL 15

end Engine
end Sys2Proof.Machine
end

