-- ==== Sys2Proof/Machine/Views.lean ====
section
/-! DEFINITION. The value that a read of each register returns, without its side effects: registers computed from the
state, then the stored ones. -/

namespace Sys2Proof.Machine

namespace Engine

/-- SYS, PWR, CLK, TIDE and TB pages. -/
def viewTime (e : Engine) (k : Nat) : Option Word :=
  let ch := e.time.chans.getD (e.rf R.TB_CMP_SEL 0 4) {}
  if k = R.SYS_MODE_STAT then some e.modeStat
  else if k = R.SYS_IRQ_SUM then some e.irqSum
  else if k = R.PWR_STAT then
    some (w32 (at1 e.pwr.enCore 31 + at1 e.pwr.enMem 30 + at1 e.pwr.enAna 29 + at1 e.pwr.pgIn 28))
  else if k = R.PWR_BLK_ON then
    some (w32 (mapBits 28 fun i => let st := e.pwrState ((pageMap.map (·.page)).getD i 0); st == .on || st == .waking))
  else if k = R.PWR_BLK_RET then
    some (w32 (mapBits 28 fun i => e.pwrState ((pageMap.map (·.page)).getD i 0) == .retain))
  else if k = R.PWR_EST then some (w32 e.pwr.est)
  else if k = R.CLK_STAT then
    some (w32 (at1 (e.clk.pll == .locked) 31 + at1 (e.clk.pll == .holdover) 30 + at1 e.clk.everLocked 29
      + at1 e.clk.refPresent 28 + at1 e.clk.altPresent 27 + at1 e.clk.srcActive 0))
  else if k = R.CLK_X32 then some (e.rd k ||| w32 (at1 e.clk.x32Ok 31))
  else if k = R.CLK_PLL then some (if e.time.tides = 0 then 0#32 else (Config.phaseErr e.time.tides).setWidth 32)
  else if k = R.TIDE_STAT then
    some (e.rd k ||| w32 (at1 e.tide.backlog 31 + e.tideN * 65536 + e.tide.store.length))
  else if k = R.TB_STAT then
    some (w32 (at1 (e.clk.pll == .holdover) 31 + at1 e.clk.slackValid 29 + at1 e.clk.x32Valid 28))
  else if k = R.TB_LO then some (e.time.tb.setWidth 32)
  else if k = R.TB_SNAP_LO then some (e.tide.snapTb.setWidth 32)
  else if k = R.TB_CMP_LO then some (ch.val.setWidth 32)
  else if k = R.TB_CMP_HI then
    some (w32 (at1 (e.rb (e.keyAt 5 0x54) 31) 31 + ch.val.toNat / 2 ^ 32))
  else if k = R.TB_CMP_PEND then
    some (if e.tide.store.any fun p => p.key == R.TB_CMP_EN then 0xFFFF#32
      else w32 (mapBits 16 fun c => e.tide.store.any fun p =>
        p.key == win R.TB_CMP_LO c || p.key == win R.TB_CMP_HI c || p.key == win R.TB_CMP_RLD c))
  else none

/-- SEC page; the port's own view (R355). -/
def viewSec (e : Engine) (p k : Nat) : Option Word :=
  let q := e.port p
  if k = R.SEC_STAT then
    some (w32 (q.ctr * 65536 + q.chal.code * 2 ^ 14 + (if q.chal = .challenged ∨ q.chal = .checking then q.slot * 2 ^ 12 else 0)
      + mapBits 3 (fun i => (q.sess.getD i none).isSome) * 256 + q.result * 16 + q.idx))
  else if k = R.SEC_SLOTS then
    some (w32 ((List.range 3).map fun i => let t := e.key (i + 1)
      (at1 t.prog 7 + at1 t.lock.isSome 6 + t.consec * 8 + t.level) * 256 ^ i).sum)
  else if R.SEC_NONCE0 ≤ k ∧ k ≤ R.SEC_NONCE3 then
    some (if q.chal = .challenged ∨ q.chal = .checking then q.nonce.extractLsb' (8 * (k - R.SEC_NONCE0)) 32 else 0#32)
  else if k = R.SEC_FAIL then
    some (w32 ((e.key 1).fails + 256 * (e.key 2).fails + 65536 * (e.key 3).fails))
  else none

/-- POD, I2CT and I2CP pages. -/
def viewPod (e : Engine) (k : Nat) : Option Word :=
  let b (f : Pod → Bool) : Nat := mapBits 4 fun n => f (e.pod n)
  if k = R.POD_STAT then
    some (w32 ((Config.podPins e.time.now).toNat % 16 * 65536 + (Config.podPins e.time.now).toNat / 16 * 4096 + mapBits 4 e.pen * 256 + b (·.attnRep) * 16 + b (·.presRep)))
  else if k = R.POD_STATE then some (w32 (nib fun n => (e.pod n).st.code))
  else if k = R.POD_CENSUS then some (w32 (at1 e.bus.walk.isSome 31 + nib fun n => (e.pod n).census))
  else if k = R.I2CT_STAT then
    some (w32 (at1 e.i2c.busy 31 + at1 e.i2c.due 29
      + at1 e.alert 28 + e.i2c.ptr * 256 + e.i2c.addr))
  else if k = R.I2CP_STAT then
    let slot := match e.bus.walk with
      | some w => w.slot
      | none => 0
    some (w32 (at1 e.bus.walk.isSome 31 + at1 e.bus.recovering 30 + slot * 2 ^ 28 + e.bus.queued.toNat * 2 ^ 24
      + at1 e.bus.refused 23 + ((List.range 8).map fun i => e.bus.entries.getD i 0 * 4 ^ i).sum))
  else none

/-- FE, TDC and TDCCAL pages. -/
def viewCliff (e : Engine) (k : Nat) : Option Word :=
  let u := e.unit (e.rf R.TDC_SEL 0 2)
  let t := e.tin (e.rf R.TDC_SEL 8 2)
  if k < 0x1400 ∧ k % 256 = 0x24 then some (e.feStat (k / 256 - 0x10))
  else if k < 0x1400 ∧ k % 256 = 0x40 then some (e.feLevel (k / 256 - 0x10))
  else if k = R.TDC_STAT then some e.tdcStat
  else if k = R.TDC_STAMP_LO then some (t.stamp.setWidth 32)
  else if k = R.TDC_S_MIN_LO then some (w32 u.snap.min)
  else if k = R.TDC_S_MAX_LO then some (w32 u.snap.max)
  else if k = R.TDC_S_SUM_LO then some (w32 u.snap.sum)
  else if k = R.TDC_S_CNT then some (w32 (u.snap.tmo * 65536 + u.snap.cnt))
  else if k = R.TDCCAL_STAT then
    some (w32 (e.tdc.valid.toNat * 2 ^ 28 + e.tdc.rej.toNat * 2 ^ 24 + e.tdc.builds))
  else if k = R.TDCCAL_BIN then
    let i := e.rf R.TDCCAL_SEL 8 2
    let n := e.rf R.TDCCAL_SEL 0 8
    let h := match e.tdc.table.getD i none with
      | some h => stick 16 (h.getD n 0)
      | none => 0
    some (w32 (h * 65536 + e.center i n % 65536))
  else none

/-- SEQ, REC, CMP and DEC pages. -/
def viewRec (e : Engine) (k : Nat) : Option Word :=
  let q := e.seq
  let st (r : Nat) : Stream := e.stream (e.rf r 0 3)
  if k = R.SEQ_STAT then
    some (w32 (at1 q.running 31 + at1 q.fired 30 + at1 q.q 29 + at1 q.preMet 28 + q.trigSub * 2 ^ 26 + q.level * 2 ^ 20
      + fld (e.rd R.SEQ_SAT) 0 4 * 65536))
  else if k = R.SEQ_RD_VAL then
    let i := e.rf R.SEQ_RD_SEL 0 2
    some (match e.rf R.SEQ_RD_SEL 2 2 with
      | 0 => q.cn.getD i 0#32
      | 1 => e.tide.snapCn.getD i 0#32
      | 2 => w32 (e.tmElapsed i)
      | _ => e.tide.snapTm.getD i 0#32)
  else if k = R.SEQ_TRIG_LO then some (q.trigTb.setWidth 32)
  else if k = R.REC_STAT then
    some (w32 (at1 e.recb.running 31 + mapBits 5 (fun s => (e.stream s).full) * 2 ^ 24
      + mapBits 5 (fun s => (e.stream s).rec') * 65536 + e.recb.runMode))
  else if k = R.REC_ITEMS_LO then some (w32 (st R.REC_SEL).items)
  else if k = R.REC_BLOCKS then some (w32 (stick 32 (st R.REC_SEL).blocks))
  else if k = R.REC_STOP then
    some (match (st R.REC_SEL).stopCause with
      | some c => w32 (2 ^ 31 + c * 2 ^ 24 + (st R.REC_SEL).stopTb.toNat % 2 ^ 24)
      | none => 0#32)
  else if k = R.CMP_STAT then
    some (w32 (at1 (e.recb.streams.any (·.on)) 31 + mapBits 5 (fun s => (e.stream s).blk.isSome) * 2 ^ 24
      + mapBits 5 (fun s => (e.stream s).dropped) * 65536 + stick 11 e.recb.peak))
  else if k = R.CMP_BYTES then some (w32 (stick 32 (st R.CMP_SEL).bytes))
  else if k = R.CMP_STORED then some (w32 (stick 32 (st R.CMP_SEL).storedN))
  else if k = R.DEC_STAT then some (w32 (at1 (!e.job.decQ.isEmpty) 31 + stick 16 e.job.decBlocks))
  else none

/-- STG, MEM and HINGE pages. -/
def viewStg (e : Engine) (k : Nat) : Option Word :=
  let g := e.stg
  let m := e.memS (e.rf R.MEM_SEL 0 3)
  if k = R.STG_STAT then
    some (w32 (at1 g.fill 31 + at1 g.sealed 30
      + at1 (e.time.now < g.busyTo || g.blks.any fun b => b.blk.live && !b.closed) 29
      + at1 (g.blks.any (·.restart)) 28 + mapBits 5 (fun s => (g.eps.getD s none).isSome) * 65536))
  else if k = R.STG_COUNT then
    some (w32 ((g.blks.filter undelivered).length * 65536 + e.stgWords))
  else if k = R.STG_ROUTE then some (w32 (at1 g.routeLive 31 + g.routeStream))
  else if k = R.MEM_STAT then
    some (w32 (at1 ((e.mem.selfRef || !e.isOn 13) && e.pwr.enMem) 31 + at1 e.mem.scrubAct 30 + mapBits 5 (fun s => (e.memS s).writing) * 2 ^ 24
      + mapBits 5 fun s => !(e.memS s).live.isEmpty))
  else if k = R.MEM_HEAD then some (w32 m.head)
  else if k = R.MEM_LIVE then some (w32 m.live.length)
  else if k = R.MEM_TRIG then
    some (match m.trig with
      | some i => w32 (2 ^ 31 + i)
      | none => 0#32)
  else if k = R.MEM_OLDEST_LO then
    some (match m.live with
      | l :: _ => l.firstT.setWidth 32
      | [] => 0#32)
  else if k = R.MEM_WPTR then some (w32 m.wptr)
  else if k = R.MEM_SCRUB_POS then some (w32 (e.mem.scrubExt * 2 ^ 28 + e.mem.scrubLine))
  else if k = R.HINGE_STAT then
    some (w32 (e.hinge.c.st.code * 2 ^ 30 + e.hinge.s.st.code * 2 ^ 28 + e.hinge.s.head.out.length * 256
      + e.hinge.c.head.out.length))
  else none

/-- JOB, HOST and DIAG pages. -/
def viewHost (e : Engine) (k : Nat) : Option Word :=
  let h := e.host
  if k = R.JOB_STAT then
    some (w32 (at1 (0 < e.jobCount .active) 31 + at1 (h.bw == .frozen) 30 + at1 (!e.bme || e.d3 0) 29
      + e.jobCount .ready * 65536 + e.jobCount .fetched * 256 + e.jobCount .active))
  else if k = R.JOB_HEAD then some (w32 e.job.head)
  else if R.JOB_SLOT0 ≤ k ∧ k ≤ R.JOB_SLOT3 then
    let s := e.slot ((k - R.JOB_SLOT0) / 4)
    some (w32 (at1 s.busy 31 + s.opcode * 2 ^ 28 + s.stream * 2 ^ 25 + s.ring * 2 ^ 19 + stick 19 s.blocks))
  else if k = R.JOB_ENDED then some (w32 (stick 32 e.job.ended))
  else if k = R.HOST_STAT then
    some (w32 (at1 h.up 31 + at1 e.pwr.perst 30 + at1 h.clkreq 29 + fld (e.cfg 0 0x44) 0 2 * 2 ^ 27
      + fld (e.cfg 1 0x44) 0 2 * 2 ^ 25 + at1 (e.mse 0) 24 + at1 e.bme 23 + at1 (e.mse 1) 22))
  else if k = R.HOST_LINK then some (w32 (h.speed * 2 ^ 28 + h.width * 2 ^ 24 + h.pm.code * 2 ^ 21))
  else if k = R.HOST_BW_STAT then
    some (w32 (h.bw.code * 2 ^ 30 + h.bwCause * 2 ^ 24 + h.bwTb.toNat % 2 ^ 24))
  else if k = R.HOST_PM_RES then some (w32 (stick 32 h.pmRes))
  else if k = R.HOST_INTX then
    some (w32 (at1 (e.intxCond 0) 31 + at1 h.inta 30 + at1 (e.intxCond 1) 29 + at1 h.intb 28 + stick 16 h.msgs))
  else if k = R.HOST_LAST_ERR then some h.lastErr
  else if k = R.DIAG_STAT then some (w32 (at1 e.hinge.active 31))
  else if k = R.DIAG_INJ_DONE then some (w32 (e.hinge.done % 65536))
  else if k = R.DIAG_ERR_SUM then
    some (w32 (mapBits 28 fun i => e.rd (estatKey ((pageMap.map (·.page)).getD i 0)) != 0#32))
  else if k = R.DIAG_TEMP then some ((Config.dieTemp e.time.tides).setWidth 32)
  else none

/-- The header registers that are computed (R19). -/
def viewHeader (e : Engine) (p page slot : Nat) : Option Word :=
  if slot = 0x0C then some (w32 ((e.pwrState page).code * 2 ^ 30 + stick 24 (e.wakeLat page)))
  else if slot = 0x10 then some (e.istatOf page)
  else if slot = 0x1C then
    match pageInfo? page with
    | some i => some (e.lockOf p i)
    | none => none
  else none

/-- The first computed value among the views. -/
def view (e : Engine) (p page slot : Nat) : Option Word :=
  let k := page * 256 + slot
  if slot < 0x20 then e.viewHeader p page slot
  else if page = 0x04 then e.viewSec p k
  else if page ≤ 0x05 then e.viewTime k
  else if page ≤ 0x08 then e.viewPod k
  else if page ≤ 0x15 then e.viewCliff k
  else if page ≤ 0x1E then e.viewRec k
  else if page = 0x20 ∨ page = 0x22 ∨ page = 0x23 then e.viewStg k
  else e.viewHost k

/-- HI halves of RL pairs: what the LO read latches (R8), by LO key. -/
def hiHalf (e : Engine) (k : Nat) : Option (Nat × Word) :=
  let u := e.unit (e.rf R.TDC_SEL 0 2)
  let m := e.memS (e.rf R.MEM_SEL 0 3)
  if k = R.TB_LO then some (R.TB_HI, w32 (e.time.tb.toNat / 2 ^ 32))
  else if k = R.TB_SNAP_LO then some (R.TB_SNAP_HI, w32 (e.tide.snapTb.toNat / 2 ^ 32))
  else if k = R.TDC_STAMP_LO then
    some (R.TDC_STAMP_HI, w32 ((e.tin (e.rf R.TDC_SEL 8 2)).stamp.toNat / 2 ^ 32))
  else if k = R.TDC_S_MIN_LO then some (R.TDC_S_MIN_HI, w32 (u.snap.min / 2 ^ 32 % 256))
  else if k = R.TDC_S_MAX_LO then some (R.TDC_S_MAX_HI, w32 (u.snap.max / 2 ^ 32 % 256))
  else if k = R.TDC_S_SUM_LO then some (R.TDC_S_SUM_HI, w32 (u.snap.sum / 2 ^ 32 % 65536))
  else if k = R.SEQ_TRIG_LO then some (R.SEQ_TRIG_HI, w32 (e.seq.trigTb.toNat / 2 ^ 32))
  else if k = R.REC_ITEMS_LO then
    some (R.REC_ITEMS_HI, w32 ((e.stream (e.rf R.REC_SEL 0 3)).items / 2 ^ 32 % 65536))
  else if k = R.MEM_OLDEST_LO then
    some (R.MEM_OLDEST_HI, match m.live with
      | l :: _ => w32 (l.firstT.toNat / 2 ^ 32)
      | [] => 0#32)
  else none

/-- The value latched for a HI register by a port, 0 before any LO read (R8). -/
def hiLatch (e : Engine) (p k : Nat) : Word :=
  match ((e.latch.getD p {}).hi.find? fun x => x.1 == k) with
  | some x => x.2
  | none => 0#32

end Engine

/-- The value of the EVQ page's own registers (R237 to R245); the pop itself is readReg's. -/
def State.viewEvq (s : State) (p k : Nat) : Option Word :=
  let q := s.evq
  let l := (s.eng.latch.getD p {}).pop
  if k = R.EVQ_STAT then some (s.eng.rd k ||| w32 (at1 (256 ≤ q.entries.length) 31))
  else if k = R.EVQ_COUNT then some (w32 q.entries.length)
  else if k = R.EVQ_POP_HI then some l.hi
  else if k = R.EVQ_POP_TAG then some l.tag
  else none

end Sys2Proof.Machine
end

