-- ==== Sys2Proof/Machine/Settle.lean ====
section
/-! DEFINITION. What follows from a command in the same cycle without a command of its own: INTx messages (R286, R288),
LTR messages (R293), a notice that becomes due (R317). -/

namespace Sys2Proof.Machine

namespace Engine

/-- The wire of a function is asserted (R286): its condition holds, Interrupt Disable is 0, the function is in D0 and
the link is up. -/
def intxWant (e : Engine) (fn : Nat) : Bool :=
  e.intxCond fn && !bit (e.cfg fn 0x04) 10 && !e.d3 fn && e.host.up

/-- Messages that the wire of a function owes: none while the link is down or the mode sleeps (R288). -/
def intxMsg (e : Engine) (fn : Nat) (cur : Bool) : List Tx :=
  if !e.host.up || e.sys.mode.isSleep then []
  else if e.intxWant fn && !cur then [.assertIntx fn]
  else if !e.intxWant fn && cur then [.deassertIntx fn]
  else []

/-- The wire after this command. -/
def intxNow (e : Engine) (fn : Nat) (cur : Bool) : Bool :=
  if !e.host.up then false else if e.sys.mode.isSleep then cur else e.intxWant fn

/-- LTR Mechanism Enable, with the link up. -/
def ltrEnabled (e : Engine) : Bool := bit (e.cfg 0 0x78) 10 && e.host.up

/-- The LTR message owed (R293): none while the mode sleeps; a change of state there is sent after the wake. -/
def ltrMsg (e : Engine) : List Tx :=
  if e.ltrEnabled && !e.sys.mode.isSleep && (!e.host.ltrOn || e.host.ltrAct != e.jobsBusy) then
    [.ltr (e.rd (if e.jobsBusy then R.HOST_LTR_ACT else R.HOST_LTR_IDLE))]
  else []

/-- The state that the last LTR message reported. -/
def ltrSaid (e : Engine) : Bool := if e.sys.mode.isSleep then e.host.ltrAct else e.jobsBusy

/-- What the engine says of its own accord after a command: INTx messages and LTR. -/
def spoken (e : Engine) : List Tx := e.intxMsg 0 e.host.inta ++ e.intxMsg 1 e.host.intb ++ e.ltrMsg

/-- What follows from a command at once. -/
def settle (e : Engine) : Engine :=
  let d := e.spoken.foldl send e
  { d with
    host := { d.host with
      inta := e.intxNow 0 e.host.inta
      intb := e.intxNow 1 e.host.intb
      msgs := e.host.msgs + (e.intxMsg 0 e.host.inta ++ e.intxMsg 1 e.host.intb).length
      ltrOn := if e.sys.mode.isSleep then e.host.ltrOn && e.ltrEnabled else e.ltrEnabled
      ltrAct := e.ltrSaid }
    i2c := { e.i2c with
      cond := e.i2cCond
      due := e.i2c.due || (e.i2cCond && !e.i2c.cond && e.rb R.I2CT_CTL 9) } }

end Engine

/-- The next state of a command: its effect, and what follows from it at once. -/
def State.settled (s : State) : State := { s with eng := s.eng.settle }

/-- A command whose effect is on the engine alone answers a next state. -/
def done (s : State) (f : Engine → Engine) : Out := .next { s with eng := (f s.eng).settle }

/-- A command of which one part is on the engine and another on the rest. -/
def doneS (s : State) : Out := .next s.settled

end Sys2Proof.Machine
end

