-- ==== Sys2Proof/Machine/Front.lean ====
section
/-! DEFINITION. The Cliff die's logic lanes (R79 to R98): comparators, glitch filter, range and ambiguity conditions. Pin
voltages are in units of 156.25 µV / 8 000 000, so that the calibrated levels of R96 are exact integers. -/

namespace Sys2Proof.Machine

/-! ### Levels -/

/-- One DAC code, 156.25 µV, in the units of a pin voltage. -/
def codeUnit : Int := 8000000

/-- The calibrated level of a code with an offset in 1/8 codes and a trim in ppm, clipped to ±1.28 V (R96). -/
def calLevel (code off trim : Int) : Int :=
  max (-8192 * codeUnit) (min (8192 * codeUnit) ((8 * code + off) * (1000000 + trim)))

/-- ±1.6 V (R88). -/
def beyondRange (v : Int) : Bool := v < -10240 * codeUnit || 10240 * codeUnit < v

/-- What the comparators of a channel are given. -/
structure ChanCfg where
  idle : Bool
  inv  : Bool
  g    : Nat
  hi   : Int
  lo   : Int
  swap : Bool
  len  : Nat
  /-- d + s, in 25 ps steps (R86). -/
  skew : Int
  deriving DecidableEq, Repr

namespace Engine

/-- TH or TL of channel b of lane m (R81). -/
def thr (e : Engine) (m b lo : Nat) : Int := sgn 14 (e.rf (R.FEn_THR0 m + 4 * b) lo 14)

/-- An entry of a lane's calibration window (R96). -/
def calEntry (e : Engine) (m i : Nat) : Int := sgn 16 (e.rf (win (R.FEn_CAL_DATA m) i) 0 16)

/-- Bits of thr_swap by the committed codes (R83). -/
def swapBits (e : Engine) (m : Nat) : Nat := mapBits 14 fun b => decide (e.thr m b 16 < e.thr m b 0)

/-- The set-up of a channel. -/
def chanCfg (e : Engine) (m b : Nat) : ChanCfg :=
  let trim := e.calEntry m 48
  let hi := calLevel (e.thr m b 16) (e.calEntry m b) trim
  let swap := decide (e.thr m b 16 < e.thr m b 0)
  { idle := e.rb (R.FEn_IDLE m) b
    inv := e.rb (R.FEn_CH_CFG m) (16 + b)
    g := e.rf (R.FEn_TIM0 m + 4 * (b / 2)) (16 * (b % 2)) 6
    hi := hi
    lo := if swap then hi else calLevel (e.thr m b 0) (e.calEntry m (16 + b)) trim
    swap := swap
    len := e.rf (R.FEn_AMBIG_LEN m) 0 16
    skew := e.rf (R.FEn_TIM0 m + 4 * (b / 2)) (8 + 16 * (b % 2)) 6 + e.calEntry m (32 + b) }

end Engine

/-! ### One cycle of a channel (R82 to R85, R88, R89, R94) -/

/-- Report of the comparators: 0 below, 1 between, 2 above (R82). -/
def report (c : ChanCfg) (v : Int) : Nat := if c.hi < v then 2 else if v < c.lo then 0 else 1

/-- The level after a report; until the first above or below it is the idle bit. -/
def levelStep (c : ChanCfg) (st : Bool × Bool) (v : Int) : Bool × Bool :=
  match report c v with
  | 2 => (true, false)
  | 0 => (false, false)
  | _ => (if st.2 then c.idle else st.1, st.2)

/-- The glitch filter over one cu: a change leaves it when the new level has held for g cu (R85). -/
def filterStep (g : Nat) (start : Bool) (filt : Bool) (cnt : Nat) (x : Bool) : Bool × Nat :=
  if start || g = 0 then (x, 0)
  else
    let out := if g ≤ cnt then !filt else filt
    (out, if x != out then (if g ≤ cnt then 0 else cnt) + 1 else 0)

/-- The pin voltage k steps of 25 ps after the start of the cycle whose voltages stand first in the list; the cycles
before it follow, the later first. Before the first cycle known the pin stood as at its start. -/
def pinAt : List (List Int) → Int → Int
  | [], _ => 0
  | [w], k => w.getD k.toNat (w.getLastD 0)
  | w :: t, k => if k < 0 then pinAt t (k + 64) else w.getD k.toNat (w.getLastD 0)

/-- The instants of a cycle's words, in 25 ps steps: one, or four 0.4 ns apart in fast mode (R93, R94). -/
def instants (fast : Bool) : List Int := if fast then [0, 16, 32, 48] else [0]

/-- One sampling instant of a channel: comparator, invert and glitch filter at a pin voltage (R82, R85). The filter
counts whole cu, which are n instants each (R94). -/
def sampleStep (c : ChanCfg) (n : Nat) (s : ChanSt) (v : Int) : ChanSt × Bool :=
  let st := levelStep c (s.level, s.fresh) v
  let f := filterStep (n * c.g) s.start s.filt s.cnt (st.1 != c.inv)
  ({ s with level := st.1, fresh := st.2, start := false, filt := f.1, cnt := f.2 }, f.1)

/-- One cycle of an enabled channel of a ready slot: the new state and the bit of each lane word. The range and ambiguity
checks watch the pin at the cycle's own instant (R80, R87); each word holds the pin d + s steps earlier, filtered (R86,
R87). pin: the voltages of this cycle. -/
def chanStep (c : ChanCfg) (fast : Bool) (s : ChanSt) (pin : List Int) : ChanSt × List Bool :=
  let ws := pin :: s.past
  let v0 := pinAt ws 0
  let rep := report c v0
  let is := instants fast
  let r := is.foldl (fun (a : ChanSt × List Bool) k =>
    let x := sampleStep c is.length a.1 (pinAt ws (k - c.skew))
    (x.1, a.2 ++ [x.2])) (s, [])
  ({ r.1 with
      rep := rep
      t := if rep = 1 ∧ c.len ≠ 0 ∧ !c.swap then min (s.t + 1) 65536 else 0
      beyond := if beyondRange v0 then min (s.beyond + 1) 16 else 0
      within := if beyondRange v0 then 0 else min (s.within + 1) 16
      past := ws.take 2 }, r.2)

namespace Engine

/-! ### Conditions and their marks (R88 to R92) -/

/-- Updates what the sequencer is given for a cycle. -/
def seenUpd (l : List Seen) (new : Seen) (f : Seen → Seen) : List Seen :=
  match l with
  | [] => [f new]
  | s :: t => if new.n < s.n then f new :: s :: t else if new.n = s.n then f s :: t else s :: seenUpd t new f

/-- The account of cycle n at the sequencer. -/
def setSeen (e : Engine) (n : Nat) (f : Seen → Seen) : Engine :=
  if e.seq.running then { e with seq.seen := seenUpd e.seq.seen { n := n, lvl := e.seq.trigIn } f } else e

/-- Sets a channel of a lane. -/
def setChan (e : Engine) (m b : Nat) (f : ChanSt → ChanSt) : Engine :=
  e.setLane m fun l => { l with chans := upd l.chans b f }

def chan (e : Engine) (m b : Nat) : ChanSt := (e.lane m).chans.getD b {}

/-- RG and AM of a lane's channels (R92). -/
def rgBits (e : Engine) (m : Nat) : Nat := mapBits 14 fun b => (e.chan m b).rg
def amBits (e : Engine) (m : Nat) : Nat := mapBits 14 fun b => (e.chan m b).ep

/-- Where the intact frame of this cycle has been taken already, the vectors it carries follow a change of this cycle. -/
def vecs (e : Engine) (m : Nat) : Engine :=
  if (e.lane m).intactTo = e.time.now + 1 then
    let rg := e.rgBits m
    let am := e.amBits m
    let e := e.setLane m fun l => { l with rgVec := BitVec.ofNat 14 rg, amVec := BitVec.ofNat 14 am }
    e.setSeen e.time.now fun s =>
      { s with rg := BitVec.ofNat 4 (merge (w32 (2 ^ m)) (s.rg.setWidth 32) (w32 (at1 (rg != 0) m))).toNat
               am := BitVec.ofNat 4 (merge (w32 (2 ^ m)) (s.am.setWidth 32) (w32 (at1 (am != 0) m))).toNat }
  else e

/-- Order of a mark among the marks of its lane in a cycle (R90, R108). -/
def chanKey (b : Nat) (opens ambig : Bool) : Nat := 10 + 8 * b + at1 opens 1 + at1 ambig 0

/-- MARK.RANGE or MARK.AMBIG of channel b of lane m. -/
def chanItem (m b : Nat) (opens ambig : Bool) : Item := markItem (if ambig then 5 else 6) (at1 (!opens) 9 + 14 * m + b)

/-- MARK.RANGE or MARK.AMBIG of channel b of lane m at cycle n. A condition that its lane's stop closes in the very cycle
of its beginning has the closing mark after the opening one (R93; DESIGN CHOICE, log entry 29). -/
def chanMark (e : Engine) (m b n : Nat) (opens ambig : Bool) : Engine :=
  e.inCyc m n fun c =>
    let late := !opens && c.fe.any fun x => x.item == chanItem m b true ambig
    { c with fe := c.fe ++ [⟨chanKey b opens ambig + at1 late 2, chanItem m b opens ambig⟩] }

/-- Range entry (R88). -/
def rangeEntry (e : Engine) (m b : Nat) : Engine :=
  let e := (e.setChan m b fun c => { c with rg := true }).hwSet (R.FEn_FLT m) (w32 (2 ^ b))
  let e := ((e.istat (0x10 + m) 1).count (R.FEn_RANGE_CNT m)).chanMark m b e.time.now true false
  (e.pushIf (e.rb (R.FEn_CTL m) 7) 0x3 0x01 1 (m * 1024 + 14 * m + b)).vecs m

/-- Range exit (R88). -/
def rangeExit (e : Engine) (m b : Nat) : Engine :=
  ((e.setChan m b fun c => { c with rg := false }).chanMark m b e.time.now false false).vecs m

/-- An ambiguity episode begins (R89). -/
def ambigBegin (e : Engine) (m b : Nat) : Engine :=
  let e := (e.setChan m b fun c => { c with ep := true }).hwSet (R.FEn_FLT m) (w32 (2 ^ (16 + b)))
  let e := ((e.istat (0x10 + m) 2).count (R.FEn_AMBIG_CNT m)).chanMark m b e.time.now true true
  let e := e.wr (R.FEn_AMBIG_LAST m) (w32 (2 ^ 31 + (14 * m + b) * 2 ^ 24 + e.time.tb.toNat % 2 ^ 24))
  (e.pushIf (e.rb (R.FEn_CTL m) 6) 0x3 0x02 2 (m * 1024 + 14 * m + b)).vecs m

/-- An ambiguity episode ends (R89). -/
def ambigEnd (e : Engine) (m b : Nat) : Engine :=
  ((e.setChan m b fun c => { c with ep := false }).chanMark m b e.time.now false true).vecs m

/-- Ends the open conditions of the channels that sel names: range, ambiguity (R88, R89). -/
def closeConds (e : Engine) (m : Nat) (rg am : Nat → Bool) : Engine :=
  (List.range 14).foldl (fun e b =>
    let e := if (e.chan m b).rg && rg b then e.rangeExit m b else e
    if (e.chan m b).ep && am b then e.ambigEnd m b else e) e

/-- The lane samples a channel: the lane runs, its slot is ready and the channel is enabled. -/
def chanLive (e : Engine) (m b : Nat) : Bool := (e.lane m).running && e.podOk m && e.chanEn m b

/-- RANGE_ENTRY may be recognised in this cycle: 4 cycles beyond ±1.6 V lie before it. -/
def canEnter (e : Engine) (m b : Nat) : Bool :=
  e.chanLive m b && !(e.chan m b).rg && decide (4 ≤ (e.chan m b).beyond) && decide ((e.lane m).evalTo ≤ e.time.now)

/-- RANGE_EXIT: 16 cycles within. -/
def canExit (e : Engine) (m b : Nat) : Bool :=
  (e.chan m b).rg && decide (16 ≤ (e.chan m b).within) && decide ((e.lane m).evalTo ≤ e.time.now)

/-- AMBIG_BEGIN: this cycle reports between, after at least FEn_AMBIG_LEN between reports. -/
def canBegin (e : Engine) (m b : Nat) : Bool :=
  let c := e.chanCfg m b
  e.chanLive m b && !(e.chan m b).ep && c.len != 0 && !c.swap && decide (c.len < (e.chan m b).t)
    && (e.chan m b).rep == 1 && (e.lane m).evalTo == e.time.now + 1

/-- AMBIG_END: this cycle reports above or below. -/
def canEnd (e : Engine) (m b : Nat) : Bool :=
  (e.chan m b).ep && (e.chan m b).rep != 1 && (e.lane m).evalTo == e.time.now + 1

/-- The word of a lane whose channels all present their idle bits (R84). -/
def idleWord (e : Engine) (m : Nat) : BitVec 14 := (e.rd (R.FEn_IDLE m)).setWidth 14

/-- The evaluation of a lane's channels on Cliff: pins holds the voltages of each channel. A channel that is not sampled
presents its idle bit (R84). Answers the lane words of the cycle. -/
def laneStep (e : Engine) (m : Nat) (pins : List (List Int)) : Engine × List (BitVec 14) :=
  let fast := (e.lane m).fast
  let rs := (List.range 14).map fun b =>
    let pin := pins.getD b []
    if e.chanLive m b then chanStep (e.chanCfg m b) fast (e.chan m b) pin
    else (({ past := (pin :: (e.chan m b).past).take 2 } : ChanSt), (instants fast).map fun _ => e.rb (R.FEn_IDLE m) b)
  (e.setLane m fun l => { l with chans := rs.map (·.1), evalTo := e.time.now + 1 },
   (List.range (instants fast).length).map fun j =>
     BitVec.ofNat 14 (mapBits 14 fun b => (rs.map (·.2)).getD b [] |>.getD j false))

/-- The slot of a lane is reported absent, unpowered or faulted in a cycle whose frame has been taken: the substitution
of R84 starts in this cycle. -/
def idleNow (e : Engine) (m : Nat) : Engine :=
  let l := e.lane m
  if l.running && l.intactTo = e.time.now + 1 then
    let ws := l.words.map fun _ => e.idleWord m
    let cs : List ChanSt := l.chans.map fun c => { past := c.past }
    let e := e.setLane m fun l => { l with words := ws, chans := cs }
    let e := e.inCyc m e.time.now fun c => { c with words := ws }
    e.setSeen e.time.now fun s => { s with words := upd s.words m fun _ => ws }
  else e

/-- What a boundary's commits change on a lane: the order test of R83, and the ends of R88 and R89. -/
def feCommitted (e : Engine) (m : Nat) : Engine :=
  let old := (e.lane m).swap.toNat
  let new := e.swapBits m
  let rose := mapBits 14 fun b => new.testBit b && !old.testBit b
  let e := e.setLane m fun l => { l with swap := BitVec.ofNat 14 new }
  let e := match lowBit 14 rose with
    | some b => ((e.estat (0x10 + m) 1).istat (0x10 + m) 4).push 0x3 0x03 2 (m * 1024 + 14 * m + b)
    | none => e
  e.closeConds m (fun b => !e.chanEn m b)
    fun b => !e.chanEn m b || new.testBit b || e.rf (R.FEn_AMBIG_LEN m) 0 16 == 0

end Engine

/-! ### The commands -/

/-- RANGE_ENTRY (R88). -/
def execRangeEntry (m : Fin 4) (b : Fin 14) (s : State) : Out :=
  done s fun e => if e.canEnter m b then e.rangeEntry m b else e

/-- RANGE_EXIT (R88). -/
def execRangeExit (m : Fin 4) (b : Fin 14) (s : State) : Out :=
  done s fun e => if e.canExit m b then e.rangeExit m b else e

/-- AMBIG_BEGIN (R89). -/
def execAmbigBegin (m : Fin 4) (b : Fin 14) (s : State) : Out :=
  done s fun e => if e.canBegin m b then e.ambigBegin m b else e

/-- AMBIG_END (R89). -/
def execAmbigEnd (m : Fin 4) (b : Fin 14) (s : State) : Out :=
  done s fun e => if e.canEnd m b then e.ambigEnd m b else e

end Sys2Proof.Machine
end

