-- ==== Sys2Proof/Machine/Reset.lean ====
section
/-! DEFINITION. Shared operations of modes, power and resets: what each reset keeps (R71), rails (R66, R67), wake sources
and their recognition (R63, R64), the power of blocks at a mode's entry (R379), what staging discards (R236). -/

namespace Sys2Proof.Machine

/-! ### Which registers a reset keeps -/

/-- The registers of the AON set (R71, R106). -/
def isAonKey (k : Nat) : Bool :=
  [R.SYS_WAKE_EN, R.SYS_WAKE_SRC, R.SYS_RESET_CAUSE, R.SYS_AON_ALARM, R.PWR_CTL, R.PWR_SEQ, R.PWR_WAKE_LAT, R.PWR_PG_CNT,
   R.PWR_SCR0, R.PWR_SCR1, R.CLK_X32, R.TB_X32_ERR, R.TB_EPOCH, R.POD_CTL, R.POD_TIM, R.POD_IND].contains k

/-- The registers that a core reset keeps: the AON set, the CLK page, configuration space (R71). -/
def coreKeeps (k : Nat) : Bool := isAonKey k || k / 256 == 0x02 || decide (0x1000000 ≤ k)

/-- The registers that a Cliff reset puts back (R71). -/
def cliffResets (k : Nat) : Bool := isCliff (k % 65536 / 256) && decide (k < 0x1000000)

namespace Engine

/-! ### Staging's discard (R236) -/

/-- Blocks that staging and the compressor hold, gap blocks apart; a live block counts once. -/
def heldBlocks (e : Engine) : Nat :=
  (e.stg.blks.filter fun b => !b.marker && undelivered b).length + (e.recb.waiting.filter fun b => !b.gap).length
    + (e.recb.streams.filter fun st => match st.blk with
        | some b => !b.live || !(b.arrived || b.gone)
        | none => false).length

/-- Discards what staging and the compressor hold. -/
def stgDiscard (e : Engine) : Engine :=
  let n := e.heldBlocks
  let e := e.countN R.STG_DROP_CNT n
  { e with stg := { e.stg with fill := false, wp := 0, sealed := false, blks := [], eps := List.replicate 5 none,
                               gapped := 0#5, busyTo := 0, toPlace := [] }
           recb := { e.recb with waiting := []
                                 streams := e.recb.streams.map fun st => { st with blk := none, cycs := [], fifo := 0 } } }

/-! ### Resets -/

/-- Every programmed slot starts in lockout (R347). -/
def secReset (s : SecBlk) : SecBlk :=
  { nonces := s.nonces
    slots := s.slots.map fun k => { prog := k.prog, key := k.key, lock := if k.prog then some 1024 else none } }

/-- Everything but the AON set (R71): a hibernate exit. Pins keep their levels. -/
def hibReset (e : Engine) : Engine :=
  { regs := e.regs.filter fun p => isAonKey p.1
    cyc := { sets := e.cyc.sets.filter fun p => isAonKey p.1, rc := e.cyc.rc.filter fun p => isAonKey p.1 }
    time := { e.time with chans := List.replicate 16 {} }
    clk := { x32Ok := e.clk.x32Ok, start := e.time.now, since := e.time.now }
    sys := { e.sys with lastTag := 0, lastReason := 0, transTides := 0, req := none, trans := none, ending := none
                        startAt := none }
    pwr := { e.pwr with blks := List.replicate 15 {}, est := 0 }
    pods := e.pods.map fun p => { p with census := 0 }
    host := { clkreq := e.host.clkreq }
    i2c := { addr := e.i2c.addr }
    sec := secReset e.sec
    seq := { trigIn := e.seq.trigIn }
    tdc := { tins := e.tdc.tins.map fun t => { level := t.level, volt := t.volt } }
    tap := e.tap
    tx := e.tx }

/-- A core reset (R71, R130, R196, R236, R242, R305, R321, R347, R349). -/
def coreResetState (e : Engine) : Engine :=
  let n := e.heldBlocks
  let e' : Engine :=
    { regs := e.regs.filter fun p => coreKeeps p.1
      cyc := { sets := e.cyc.sets.filter fun p => coreKeeps p.1, rc := e.cyc.rc.filter fun p => coreKeeps p.1,
               boundary := e.cyc.boundary }
      time := { e.time with chans := List.replicate 16 {} }
      clk := { e.clk with slackValid := false, x32Valid := false }
      sys := { wakeIn := e.sys.wakeIn, pgFailOwed := e.sys.pgFailOwed, phase := .coreReset }
      pwr := { e.pwr with blks := List.replicate 15 {}, est := 0 }
      pods := e.pods.map fun p => { p with census := 0 }
      host := { up := e.host.up, speed := e.host.speed, width := e.host.width, pm := e.host.pm, clkreq := e.host.clkreq
                inta := e.host.inta, intb := e.host.intb, credits := e.host.credits, pmeAt := e.host.pmeAt
                ltrOn := e.host.ltrOn, ltrAct := e.host.ltrAct, held := e.host.held, peer := e.host.peer
                speedReq := e.host.speedReq }
      i2c := { addr := e.i2c.addr }
      sec := secReset e.sec
      seq := { trigIn := e.seq.trigIn }
      tdc := { tins := e.tdc.tins.map fun t => { level := t.level, volt := t.volt }
               hist := e.tdc.hist, table := e.tdc.table, depth := e.tdc.depth, valid := e.tdc.valid }
      tap := e.tap
      tx := e.tx }
  (e'.countN R.STG_DROP_CNT n).hwSet R.SYS_RESET_CAUSE 2#32

/-! ### Rails -/

/-- Drives an enable. PG_IN, the wired-AND of all power-good outputs, is low until the rail is good (R66); a rise starts
the watch for it afresh (R70). -/
def setRail (e : Engine) (r : Rail) (on : Bool) : Engine :=
  let p := match r with
    | .core => { e.pwr with enCore := on }
    | .mem => { e.pwr with enMem := on }
    | .ana => { e.pwr with enAna := on }
  { e with pwr := { p with pgIn := false, pgRisen := p.pgRisen && !on } }

/-- Starts a sequence: the first rail switches at once (R67). -/
def railsStart (e : Engine) (l : List RailStep) : Engine :=
  match l with
  | [] => { e with pwr.steps := [] }
  | a :: t => { e.setRail a.rail a.level with pwr.steps := t }

def d1 (e : Engine) : Nat := e.rf R.PWR_SEQ 0 8
def d2 (e : Engine) : Nat := e.rf R.PWR_SEQ 8 8

/-- All rails up. -/
def railsUp (e : Engine) : Engine :=
  { e.railsStart [⟨.core, true, 0⟩, ⟨.mem, true, e.d1⟩, ⟨.ana, true, e.d2⟩] with sys.phase := .railsUp }

/-- All rails down. -/
def railsDown (e : Engine) : Engine :=
  { e.railsStart [⟨.ana, false, 0⟩, ⟨.mem, false, e.d2⟩, ⟨.core, false, e.d1⟩] with sys.phase := .railsDown }

/-- Rails up at a wake from DOZE: EN_MEM where it is low, and EN_ANA (R67). -/
def railsDozeUp (e : Engine) : Engine :=
  { e.railsStart ((if e.pwr.enMem then [] else [⟨.mem, true, 0⟩]) ++ [⟨.ana, true, e.d2⟩]) with sys.phase := .waking }

/-- Rails down at DOZE entry (R51, R53). -/
def railsDozeDown (e : Engine) : Engine :=
  e.railsStart ([⟨.ana, false, 0⟩] ++ if e.rb R.PWR_CTL 2 then [] else [⟨.mem, false, e.d2⟩])

/-! ### Block power at a mode's entry (R379) -/

/-- FE0_CTL.fast as committed: lanes 1 to 3 are held OFF (R94). -/
def fastSet (e : Engine) : Bool := e.rb (R.FEn_CTL 0) 1

/-- The lane is enabled for the next run (R93, R94). -/
def laneWanted (e : Engine) (m : Nat) : Bool := e.rb (R.FEn_CTL m) 0 && (m == 0 || !e.fastSet)

/-- The lanes whose pages ARMED and CAPTURE use: those of the run, else those that the next run would have (R379). -/
def laneUsed (e : Engine) (m : Nat) : Bool := if e.recb.running then (e.lane m).running else e.laneWanted m

/-- A mode uses block i (R379). -/
def usesBlk (e : Engine) (m : Mode) (i : Nat) : Bool := fromEntry m e.laneUsed i || onDemand m i

/-- Block i is powered from the entry of a mode: by R379's first column, or by policy ON in its second. -/
def poweredIn (e : Engine) (m : Mode) (i : Nat) : Bool :=
  e.policy (blkPage i) != 2 && (fromEntry m e.laneUsed i || (onDemand m i && e.policy (blkPage i) == 1))

/-- Starts the wake of block i unless it is powered. -/
def wakeBlk (e : Engine) (i : Nat) : Engine :=
  match (e.blkP i).st with
  | .on | .waking => e
  | _ => e.setBlk i fun b => { b with st := .waking, start := e.time.now, idle := 0, worked := true }

/-- Starts the wakes that a mode needs from its entry. -/
def powerUp (e : Engine) (m : Mode) : Engine :=
  (List.range 15).foldl (fun e i => if e.poweredIn m i then e.wakeBlk i else e) e

/-- Block i still has blocks to deliver: REC, CMP, STG and MEM stay powered until the staging queue has drained (R58). -/
def stillNeeded (e : Engine) (i : Nat) : Bool :=
  (i == 12 && (e.stg.blks.any undelivered || !e.recb.waiting.isEmpty))
    || ((i == 9 || i == 10) && !e.recb.waiting.isEmpty)
    || (i == 13 && (!e.stg.toPlace.isEmpty || (e.stg.blks.any fun b => undelivered b && !b.blk.live)
          || e.recb.waiting.any fun b => !b.live))

/-- The blocks' states as a mode is entered: what it does not use, or what has policy OFF, is OFF (R73). -/
def powerEnter (e : Engine) (m : Mode) : Engine :=
  (List.range 15).foldl (fun e i =>
    if e.poweredIn m i then e.wakeBlk i
    else if (e.policy (blkPage i) ≠ 2 && e.usesBlk m i) || e.stillNeeded i then e
    else e.setBlk i fun b => { b with st := .off, idle := 0 }) e

/-- After a reset no block but those that a mode powers from entry is powered: the others wait for a demand (R379). -/
def powerFresh (e : Engine) (m : Mode) : Engine :=
  (List.range 15).foldl (fun e i =>
    if e.poweredIn m i then e else e.setBlk i fun b => { b with st := .off, idle := 0, worked := false }) e

/-- The link is in DIE_FAULT, or in the retrain of HINGE_CMD that may end it (R329). -/
def linkDead (l : HingeLink) : Bool := l.st == .fault || l.faulted

/-- The link has been in DIE_FAULT and is not trained again: what goes over it is lost (R18). -/
def linkLost (l : HingeLink) : Bool := linkDead l || l.lost

/-- Block i lies behind a link in DIE_FAULT: the lanes, the TDC and its calibration on Cliff, the memory path (R58). -/
def behindFault (e : Engine) (i : Nat) : Bool :=
  (decide (1 ≤ i ∧ i ≤ 6) && linkDead e.hinge.c) || (i == 13 && linkDead e.hinge.s)

/-- Every block that a mode powers from entry is ON; with skip, what lies behind a faulted link counts as finished
(R58). -/
def powerReady (e : Engine) (m : Mode) (skip : Bool) : Bool :=
  (List.range 15).all fun i => !e.poweredIn m i || e.isOn i || (skip && e.behindFault i)

/-- A block that a mode powers from entry cannot finish its wake for a fault of its link (R58). -/
def powerStuck (e : Engine) (m : Mode) : Bool :=
  (List.range 15).any fun i => e.poweredIn m i && !e.isOn i && e.behindFault i

/-! ### Wake sources (R63, R64) -/

/-- Source i is enabled and works in a mode. -/
def wakeWorks (e : Engine) (m : Mode) (i : Nat) : Bool := e.rb R.SYS_WAKE_EN i && (i < 5 || m == .doze)

/-- The mode that SYS_WAKE_EN.target names. -/
def wakeTarget (e : Engine) : Mode := if e.rf R.SYS_WAKE_EN 8 2 = 1 then .unload else .measure

/-- Recognition of source i in DOZE or HIBERNATE: SYS_WAKE_SRC, and the way up (R64). -/
def recognise (e : Engine) (i : Nat) : Engine :=
  let e := e.wr R.SYS_WAKE_SRC (w32 (2 ^ i))
  let hib := e.sys.mode == .hibernate
  let w : Wake := { src := e.sys.mode, tgt := e.wakeTarget, at' := e.time.now, fromHib := hib }
  if hib then
    let e := (e.hibReset.hwSet R.SYS_RESET_CAUSE 4#32).railsUp
    { e with sys := { e.sys with wake := some w, target := w.tgt, transTides := 0 } }
  else
    let e := { e with clk := { e.clk with
      pll := .acquiring, start := e.time.now, good := 0, since := e.time.now, x32Valid := false } }.railsDozeUp
    { e with sys := { e.sys with wake := some w, target := w.tgt, transTides := 0 } }

/-- A source becomes active (R63, R64): a wake in DOZE or HIBERNATE, one more bit where it is active at the recognition,
and the end of an entry that has been accepted. -/
def wakeSource (e : Engine) (i : Nat) : Engine :=
  if e.sys.mode.isSleep then
    if e.wakeWorks e.sys.mode i then
      match e.sys.wake with
      | none => e.recognise i
      | some w => if w.at' = e.time.now then e.wr R.SYS_WAKE_SRC (e.rd R.SYS_WAKE_SRC ||| w32 (2 ^ i)) else e
    else e
  else match e.sys.trans with
    | some t =>
      if t.tgt.isSleep && e.wakeWorks t.tgt i then
        let e := e.wr R.SYS_WAKE_SRC (if t.woken then e.rd R.SYS_WAKE_SRC ||| w32 (2 ^ i) else w32 (2 ^ i))
        { e with sys.trans := some { t with woken := true } }
      else e
    | none => e

/-- Register accesses are accepted (R64, R69, R72). -/
def access (e : Engine) : Bool :=
  match e.sys.phase with
  | .run => !e.sys.mode.isSleep
  | .waking => (match e.sys.wake with
    | some w => w.access
    | none => false)
  | _ => false

end Engine
end Sys2Proof.Machine
end

