-- ==== Sys2Proof/Machine/Pods.lean ====
section
/-! DEFINITION. Pod slots (R99 to R111). -/

namespace Sys2Proof.Machine

namespace Engine

/-! ### Census requests (R114, R116, R120) -/

/-- The slot is affected while a walk runs (R116). -/
def podAffect (e : Engine) (n : Nat) : Engine :=
  match e.bus.walk with
  | some w => { e with bus.walk := some { w with affected := w.affected ||| BitVec.ofNat 4 (2 ^ n) } }
  | none => e

/-- Statuses of the list entries that name a slot, those with en = 0 among them: R116 and R117 speak of the slot's entries
and do not except any (DESIGN CHOICE, log entry 51). -/
def entriesTo (e : Engine) (n st : Nat) : Engine :=
  { e with bus.entries := e.bus.entries.zipIdx.map fun p =>
      if e.rf (win R.I2CP_LIST p.2) 29 2 = n then st else p.1 }

/-- The results of the list entries that name a slot are cleared (R117). -/
def noResults (e : Engine) (n : Nat) : Engine :=
  (List.range 8).foldl (fun e i => if e.rf (win R.I2CP_LIST i) 29 2 = n then e.wr (win R.I2CP_RES i) 0#32 else e) e

/-- A census status. -/
def censusTo (e : Engine) (n st : Nat) : Engine := e.setPod n fun p => { p with census := st }

/-- FEn_GAIN without a valid census result (R95). -/
def noGain (e : Engine) (n : Nat) : Engine := e.wr (R.FEn_GAIN n) 0#32

/-- The first enabled list entry from i on that names the slot (R114). -/
def nextEntry (e : Engine) (slot i : Nat) : Option Nat :=
  (List.range 8).find? fun j => i ≤ j && e.rb (win R.I2CP_LIST j) 31 && e.rf (win R.I2CP_LIST j) 29 2 == slot

/-- Visits the slots of a walk in order: one that is not READY is given ABSENT and passed over (R114). False: no slot is
left. -/
def visit (e : Engine) (w : Walk) : List Nat → Engine × Walk × Bool
  | [] => (e, { w with todo := [] }, false)
  | s :: t =>
    let w := { w with visited := w.visited ||| BitVec.ofNat 4 (2 ^ s) }
    if e.podOk s then (e, { w with todo := t, slot := s, item := none, retry := false }, true)
    else visit (((e.censusTo s 4).entriesTo s 0).noGain s) w t

/-- The slots of a mask in ascending order. -/
def slotsOf (m : BitVec 4) : List Nat := (List.range 4).filter fun n => m.getLsbD n

/-- What the end of a walk leaves: affected slots are STALE and queued again (R116). -/
def walkStale (e : Engine) (w : Walk) : Engine :=
  let e := (slotsOf w.affected).foldl (fun e n => ((e.censusTo n 5).entriesTo n 3).noGain n) e
  let off := e.policy 0x08 == 2
  ({ e with bus := { e.bus with
      walk := none, recovering := false
      refused := if w.affected = 0#4 then e.bus.refused else off
      queued := if off && w.affected ≠ 0#4 then 0#4 else e.bus.queued ||| w.affected } }).istat 0x08 1

/-- The walk has visited every slot: POD_CENSUS_DONE (R116, R121). -/
def walkEnd (e : Engine) (w : Walk) : Engine :=
  (e.walkStale w).push 0x2 0x07 3 (w.affected.toNat * 16 + w.visited.toNat)

/-- Starts a walk over the queued slots where none runs and the controller is ON. After a walk that a stuck bus has ended
the recovery sequence comes first, before any slot is visited (R119). A walk of absent slots alone ends at once. The
slots that a stuck walk leaves queued start at the next request, or with the end of a block's wake, which calls this too:
R119 does not say when (DESIGN CHOICE, log entry 51). -/
def busStart (e : Engine) : Engine :=
  if e.bus.walk.isSome || e.bus.queued = 0#4 || !e.isOn 0 then e
  else
    let w : Walk := { todo := [], slot := 0, item := none, retry := false, visited := 0#4, affected := 0#4 }
    let q := slotsOf e.bus.queued
    let rec' := e.bus.needRecover
    let e := { e with bus := { e.bus with queued := 0#4, recovering := rec', needRecover := false } }
    if rec' then
      { e.send (.podRecover false) with bus := { e.bus with
          walk := some { w with todo := q, slot := q.headD 0, starting := true }, stuckAt := e.time.now, stuckScl := false } }
    else match e.visit w q with
    | (e, w, true) => { e with bus.walk := some w }
    | (e, w, false) => e.walkEnd w

/-- A census request (R114, R120). -/
def censusReq (e : Engine) (mask : BitVec 4) : Engine :=
  if mask = 0#4 then e
  else if e.policy 0x08 = 2 then { e with bus.refused := true, bus.queued := 0#4 }
  else
    let e := e.demand 0
    { e with bus.refused := false, bus.queued := e.bus.queued ||| mask }.busStart

/-! ### Slot states (R102, R107, R108) -/

/-- POD_LAST. -/
def podLast (e : Engine) (kind n : Nat) : Engine :=
  e.wr R.POD_LAST (w32 (kind * 2 ^ 28 + n * 2 ^ 26 + e.time.tb.toNat % 2 ^ 24))

/-- MARK.POD in the lane's stream (R108). -/
def podMark (e : Engine) (n key arg : Nat) : Engine :=
  e.inCyc n e.time.now fun c => { c with fe := c.fe ++ [⟨key, markItem 7 arg⟩] }

/-- Moves a slot to a state; cause is that of the MARK.POD where pod_ok changes. -/
def podTo (e : Engine) (n : Nat) (st : PodState) (cause : Nat) : Engine :=
  let was := e.podOk n
  if was && st != .ready then
    let e := e.closeConds n (fun _ => true) (fun _ => true)
    (((e.setPod n fun p => { p with st := st }).podMark n 1000 (16 * n + cause)).podAffect n).idleNow n
  else if !was && st == .ready then
    ((e.setPod n fun p => { p with st := st }).setLane n fun l => { l with chans := l.chans.map fun c => { past := c.past } }).podMark n 0
      (0x200 + 16 * n + cause)
  else e.setPod n fun p => { p with st := st, settle := 0 }

/-- POD_PWR_CMD.on for a slot (R102, R105). -/
def podOn (e : Engine) (n : Nat) : Engine :=
  match (e.pod n).st with
  | .attached | .fault => (e.podTo n .powering 0).setPod n fun p => { p with glitched := false }
  | _ => e

/-- POD_PWR_CMD.off. -/
def podOff (e : Engine) (n : Nat) : Engine :=
  match (e.pod n).st with
  | .powering | .ready | .lost => e.podTo n .attached 2
  | _ => e

/-- A write of POD_PWR_CMD: off wins (R105). -/
def podCmd (e : Engine) (v : Word) : Engine :=
  (List.range 4).foldl (fun e n => if bit v (4 + n) then e.podOff n else if bit v n then e.podOn n else e) e

/-- The slot enters READY (R107). -/
def podReady (e : Engine) (n : Nat) : Engine :=
  let g := (e.pod n).glitched
  let e := (e.podTo n .ready (if g then 1 else 0)).setPod n fun p => { p with glitched := false }
  let e := ((e.istat 0x06 (2 ^ (16 + n))).podLast 6 n).push 0x2 0x06 3 n
  if e.rb R.I2CP_CTL 8 then e.censusReq (BitVec.ofNat 4 (2 ^ n)) else e

/-- A LOST slot returns to POWERING (R103). -/
def podGlitch (e : Engine) (n : Nat) : Engine :=
  let e := (e.podTo n .powering 0).setPod n fun p => { p with glitched := true }
  let e := ((e.count R.POD_GLITCH_CNT).estat 0x06 2).podLast 5 n
  (e.push 0x2 0x05 2 n).censusReq (BitVec.ofNat 4 (2 ^ n))

/-- A load-switch fault (R104). -/
def podFault (e : Engine) (n : Nat) : Engine :=
  let e := e.podTo n .fault 1
  let e := ((e.count R.POD_FAULT_CNT).estat 0x06 1).istat 0x06 (2 ^ (8 + n))
  (e.podLast 3 n).push 0x2 0x03 1 n

/-- DOZE or HIBERNATE begins (R106). -/
def podSleep (e : Engine) : Engine :=
  (List.range 4).foldl (fun e n => match (e.pod n).st with
    | .powering | .ready | .lost => e.podTo n .attached 2
    | _ => e) e

/-- The first boundary after a wake (R106). -/
def podWake (e : Engine) : Engine :=
  (List.range 4).foldl (fun e n => if (e.pod n).st = .attached ∧ e.rb R.POD_CTL n then e.podOn n else e) e

/-! ### Reports (R101, R110, R117) -/

/-- A reported attach sets PMCSR.PME_Status of each function in D3hot whose PME_En is 1 (R290). -/
def pmeAttach (e : Engine) : Engine :=
  (List.range 2).foldl (fun e fn =>
    if bit (e.cfg fn 0x44) 8 && e.d3 fn then e.hwSet (cfgKey fn 0x44) 0x8000#32 else e) e

/-- Reports one latched flag. -/
def podReport (e : Engine) (n : Nat) (f : PodFlag) : Engine :=
  match f with
  | .pres true =>
    let e := (((e.setPod n fun p => { p with presRep := true }).istat 0x06 (2 ^ n)).podLast 1 n).push 0x2 0x01 2 n
    let e := (e.podAffect n).pmeAttach
    if (e.pod n).st = .empty then
      if e.rb R.POD_CTL n then (e.podTo n .powering 0).setPod n fun p => { p with glitched := false } else e.podTo n .attached 0
    else e
  | .pres false =>
    let e := (((e.setPod n fun p => { p with presRep := false }).istat 0x06 (2 ^ (4 + n))).podLast 2 n).push 0x2 0x02 1 n
    let e := ((e.podAffect n).podTo n .empty 0).censusTo n 0
    let e := ((e.noGain n).entriesTo n 0).noResults n
    (e.wr (R.POD_ID0 + 4 * n) 0#32).wr (R.POD_SER0 + 4 * n) 0#32
  | .attn true => (((e.setPod n fun p => { p with attnRep := true }).istat 0x06 (2 ^ (12 + n))).podLast 4 n).push 0x2 0x04 2 n
  | .attn false => e.setPod n fun p => { p with attnRep := false }

/-- The reports of every latched flag, slot by slot (R101). -/
def podReports (e : Engine) : Engine :=
  (List.range 4).foldl (fun e n =>
    let fs := (e.pod n).flags
    fs.foldl (fun e f => e.podReport n f) (e.setPod n fun p => { p with flags := [], attnAt := none })) e

/-- The POD block's tide work. The order of its events is that of the reports (R101, R239). -/
def podBoundary (e : Engine) : Engine :=
  let n := e.arriving.length
  let e := e.podReports
  { e with arriving := e.arriving.take n ++ (e.arriving.drop n).map fun v => { v with kept := true } }

/-- The core samples the pods' signals (R103). -/
def coreSampling (e : Engine) : Bool := e.sys.phase == .run && !e.sys.mode.isSleep

/-- PODn_IND is driven low (R111). -/
def podInd (e : Engine) (n : Nat) : Bool :=
  let mode := if e.rb R.POD_IND (4 * n + 2) then (match (e.pod n).st with
      | .empty => 0
      | .ready => 1
      | .attached | .powering => 2
      | .fault | .lost => 3) else e.rf R.POD_IND (4 * n) 2
  let lit := match mode with
    | 0 => false
    | 1 => true
    | 2 => !e.pwr.aon.testBit 14
    | _ => !e.pwr.aon.testBit 12
  lit && (e.sys.mode != .hibernate || e.access)

end Engine

/-! ### The commands -/

/-- Latches a presence change: before an attention change of the same AON edge (R100). -/
def latchPres (now : Nat) (p : Pod) (seated : Bool) : Pod :=
  let fs := if p.attnAt = some now then p.flags.dropLast ++ [.pres seated] ++ p.flags.drop (p.flags.length - 1)
    else p.flags ++ [.pres seated]
  { p with pres := seated, flags := fs }

/-- POD_PRESENCE_CHANGE (R100, R110): 66 disagreeing samples. -/
def execPodPresenceChange (n : Fin 4) (seated : Bool) (samples : Nat) (s : State) : Out :=
  done s fun e =>
    if e.pwr.vddIo && 66 ≤ samples && (e.pod n).pres != seated then
      let e := e.setPod n fun p => latchPres e.time.now p seated
      if e.rb R.POD_CTL (8 + n) then e.wakeSource 1 else e
    else e

/-- POD_ATTENTION_CHANGE (R100, R110). -/
def execPodAttentionChange (n : Fin 4) (pressed : Bool) (samples : Nat) (s : State) : Out :=
  done s fun e =>
    if e.pwr.vddIo && e.rf R.POD_TIM 16 16 ≤ samples && (e.pod n).attn != pressed then
      let e := e.setPod n fun p => { p with attn := pressed, flags := p.flags ++ [.attn pressed], attnAt := some e.time.now }
      if pressed && e.rb R.POD_CTL (12 + n) then e.wakeSource 2 else e
    else e

/-- POD_POWER_ON (R102, R105): a write of 1 to POD_PWR_CMD.on of a slot. -/
def execPodPowerOn (n : Fin 4) (s : State) : Out := done s fun e => if e.access then e.podOn n else e

/-- POD_POWER_OFF (R102, R105). -/
def execPodPowerOff (n : Fin 4) (s : State) : Out := done s fun e => if e.access then e.podOff n else e

/-- POD_READY (R102, R107): at an AON edge, at which the settle count, one at the least, equals or exceeds POD_TIM.settle. -/
def execPodReady (n : Fin 4) (s : State) : Out :=
  done s fun e =>
    if e.coreSampling && e.cyc.edge && (e.pod n).st == .powering && max 1 (e.rf R.POD_TIM 0 16) ≤ (e.pod n).settle then e.podReady n else e

/-- FAST_DROP (R103). -/
def execFastDrop (n : Fin 4) (samples : Nat) (s : State) : Out :=
  done s fun e =>
    if e.coreSampling && (e.pod n).st == .ready && 625 ≤ samples then
      e.podTo n .lost 0
    else e

/-- POD_GLITCH (R103). -/
def execPodGlitch (n : Fin 4) (samples : Nat) (s : State) : Out :=
  done s fun e => if e.coreSampling && (e.pod n).st == .lost && 625 ≤ samples then e.podGlitch n else e

/-- POD_FAULT (R104). -/
def execPodFault (n : Fin 4) (samples : Nat) (s : State) : Out :=
  done s fun e => if e.coreSampling && e.pen n && 625 ≤ samples then e.podFault n else e

/-- VDD_IO_LOSS (R100): the AON domain takes no sample; debounced states and flags stay. -/
def execVddIoLoss (s : State) : Out := done s fun e => { e with pwr.vddIo := false }

/-- VDD_IO_RETURN (R100): sampling resumes. -/
def execVddIoReturn (s : State) : Out := done s fun e => { e with pwr.vddIo := true }

end Sys2Proof.Machine
end

