-- ==== Sys2Proof/Machine/PodBus.lean ====
section
/-! DEFINITION. The pod bus: ID memories, the census walk, bus faults (R112 to R120). -/

namespace Sys2Proof.Machine

namespace Engine

/-- Goes on to the next slot of the walk, or ends it (R114, R116). -/
def walkNext (e : Engine) (w : Walk) : Engine :=
  match e.visit w w.todo with
  | (e, w, true) => { e with bus.walk := some w }
  | (e, w, false) => (e.walkEnd w).busStart

/-- Goes on to the next list entry of the slot from i on, or to the next slot. -/
def entryNext (e : Engine) (w : Walk) (i : Nat) : Engine :=
  match e.nextEntry w.slot i with
  | some j => { e with bus.walk := some { w with item := some j, retry := false } }
  | none => e.walkNext w

/-- A header passes (R112, R113). -/
def headerOk (d : List Byte) : Bool :=
  d.length == 32 && d.take 4 == [0x4B#8, 0x50#8, 0x01#8, 14#8] && natOfBytes ((d.drop 4).take 2) != 0 &&
    (crc16 (d.take 30)).toNat == natOfBytes (d.drop 30)

/-- The result of an ID memory read (R113). -/
def idResult (e : Engine) (w : Walk) (d : List Byte) : Engine :=
  let n := w.slot
  let f (i k : Nat) : Nat := natOfBytes ((d.drop i).take k)
  if headerOk d then
    let e := (e.wr (R.FEn_GAIN n) (w32 (2 ^ 30 + f 4 2))).censusTo n 1
    let e := (e.wr (R.POD_ID0 + 4 * n) (w32 (f 6 2 * 65536 + f 12 1 * 256 + f 3 1))).wr (R.POD_SER0 + 4 * n) (w32 (f 8 4))
    e.entryNext w 0
  else
    let e := ((e.noGain n).censusTo n 2).entriesTo n 0
    ((e.wr (R.POD_ID0 + 4 * n) 0#32).wr (R.POD_SER0 + 4 * n) 0#32).walkNext w

/-- The slot being visited has no usable ID: its status, and NONE for its entries. -/
def slotGone (e : Engine) (w : Walk) (st : Nat) : Engine := (((e.censusTo w.slot st).entriesTo w.slot 0).noGain w.slot).walkNext w

/-- How many bytes the transaction under way reads. -/
def itemLen (e : Engine) (w : Walk) : Nat :=
  match w.item with
  | none => 32
  | some i => e.rf (win R.I2CP_LIST i) 24 2 + 1

/-- The bytes of a transaction that was acknowledged (R113, R115). -/
def itemRead (e : Engine) (w : Walk) (d : List Byte) : Engine :=
  match w.item with
  | none => e.idResult w d
  | some i =>
    let e := (e.wr (win R.I2CP_RES i) (w32 (natOfBytes d)))
    ({ e with bus.entries := upd e.bus.entries i fun _ => 1 }).entryNext w (i + 1)

/-- A retry that is refused too (R115). -/
def itemNack (e : Engine) (w : Walk) : Engine :=
  match w.item with
  | none => e.slotGone w (if e.podOk w.slot then 3 else 4)
  | some i => ({ e with bus.entries := upd e.bus.entries i fun _ => 2 }).entryNext w (i + 1)

/-- The transaction of the walk that is under way, as driven on the bus (R112, R115): the ID memory at 0x50 + n from word
0 on, or the target of a list entry. -/
def itemTx (e : Engine) (w : Walk) : Tx :=
  match w.item with
  | none => .podRead (0x50 + w.slot) 0 32
  | some i => .podRead (e.rf (win R.I2CP_LIST i) 16 7) (e.rf (win R.I2CP_LIST i) 0 8) (e.itemLen w)

/-- A transaction of the walk ends. -/
def transaction (e : Engine) (w : Walk) (r : BusReply) : Engine :=
  let e := (e.demand 0).send (e.itemTx w)
  match r with
  | .nack => { e.count R.I2CP_NACK_CNT with bus.walk := some { w with retry := true }, bus.nackAt := e.time.now }
  | .bytes d => if d.length = e.itemLen w then e.itemRead w d else e

/-- The retry ends. -/
def retried (e : Engine) (w : Walk) (r : BusReply) : Engine :=
  let e := (e.demand 0).send (e.itemTx w)
  match r with
  | .nack => (e.count R.I2CP_NACK_CNT).itemNack w
  | .bytes d => if d.length = e.itemLen w then e.itemRead w d else e

/-- 25 ms in cu, the time that a recovery has; and what SCL has left of its 35 ms when it is found stuck at 25 ms (R118,
R119). -/
def stuckLimit (scl : Bool) : Nat := if scl then 6250000 else 15625000

/-- The bus is found stuck (R118): the recovery sequence for SDA, none for SCL. -/
def busFound (e : Engine) (scl : Bool) : Engine :=
  let e := if e.bus.recovering then e
    else { e with bus := { e.bus with recovering := true, stuckAt := e.time.now, stuckScl := scl } }
  if scl then e else e.send (.podRecover false)

/-- A recovery sequence has freed SDA in time (R118): counted; the slot being visited is ABSENT, and the walk goes on. In
the sequence that begins a walk no slot is being visited yet (DESIGN CHOICE, log entry 51). -/
def busFreed (e : Engine) (w : Walk) : Engine :=
  let e := ({ (e.send (.podRecover true)).count R.I2CP_RECOV_CNT with bus.recovering := false }).istat 0x08 2
  if w.starting then e.walkNext { w with starting := false } else e.slotGone w 4

/-- A recovery of the bus (R118). SCL that is released within its 35 ms lets the transaction go on. -/
def busRecovery (e : Engine) (w : Walk) (scl freed : Bool) : Engine :=
  if !freed then e.busFound scl
  else if scl then (if e.bus.recovering && e.bus.stuckScl then { e with bus.recovering := false } else e)
  else if e.bus.recovering && (e.bus.stuckScl || decide (e.bus.stuckAt + stuckLimit false < e.time.now)) then e
  else e.busFreed w

/-- The bus has not been freed in time (R119): 25 ms from detection, or SCL low for 35 ms. -/
def busHopeless (e : Engine) : Bool :=
  e.bus.recovering && decide (e.bus.stuckAt + stuckLimit e.bus.stuckScl ≤ e.time.now)

/-- The bus is not freed in time (R119): queued slots stay queued. An affected slot ends STALE, whether it was being
visited or has not been: R116 is about the end of every walk (DESIGN CHOICE, log entry 51). -/
def busLost (e : Engine) (w : Walk) : Engine :=
  let e := if w.starting then e else ((e.censusTo w.slot 4).entriesTo w.slot 0).noGain w.slot
  let e := w.todo.foldl (fun e n => (e.censusTo n 0).noGain n) e
  ({ (e.walkStale w).estat 0x08 1 with bus.needRecover := true }).push 0x2 0x08 1 w.slot

end Engine

/-! ### The commands -/

/-- CENSUS (R114, R120): a write of a slot mask to I2CP_CMD. -/
def execCensus (mask : BitVec 4) (s : State) : Out := done s fun e => if e.access then e.censusReq mask else e

/-- CENSUS_TRANSACTION (R115). -/
def execCensusTransaction (r : BusReply) (s : State) : Out :=
  done s fun e => match e.bus.walk with
    | some w => if e.isOn 0 && !w.retry && !e.bus.recovering then e.transaction w r else e
    | none => e

/-- CENSUS_RETRY (R115): 1 ms after the NACK. -/
def execCensusRetry (r : BusReply) (s : State) : Out :=
  done s fun e => match e.bus.walk with
    | some w => if e.isOn 0 && w.retry && !e.bus.recovering && e.bus.nackAt + 625000 ≤ e.time.now then e.retried w r else e
    | none => e

/-- BUS_STUCK (R118): the bus is found stuck, or it is free again. -/
def execBusStuck (cause : BusStuckCause) (freed : Bool) (s : State) : Out :=
  done s fun e => match e.bus.walk with
    | some w => if e.isOn 0 then e.busRecovery w (cause == .scl) freed else e
    | none => e

/-- POD_BUS_STUCK (R119). -/
def execPodBusStuck (s : State) : Out :=
  done s fun e => match e.bus.walk with
    | some w => if e.isOn 0 && e.busHopeless then e.busLost w else e
    | none => e

end Sys2Proof.Machine
end

