-- ==== Sys2Proof/Machine/HostErr.lean ====
section
/-! DEFINITION. Error reporting of the host port (R296) and breakwater (R297, R298): what a detected error sets in
configuration space and in the HOST page. The bit positions and the rules for advisory errors and error messages are
those of the PCI Express Base Specification, PRESUMED (log entry 11). -/

namespace Sys2Proof.Machine

/-- The uncorrectable errors of R296; the last three are the protocol errors. -/
inductive PciErr where
  | ur | ca | timeout | poison | malformed | unexpected | dllProtocol | flowControl | overflow
  deriving DecidableEq, Repr

/-- HOST_LAST_ERR.kind. -/
def PciErr.kind : PciErr → Nat
  | .ur => 1
  | .ca => 2
  | .timeout => 3
  | .poison => 4
  | .malformed => 5
  | .unexpected => 6
  | .dllProtocol | .flowControl | .overflow => 7

/-- Bit of the error in the AER uncorrectable registers. -/
def PciErr.bit : PciErr → Nat
  | .ur => 20
  | .ca => 15
  | .timeout => 14
  | .poison => 12
  | .malformed => 18
  | .unexpected => 16
  | .dllProtocol => 4
  | .flowControl => 13
  | .overflow => 17

/-- A TLP caused the error: its header can be logged. -/
def PciErr.hasHeader : PciErr → Bool
  | .timeout | .dllProtocol | .flowControl | .overflow => false
  | _ => true

/-- The HOST page's own counter, if the error has one. -/
def PciErr.counter : PciErr → Option Nat
  | .ur => some R.HOST_UR_CNT
  | .ca => some R.HOST_CA_CNT
  | .timeout => some R.HOST_CTO_CNT
  | .poison => some R.HOST_POIS_CNT
  | _ => none

/-- Bit of HOST_ESTAT, if the error has one. -/
def PciErr.estat : PciErr → Nat
  | .timeout => 1
  | .poison => 2
  | .malformed => 4
  | .ur => 8
  | .ca => 16
  | _ => 0

/-- The cause of breakwater that an error is (R297). -/
def PciErr.cause : PciErr → Nat
  | .timeout => 1
  | .poison => 2
  | .malformed => 3
  | _ => 0

namespace Engine

/-- Device Control enables a message of a severity: correctable, non-fatal, fatal. -/
def errEnabled (e : Engine) (fn sev : Nat) : Bool :=
  bit (e.cfg fn 0x58) sev || (sev != 0 && bit (e.cfg fn 0x04) 8)

/-- The Header Log takes the header of the TLP, which the operands do not carry: a free value (log entry 64). -/
def headerLog (e : Engine) (fn : Nat) : Engine :=
  let h := Config.tlpHeader e.host.headers
  let e := (List.range 4).foldl (fun e i => e.wr (cfgKey fn (0x11C + 4 * i)) (h.extractLsb' (32 * i) 32)) e
  { e with host.headers := e.host.headers + 1 }

/-- AER and Device Status of a detected error; advisory: a non-fatal error that the specification lets count as
correctable. -/
def aer (e : Engine) (fn : Nat) (x : PciErr) (advisory : Bool) : Engine :=
  let b := x.bit
  let fatal := bit (e.cfg fn 0x10C) b
  let masked := bit (e.cfg fn 0x108) b
  let first := e.cfg fn 0x104 == 0#32
  let e := e.hwSet (cfgKey fn 0x104) (w32 (2 ^ b))
  let e := if first && !masked then e.wr (cfgKey fn 0x118) (w32 b) else e
  let e := if first && !masked && x.hasHeader then e.headerLog fn else e
  let e := if x = .ur then e.hwSet (cfgKey fn 0x58) (w32 (2 ^ 19)) else e
  if advisory && !fatal then
    let e := (e.hwSet (cfgKey fn 0x110) (w32 (2 ^ 13))).hwSet (cfgKey fn 0x58) (w32 (2 ^ 16))
    let e := e.count R.HOST_CORR_CNT
    if !bit (e.cfg fn 0x114) 13 && !masked && e.errEnabled fn 0 && e.host.up then e.send (.errMsg fn 0) else e
  else
    let e := e.hwSet (cfgKey fn 0x58) (w32 (2 ^ (if fatal then 18 else 17)))
    let e := if bit (e.cfg fn 0x04) 8 && !masked then e.hwSet (cfgKey fn 0x04) (w32 (2 ^ 30)) else e
    if !masked && e.errEnabled fn (if fatal then 2 else 1) && e.host.up then e.send (.errMsg fn (if fatal then 2 else 1))
    else e

/-- A correctable error of the physical or the data link layer (R296), by its AER bit; it belongs to no function. -/
def corrErr (e : Engine) (b : Nat) : Engine :=
  let masked := bit (e.cfg 0 0x114) b
  let e := ((e.hwSet (cfgKey 0 0x110) (w32 (2 ^ b))).hwSet (cfgKey 0 0x58) (w32 (2 ^ 16))).count R.HOST_CORR_CNT
  if !masked && e.errEnabled 0 0 && e.host.up then e.send (.errMsg 0 0) else e

/-- HOST_LAST_ERR (R296). -/
def lastErr (e : Engine) (fn : Nat) (x : PciErr) : Engine :=
  let e := { e with host.lastErr := w32 (2 ^ 31 + fn * 2 ^ 28 + x.kind * 2 ^ 24 + e.time.tb.toNat % 2 ^ 24) }
  e.istat 0x25 32

/-- Breakwater is entered where an enabled cause is detected while it is open (R297, R298). -/
def breakwater (e : Engine) (x : PciErr) : Engine :=
  let en := match x with
    | .timeout => e.rb R.HOST_BW_CTL 0
    | .poison => e.rb R.HOST_BW_CTL 1
    | .malformed => e.rb R.HOST_BW_CTL 2
    | _ => false
  if en && e.host.bw == .opened then
    let slots : List JobSlot := e.job.slots.map fun s => { s with frozen := s.busy }
    let reads : List JobRead := e.job.reads.map fun r => { r with frozen := true }
    let e := { e with
      host := { e.host with bw := .frozen, bwCause := x.cause, bwTb := e.time.tb }
      job := { e.job with slots := slots, reads := reads } }
    (e.istat 0x25 4).push 0xB 0x03 0 x.cause
  else e

/-- An error is detected, counted, recorded and reported; an enabled cause enters breakwater (R296 to R298). -/
def hostErr (e : Engine) (fn : Nat) (x : PciErr) (advisory : Bool) : Engine :=
  let e := match x.counter with
    | some k => e.count k
    | none => e
  let e := if x.estat = 0 then e else e.estat 0x25 x.estat
  let e := match x with
    | .ca => e.hwSet (cfgKey fn 0x04) (w32 (2 ^ 27))
    | .poison => e.hwSet (cfgKey fn 0x04) (w32 (2 ^ 31))
    | _ => e
  ((e.aer fn x advisory).lastErr fn x).breakwater x

/-- A memory read that breakwater aborts (R299): Signaled Target Abort, AER, HOST_BW_CA in place of HOST_CA_CNT. -/
def frozenAbort (e : Engine) (fn : Nat) : Engine :=
  (((e.count R.HOST_BW_CA).hwSet (cfgKey fn 0x04) (w32 (2 ^ 27))).aer fn .ca true).lastErr fn .ca

/-- A completion with EP = 1 (R296): with Parity Error Response the requester sets Master Data Parity Error. -/
def poisonedCpl (e : Engine) : Engine :=
  let e := if bit (e.cfg 0 0x04) 6 then e.hwSet (cfgKey 0 0x04) (w32 (2 ^ 24)) else e
  e.hostErr 0 .poison false

/-- What the physical or the data link layer finds wrong (R296). -/
def rxErr (e : Engine) (fn : Nat) (x : RxErr) : Engine :=
  match x with
  | .receiver => e.corrErr 0
  | .badTlp => e.corrErr 6
  | .badDllp => e.corrErr 7
  | .replayRollover => e.corrErr 8
  | .replayTimeout => e.corrErr 12
  | .dllProtocol => e.hostErr 0 .dllProtocol false
  | .flowControl => e.hostErr 0 .flowControl false
  | .overflow => e.hostErr 0 .overflow false
  | .malformed => e.hostErr fn .malformed false

end Engine
end Sys2Proof.Machine
end

