-- ==== Sys2Proof/Machine/Inject.lean ====
section
/-! DEFINITION. Error injection (R334): one occurrence of a kind. -/

namespace Sys2Proof.Machine

namespace Engine

/-- The injection ends: arm and active clear, DIAG_INJ_DONE is pushed (R334). -/
def injectEnd (e : Engine) : Engine :=
  let e := e.wr R.DIAG_CTL (e.rd R.DIAG_CTL &&& 0xFFFFFFFE#32)
  ({ e.istat 0x30 1 with hinge.active := false }).push 0xD 0x05 3 e.hinge.kind

/-- An occurrence of a kind: whether the fault is injected into it. -/
def inject (e : Engine) (kind : Nat) : Engine × Bool :=
  if e.hinge.active && e.hinge.kind == kind then
    let e := { e with hinge.left := e.hinge.left - 1, hinge.done := e.hinge.done + 1 }
    (if e.hinge.left = 0 then e.injectEnd else e, true)
  else (e, false)

/-- Starts an injection (R334). -/
def injectArm (e : Engine) : Engine :=
  { e with hinge := { e.hinge with
      active := true, kind := e.rf R.DIAG_INJ_SEL 0 4, left := e.rf R.DIAG_INJ_CNT 0 16, done := 0 } }

/-- Stops it. -/
def injectStop (e : Engine) : Engine := { e with hinge.active := false }

end Engine
end Sys2Proof.Machine
end

