-- ==== Sys2Proof/Machine/Hinge.lean ====
section
/-! DEFINITION. The Hinge links (R324 to R330): protected frames, the replay buffers of both ends, acknowledgements,
replays, retrains. -/

namespace Sys2Proof.Machine

/-! ### Protected frames (R325) -/

/-- type, seq and ack of a frame. -/
def frameType (f : LinkFrame) : Nat := (f.bytes.getD 0 0#8).toNat
def frameSeq (f : LinkFrame) : Nat := (f.bytes.getD 1 0#8).toNat
def frameAck (f : LinkFrame) : Nat := (f.bytes.getD 2 0#8).toNat

/-- The frame is intact: a type of the table, and the CRC-32 of bytes 0 to 59 in the last four. -/
def frameIntact (f : LinkFrame) : Bool :=
  f.bytes.length == 64 && decide (1 ≤ frameType f) && decide (frameType f ≤ 4)
    && decide (bytesOfNat 4 (crc32 (f.bytes.take 60)).toNat = f.bytes.drop 60)

/-! ### One end of a link (R327) -/

/-- Frames that wait are sent while the replay buffer has room. -/
def LinkEnd.flush (n : LinkEnd) (now : Nat) : LinkEnd :=
  let k := min (32 - n.out.length) n.queue.length
  let fs : List OutFrame := (n.queue.take k).zipIdx.map fun x => { seq := (n.next + x.2) % 256, sent := now, op := x.1 }
  { n with out := n.out ++ fs, next := (n.next + k) % 256, queue := n.queue.drop k }

/-- Releases every frame up to a sequence number (R326). -/
def LinkEnd.release (n : LinkEnd) (ack : Nat) : LinkEnd :=
  { n with out := n.out.filter fun f => decide (128 ≤ (ack + 256 - f.seq) % 256) }

/-- Every unacknowledged frame is sent again. -/
def LinkEnd.again (n : LinkEnd) (now : Nat) : LinkEnd :=
  let fs : List OutFrame := n.out.map fun f => { f with sent := now, plays := f.plays + 1 }
  { n with out := fs }

/-- No frame has been played since a retrain. -/
def LinkEnd.fresh (n : LinkEnd) : LinkEnd :=
  let fs : List OutFrame := n.out.map fun f => { f with plays := 0 }
  { n with out := fs }

/-- Sequence number of the oldest unacknowledged frame. -/
def LinkEnd.oldest (n : LinkEnd) : Nat := (n.out.map (·.seq)).headD 0

/-- What the frame of a sequence number carries. -/
def LinkEnd.opOf (n : LinkEnd) (seq : Nat) : Option HingeOp := (n.out.find? fun f => f.seq == seq).bind (·.op)

namespace Engine

/-- A link by its arg of R335: 0 Hinge-C, 1 Hinge-S. -/
def hlink (e : Engine) (s : Bool) : HingeLink := if s then e.hinge.s else e.hinge.c

def setLink (e : Engine) (s : Bool) (f : HingeLink → HingeLink) : Engine :=
  if s then { e with hinge.s := f e.hinge.s } else { e with hinge.c := f e.hinge.c }

/-- The end of a link at Headland, or at the other die. -/
def linkEnd (e : Engine) (s atHead : Bool) : LinkEnd := if atHead then (e.hlink s).head else (e.hlink s).far

def setEnd (e : Engine) (s atHead : Bool) (f : LinkEnd → LinkEnd) : Engine :=
  e.setLink s fun l => if atHead then { l with head := f l.head } else { l with far := f l.far }

/-- A register of the C or the S link. -/
def linkReg (s : Bool) (c s' : Nat) : Nat := if s then s' else c

/-- HINGE_x_LAST (R336). -/
def linkLast (e : Engine) (s : Bool) (kind seq : Nat) : Engine :=
  e.wr (linkReg s R.HINGE_C_LAST R.HINGE_S_LAST) (w32 (kind * 2 ^ 28 + seq % 256 * 2 ^ 20 + e.time.tb.toNat % 2 ^ 20))

/-- The link takes a new DATA frame from Headland: it is trained and fewer than 32 frames are unacknowledged (R327,
R330). -/
def linkFree (e : Engine) (s : Bool) : Bool :=
  (e.hlink s).st == .trained && decide ((e.hlink s).head.out.length < 32) && (e.hlink s).head.queue.isEmpty

/-- DATA traffic passes: the link neither retrains nor is in DIE_FAULT. -/
def linkOpen (e : Engine) (s : Bool) : Bool := (e.hlink s).st == .trained || (e.hlink s).st == .replay

/-- Frames that wait at an end are sent while DATA traffic passes. -/
def linkFlush (e : Engine) (s atHead : Bool) : Engine :=
  if e.linkOpen s then e.setEnd s atHead fun n => n.flush e.time.now else e

/-- An end sends a DATA frame, behind those that wait for room; in DIE_FAULT it is lost. -/
def linkPut (e : Engine) (s atHead : Bool) (op : Option HingeOp) : Engine :=
  if linkLost (e.hlink s) then e
  else
    let e := e.setLink s fun l => { l with last := if atHead then e.time.now else l.last }
    (e.setEnd s atHead fun n => { n with queue := n.queue ++ [op] }).linkFlush s atHead

/-- Headland sends a DATA frame: a memory command, a commit (R324). -/
def linkSend (e : Engine) (s : Bool) : Engine := e.linkPut s true none

/-- An acknowledgement of every frame up to a sequence number reaches an end (R326). A replay is over with the last
frame that it sent again. -/
def linkAck (e : Engine) (s atHead : Bool) (ack : Nat) : Engine :=
  let e := e.setEnd s atHead fun n => n.release ack
  let e := e.setLink s fun l =>
    { l with st := if l.st = .replay ∧ (l.head.out ++ l.far.out).all (fun f => f.plays == 0) = true then .trained else l.st }
  e.linkFlush s atHead

/-- A retrain begins (R328); kind 10 of error injection dooms a Hinge-C retrain (R334). -/
def retrain (e : Engine) (s : Bool) : Engine :=
  let e := e.count (linkReg s R.HINGE_C_RETRAIN_CNT R.HINGE_S_RETRAIN_CNT)
  let e := ((e.linkLast s 4 (e.hlink s).head.oldest).istat 0x23 (if s then 2 else 1)).pushIf (e.rb R.HINGE_CTL 1) 0xD 0x01 1
    (if s then 1 else 0)
  let r := if s then (e, false) else e.inject 10
  r.1.setLink s fun l => { l with st := .retrain, start := e.time.now, doomed := r.2 }

/-- HINGE_CMD: a retrain starts unless one is running. -/
def retrainCmd (e : Engine) (s : Bool) : Engine := if (e.hlink s).st == .retrain then e else e.retrain s

/-- Every unacknowledged frame of an end is sent again; each one counts (R327). -/
def resend (e : Engine) (s atHead : Bool) : Engine :=
  let n := (e.linkEnd s atHead).out.length
  if n = 0 then e
  else
    let e := e.countN (linkReg s R.HINGE_C_REPLAY_CNT R.HINGE_S_REPLAY_CNT) n
    let e := e.setLink s fun l => { l with st := .replay, last := if atHead then e.time.now else l.last }
    e.setEnd s atHead fun n => n.again e.time.now

/-- A replay from the oldest unacknowledged frame of an end, or a retrain in place of a fourth one (R327). -/
def replay (e : Engine) (s atHead : Bool) (kind : Nat) : Engine :=
  match (e.linkEnd s atHead).out with
  | [] => e
  | f :: _ =>
    if !e.linkOpen s then e
    else if 3 ≤ f.plays then e.retrain s
    else (e.linkLast s kind f.seq).resend s atHead

/-- The replay timer of an end's oldest frame has run out. -/
def replayDue (e : Engine) (s atHead : Bool) : Bool :=
  match (e.linkEnd s atHead).out with
  | [] => false
  | f :: _ => decide (f.sent + 625 ≤ e.time.now)

/-- HINGE_TRAIN_LAT of a retrain that ends now. -/
def trainLat (e : Engine) (s : Bool) : Engine :=
  e.wr R.HINGE_TRAIN_LAT (w32 (at1 s 31 + min (e.time.now - (e.hlink s).start) (2 ^ 24 - 1)))

/-- A retrain completes (R328, R329): both ends replay what is unacknowledged; a link that was in DIE_FAULT is
reported. -/
def retrained (e : Engine) (s : Bool) : Engine :=
  let was := linkLost (e.hlink s)
  let e := e.trainLat s
  let e := e.setLink s fun l =>
    { l with st := .trained, doomed := false, faulted := false, lost := false, head := l.head.fresh, far := l.far.fresh }
  let e := (((e.resend s true).resend s false).linkFlush s true).linkFlush s false
  let e := if s && e.isOn 13 then { e with mem.selfRef := false } else e
  if was then (e.istat 0x23 32).push 0xD 0x03 2 (if s then 1 else 0) else e

/-- The retrain may still succeed. -/
def canTrain (e : Engine) (s : Bool) : Bool :=
  (e.hlink s).st == .retrain && !(e.hlink s).doomed && decide (e.time.now ≤ (e.hlink s).start + 10625)

/-- The retrain has failed: 17 µs have passed. -/
def trainFailed (e : Engine) (s : Bool) : Bool :=
  (e.hlink s).st == .retrain && decide ((e.hlink s).start + 10625 ≤ e.time.now)

/-- DIE_FAULT is entered (R329): what both ends hold is discarded. -/
def dieFault (e : Engine) (s : Bool) : Engine :=
  let seq := (e.hlink s).head.oldest
  let e := ((e.trainLat s).estat 0x23 (if s then 2 else 1)).istat 0x23 (if s then 8 else 4)
  let e := ((e.count R.HINGE_FAULT_CNT).linkLast s 5 seq).push 0xD 0x02 0 (if s then 1 else 0)
  e.setLink s fun l => { l with
    st := .fault, faulted := true, lost := true, doomed := false
    head := { l.head with out := [], queue := [] }, far := { l.far with out := [], queue := [] } }

/-- What an end does with a DATA frame that passes its CRC (R326); true: it executes the frame. -/
def linkReceive (e : Engine) (s atHead : Bool) (seq : Nat) : Engine × Bool :=
  let exp := (e.linkEnd s atHead).exp
  let name := if s then Link.s else Link.c
  if seq = exp then
    ((e.setEnd s atHead fun n => { n with exp := (exp + 1) % 256 }).send (.hingeAck name atHead exp), true)
  else if 128 ≤ (seq + 256 - exp) % 256 then
    (((e.count (linkReg s R.HINGE_C_DUP_CNT R.HINGE_S_DUP_CNT)).linkLast s 3 seq).send
      (.hingeAck name atHead ((exp + 255) % 256)), false)
  else (e.send (.hingeNak name atHead ((exp + 255) % 256)), false)

/-- A DATA frame arrives at its receiver, over a link that passes DATA traffic; kinds 0 and 3 of error injection corrupt
one from Headland. The answer: what it has the receiver execute. -/
def dataFrame (e : Engine) (s : Bool) (f : LinkFrame) : Engine × Option HingeOp :=
  if !(frameIntact f && frameType f == 1 && e.linkOpen s) then (e, none)
  else
    let r := if f.atHeadland then (e, false) else e.inject (if s then 3 else 0)
    if r.2 then (r.1, none)
    else
      let op := (r.1.linkEnd s !f.atHeadland).opOf (frameSeq f)
      let q := (r.1.linkAck s f.atHeadland (frameAck f)).linkReceive s f.atHeadland (frameSeq f)
      (q.1, if q.2 then op else none)

/-- An ACK frame, or a TRAIN frame with its ack field, arrives; kinds 1 and 4 of error injection discard an ACK that
arrives at Headland. -/
def ackFrame (e : Engine) (s : Bool) (f : LinkFrame) : Engine :=
  if !(frameIntact f && ((frameType f == 2 && e.linkOpen s) || (frameType f == 4 && (e.hlink s).st != .fault))) then e
  else
    let r := if f.atHeadland && frameType f == 2 then e.inject (if s then 4 else 1) else (e, false)
    if r.2 then r.1 else r.1.linkAck s f.atHeadland (frameAck f)

/-- A NAK frame arrives: what it names is released, the rest is replayed. -/
def nakFrame (e : Engine) (s : Bool) (f : LinkFrame) : Engine :=
  if frameIntact f && frameType f == 3 && e.linkOpen s then (e.linkAck s f.atHeadland (frameAck f)).replay s f.atHeadland 2 else e

end Engine

/-- A link names Hinge-S. -/
def isS : Link → Bool
  | .c => false
  | .s => true

/-! ### The commands -/

/-- HINGE_ACK (R326). -/
def execHingeAck (l : Link) (f : LinkFrame) (s : State) : Out := done s fun e => e.ackFrame (isS l) f

/-- HINGE_NAK (R326, R327). -/
def execHingeNak (l : Link) (f : LinkFrame) (s : State) : Out := done s fun e => e.nakFrame (isS l) f

/-- REPLAY_TIMEOUT (R327), at Headland's end or at the other. -/
def execReplayTimeout (f : Sender) (s : State) : Out :=
  done s fun e => if e.replayDue (isS f.link) f.atHeadland then e.replay (isS f.link) f.atHeadland 1 else e

/-- RETRAIN_C (R328, HINGE_CMD). -/
def execRetrainC (s : State) : Out := done s fun e => if e.access then e.retrainCmd false else e

/-- RETRAIN_S (R328, HINGE_CMD). -/
def execRetrainS (s : State) : Out := done s fun e => if e.access then e.retrainCmd true else e

/-- SHOAL_SELF_REFRESH (R329): 10 µs have passed since Shoal's last command, over a link in DIE_FAULT. -/
def execShoalSelfRefresh (s : State) : Out :=
  done s fun e =>
    if e.pwr.enMem && Engine.linkDead e.hinge.s && decide (e.hinge.s.last + 6250 ≤ e.time.now) then
      { e with mem.selfRef := true }
    else e

end Sys2Proof.Machine
end

