-- ==== Sys2Proof/Machine/Codec.lean ====
section
/-! DEFINITION. The Boholt block format (R202 to R209, R212, R215, R216, R218): headers, tokens, the parse, the decoder and
the channel filter. -/

namespace Sys2Proof.Machine

/-! ### Items (R169 to R171) -/

/-- Kind of an item. -/
def itemKind (i : Item) : Nat := i.toNat / 16384

/-- Fewest DELTA digits of a gap value: none for 0 (R171). -/
def deltaDigits : Nat → Nat → List Item
  | 0, _ => []
  | k + 1, v => if v = 0 then [] else BitVec.ofNat 16 (0x4000 + v % 16384) :: deltaDigits k (v / 16384)

/-- DELTA items of a gap value. -/
def deltaItems (v : Nat) : List Item := deltaDigits 4 v

/-! ### Tokens (R207) -/

/-- A token. -/
inductive Tok where
  | lit (x : Item)
  | srun (len : Nat)
  | lrun (len : Nat)
  | copy (dist len : Nat)
  | eob
  deriving DecidableEq, Repr

/-- The w low bits of a number, the least significant first. -/
def bitsLE (w n : Nat) : List Bool := (List.range w).map fun i => n.testBit i

/-- The bits of a token in stream order. -/
def Tok.bits : Tok → List Bool
  | .lit x => false :: bitsLE 16 x.toNat
  | .srun n => [true, false] ++ bitsLE 4 (n - 1)
  | .lrun n => [true, true, false] ++ bitsLE 12 (n - 1)
  | .copy d n => [true, true, true, false] ++ bitsLE 12 (d - 1) ++ bitsLE 10 (n - 3)
  | .eob => [true, true, true, true, false]

/-- How many items a token produces. -/
def Tok.len : Tok → Nat
  | .lit _ => 1
  | .srun n => n
  | .lrun n => n
  | .copy _ n => n
  | .eob => 0

/-! ### The parse (R212) -/

/-- Length of the common prefix of two lists, at most cap. -/
def lcp : Nat → List Item → List Item → Nat
  | 0, _, _ => 0
  | _, [], _ => 0
  | _, _, [] => 0
  | cap + 1, a :: s, b :: t => if a = b then lcp cap s t + 1 else 0

/-- The longest match of at least 3 items at position i, the smallest distance first: distance and length. The length
is capped at 1026, the most that the 10-bit field len − 3 can hold (log entry 30). -/
def bestMatch (all : List Item) (i : Nat) : Nat × Nat :=
  (List.range (min 4096 i - 1)).foldl (fun best j =>
    let d := j + 2
    let m := lcp 1026 (all.drop (i - d)) (all.drop i)
    if 3 ≤ m ∧ best.2 < m then (d, m) else best) (0, 0)

/-- The token at position i. -/
def tokenAt (all : List Item) (i : Nat) : Tok :=
  let r := if i = 0 then 0 else lcp 4096 (all.drop (i - 1)) (all.drop i)
  let m := bestMatch all i
  if 1 ≤ r ∧ m.2 ≤ r then (if r ≤ 16 then .srun r else .lrun r)
  else if 3 ≤ m.2 then .copy m.1 m.2
  else .lit (all.getD i 0#16)

/-- The token sequence from position i on, without EOB. -/
def parseFrom (all : List Item) : Nat → Nat → List Tok
  | 0, _ => []
  | fuel + 1, i =>
    if all.length ≤ i then [] else
      let t := tokenAt all i
      t :: parseFrom all fuel (i + t.len)

/-- The compressor's tokens of a block. -/
def parse (items : List Item) : List Tok := parseFrom items items.length 0

/-- Bytes of a bit stream whose length is a multiple of 8; bit k is bit k mod 8 of byte k / 8. -/
def packBits : List Bool → List Byte
  | a :: b :: c :: d :: e :: f :: g :: h :: t =>
    BitVec.ofNat 8 (at1 a 0 + at1 b 1 + at1 c 2 + at1 d 3 + at1 e 4 + at1 f 5 + at1 g 6 + at1 h 7) :: packBits t
  | _ => []

/-- Zero padding to a multiple of n bits. -/
def padBits (n : Nat) (l : List Bool) : List Bool := l ++ List.replicate ((n - l.length % n) % n) false

/-- The payload as a token stream, EOB and padding included. -/
def tokenPayload (items : List Item) : List Byte :=
  packBits (padBits 32 ((parse items ++ [Tok.eob]).flatMap Tok.bits))

/-- Two bytes per item, the low one first. -/
def itemBytes (items : List Item) : List Byte := items.flatMap fun i => [i.extractLsb' 0 8, i.extractLsb' 8 8]

/-- The payload of a STORED block (R208). -/
def storedPayload (items : List Item) : List Byte :=
  itemBytes (if items.length % 2 = 0 then items else items ++ [0xBC00#16])

/-- The tokens of an open block that later items cannot change: those that end before the last item. -/
def finalTokens (items : List Item) : List Tok :=
  ((parse items).foldl (fun (a : List Tok × Nat) t =>
    if a.2 + t.len < items.length then (a.1 ++ [t], a.2 + t.len) else (a.1, items.length)) ([], 0)).1

/-- Payload words of a live open block that are complete (R229). -/
def finalWords (items : List Item) : Nat := ((finalTokens items).flatMap Tok.bits).length / 64

/-! ### Blocks (R202, R203, R209) -/

/-- Closes an open block: the STORED decision, the payload and its CRC-32 (R209, R214). -/
def closeBlk (stream mode : Nat) (raw stop aborted : Bool) (b : OpenBlk) : Block :=
  let tok := tokenPayload b.items
  let st := raw || decide (4 * ((b.items.length + 1) / 2) ≤ tok.length)
  let pl := if st then storedPayload b.items else tok
  { stream := stream, count := b.items.length, plen := pl.length, firstT := b.firstT
    body := pl ++ bytesOfWord (crc32 pl), stored := st, afterGap := b.afterGap, aborted := aborted, stop := stop
    runStart := b.runStart, trig := b.trig, mode := mode, lead := b.lead, live := b.live }

/-- The 16 header bytes of a block as its flags and count stand (R202, R203). -/
def headerBytes (b : Block) (cut : Bool) : List Byte :=
  let w1 := w32 (b.stream * 2 ^ 27 + b.plen * 2 ^ 13 + b.count)
  let w3 := w32 (at1 b.aborted 28 + at1 b.damaged 27 + at1 cut 26 + at1 b.afterGap 25 + at1 b.stored 24
    + b.firstT.toNat / 2 ^ 32)
  let rest := bytesOfWord w1 ++ bytesOfWord (b.firstT.setWidth 32) ++ bytesOfWord w3
  bytesOfWord (w32 ((crc16 rest).toNat * 65536 + 0xB0B7)) ++ rest

/-- All bytes of a block: header, payload, CRC-32. -/
def blockBytes (b : Block) : List Byte := headerBytes b false ++ b.body

/-! ### The decoder (R215, R216) -/

/-- What the decoder makes of a payload: items, and the code of a token fault. -/
structure Decoded where
  items : List Item
  fault : Option Nat := none
  deriving DecidableEq, Repr

/-- The prefix of a token: how many leading ones, at most 5. -/
def tokPrefix (k : Nat) : List Bool → Option (Nat × List Bool)
  | [] => none
  | b :: t => if b then (if k = 4 then some (5, t) else tokPrefix (k + 1) t) else some (k, t)

/-- A number from bits, the least significant first. -/
def natLE : List Bool → Nat
  | [] => 0
  | b :: t => at1 b 0 + 2 * natLE t

/-- len items copied one at a time from dist back; the list holds the latest item first. -/
def copyBack (dist : Nat) : Nat → List Item → List Item
  | 0, out => out
  | len + 1, out => copyBack dist len (out.getD (dist - 1) 0#16 :: out)

/-- One token stream, given the items so far, latest first. -/
def decodeToks (cut : Bool) (max : Nat) : Nat → List Bool → List Item → Decoded
  | 0, _, out => ⟨out.reverse, none⟩
  | fuel + 1, bs, out =>
    let short : Decoded := ⟨out.reverse, if cut then none else some 4⟩
    match tokPrefix 0 bs with
    | none => short
    | some (k, t) =>
      if k = 5 then ⟨out.reverse, some 1⟩
      else if k = 4 then ⟨out.reverse, if out.length < max ∧ !cut then some 4 else none⟩
      else if k = 0 then
        if t.length < 16 then short
        else if max < out.length + 1 then ⟨out.reverse, some 3⟩
        else decodeToks cut max fuel (t.drop 16) (BitVec.ofNat 16 (natLE (t.take 16)) :: out)
      else
        let w := if k = 3 then 22 else if k = 1 then 4 else 12
        if t.length < w then short
        else
          let d := if k = 3 then natLE (t.take 12) + 1 else 1
          let len := if k = 3 then natLE ((t.drop 12).take 10) + 3 else natLE (t.take w) + 1
          if out.length < d then ⟨out.reverse, some 2⟩
          else if max < out.length + len then ⟨out.reverse, some 3⟩
          else decodeToks cut max fuel (t.drop w) (copyBack d len out)

/-- The bits of a payload. -/
def unpackBits (bs : List Byte) : List Bool := bs.flatMap fun b => bitsLE 8 b.toNat

/-- Items of bytes, two each. -/
def bytesItems : List Byte → List Item
  | a :: b :: t => BitVec.ofNat 16 (a.toNat + 256 * b.toNat) :: bytesItems t
  | _ => []

/-- The header fields of a block's bytes. -/
structure Header where
  stream : Nat
  plen   : Nat
  count  : Nat
  firstT : Time
  cut    : Bool
  stored : Bool
  deriving DecidableEq, Repr

/-- The word at a byte offset. -/
def wordAt (bs : List Byte) (i : Nat) : Word := w32 (natOfBytes ((bs.drop i).take 4))

/-- The header of a block that passes the checks of R215, with the stream and time of its directory entry. -/
def header? (bs : List Byte) (expect : Option (Nat × Time)) : Option Header :=
  if bs.length < 16 then none
  else
    let w0 := wordAt bs 0; let w1 := wordAt bs 4; let w2 := wordAt bs 8; let w3 := wordAt bs 12
    let h : Header := { stream := fld w1 27 3, plen := fld w1 13 14, count := fld w1 0 13
                        firstT := BitVec.ofNat 56 (fld w3 0 24 * 2 ^ 32 + w2.toNat), cut := bit w3 26, stored := bit w3 24 }
    let bad := fld w0 0 16 != 0xB0B7 || fld w0 16 16 != (crc16 ((bs.drop 4).take 12)).toNat || fld w1 30 2 != 0
      || fld w3 29 3 != 0 || decide (4 < h.stream) || (h.count == 0 && !h.cut) || decide (4096 < h.count)
      || (if h.cut then decide (8708 < h.plen) else h.plen % 4 != 0 || decide (8192 < h.plen))
      || (h.stored && h.plen != 4 * ((h.count + 1) / 2))
      || (match expect with
        | some (s, t) => h.stream != s || h.firstT != t
        | none => false)
    if bad then none else some h

/-- What the decompressor reports of a block: its items, and code and position of each fault in order (R215, R216). -/
structure Checked where
  head   : Option Header
  items  : List Item
  faults : List (Nat × Nat)
  deriving DecidableEq, Repr

/-- Checks and decodes a block. Bytes that the block lacks count as 0. -/
def checkBlock (bs : List Byte) (expect : Option (Nat × Time)) : Checked :=
  match header? bs expect with
  | none => ⟨none, [], [(5, 0)]⟩
  | some h =>
    let rest := bs.drop 16
    let pl := (rest ++ List.replicate (h.plen - rest.length) 0#8).take h.plen
    let crc := w32 (natOfBytes ((rest.drop h.plen).take 4))
    let max := if h.cut ∧ h.count = 0 then 4096 else h.count
    let d : Decoded := if h.stored then ⟨(bytesItems pl).take max, none⟩
      else decodeToks h.cut max (8 * h.plen + 1) (unpackBits pl) []
    let f1 := match d.fault with
      | some c => [(c, d.items.length)]
      | none => []
    let f2 := if !h.cut && (crc32 pl != crc) then [(6, d.items.length)] else []
    ⟨some h, d.items, f1 ++ f2⟩

/-! ### The channel filter (R218) -/

/-- An item with a SAMPLE's payload masked. -/
def maskItem (mask : Nat) (i : Item) : Item :=
  if itemKind i = 0 then i &&& BitVec.ofNat 16 (mask % 16384) else i

/-- State of the squeeze: last emitted SAMPLE, slots carried, DELTA items read, and whether an ANCHOR is being read. -/
structure Squeeze where
  last   : Option Item := none
  carry  : Nat := 0
  deltas : List Item := []
  anchor : Bool := false
  deriving DecidableEq, Repr

/-- The value of DELTA digits. -/
def deltaVal : List Item → Nat
  | [] => 0
  | i :: t => i.toNat % 16384 + 16384 * deltaVal t

/-- The squeeze option over a block's items. -/
def squeeze (mask : Nat) : Squeeze → List Item → List Item
  | q, [] => q.deltas
  | q, i :: t =>
    if itemKind i = 1 then squeeze mask { q with deltas := q.deltas ++ [i] } t
    else if itemKind i = 0 then
      let p := maskItem mask i
      let slots := q.carry + 1 + deltaVal q.deltas
      let before : Bool := match t with
        | n :: _ => itemKind n == 2 && n.toNat / 1024 % 16 != 3 && n.toNat / 1024 % 16 != 15
        | [] => false
      if q.last = some p ∧ !q.anchor ∧ !before then squeeze mask { q with carry := slots, deltas := [], anchor := false } t
      else deltaItems (slots - 1) ++ p :: squeeze mask { last := some p } t
    else if itemKind i = 2 then q.deltas ++ i :: squeeze mask { q with deltas := [], anchor := i.toNat / 1024 % 16 == 0 } t
    else q.deltas ++ i :: squeeze mask { q with deltas := [] } t

/-- What a job delivers of a block's items: streams 0 to 3 masked, and squeezed on request. -/
def filterItems (stream mask : Nat) (sq : Bool) (items : List Item) : List Item :=
  if 4 ≤ stream then items
  else if sq then squeeze mask {} items
  else items.map (maskItem mask)

end Sys2Proof.Machine
end

