-- ==== Sys2Proof/Machine/Timing.lean ====
section
/-! DEFINITION. Timing inputs, stamps, difference units and code-density calibration (R123 to R137). -/

namespace Sys2Proof.Machine

/-- An edge that an input has seen: its stamp, and whether the dead time made it lost. -/
structure Edge where
  stamp  : BitVec 64
  input  : Nat
  rising : Bool
  lost   : Bool
  /-- The lost flag that its stamp carries (R127). -/
  flag   : Bool
  deriving DecidableEq, Repr

/-- The stamp of a capture (R126): centre in 1/256 fu, offset in fu. -/
def stampOf (cr : Time) (center : Nat) (ofs : Int) : BitVec 64 :=
  BitVec.ofInt 64 (((cr.toNat : Int) * 65536 + center - ofs * 256 + 128) / 256)

/-- One threshold code, 312.5 µV, in nV (R124). -/
def tinCode : Int := 312500

/-- Half the hysteresis in nV. -/
def tinHalf (h : Nat) : Int := if h = 0 then 0 else 2500000 * (2 ^ (h - 1) : Nat)

namespace Engine

/-- A threshold in nV. -/
def tinThr (e : Engine) (i : Nat) : Int := sgn 14 (e.rf (R.TDC_TIN0 + 4 * i) 0 14) * tinCode

/-- The slope setting selects a polarity (R124). -/
def slopeHas (e : Engine) (i : Nat) (rising : Bool) : Bool :=
  match e.rf (R.TDC_TIN0 + 4 * i) 28 2 with
  | 0 => rising
  | 1 => !rising
  | _ => true

/-- TDCCAL_OFS of an input and polarity (R131). -/
def tinOfs (e : Engine) (i : Nat) (rising : Bool) : Int :=
  sgn 16 (e.rf (win R.TDCCAL_OFS i) (if rising then 0 else 16) 16)

/-- Model cycle of a coarse count near the present one. -/
def cycOf (e : Engine) (coarse : Time) : Nat :=
  let back := (e.time.tb - coarse).toNat
  if back < 2 ^ 55 then e.time.now - back else e.time.now + (coarse - e.time.tb).toNat

/-- Coarse part of a stamp (R4). -/
def coarseOf (s : BitVec 64) : Time := s.extractLsb' 8 56

/-- Starts and stops of the inputs: an input that starts running takes its output from the pin (R124). -/
def tinSync (e : Engine) : Engine :=
  (List.range 4).foldl (fun e i =>
    let t := e.tin i
    if e.tinRuns i && !t.running then e.setTin i fun t => { t with running := true, level := decide (e.tinThr i < t.volt) }
    else if !e.tinRuns i && t.running then e.setTin i fun t => { t with running := false }
    else e) e

/-- One crossing at the comparator (R124, R126, R127): the edge it makes, if any. While the TDC wakes, the comparator
toggles and nothing is stamped. -/
def tinCross (e : Engine) (c : TinCap) : Engine × Option Edge :=
  let i := c.input.val
  let t := e.tin i
  let e := e.setTin i fun t => { t with volt := c.nv }
  let half := tinHalf (e.rf (R.TDC_TIN0 + 4 * i) 24 2)
  let up := e.tinThr i + half < c.nv
  let down := c.nv < e.tinThr i - half
  if !e.tinRuns i || (if t.level then !down else !up) then (e, none)
  else
    let rising := !t.level
    let e := e.setTin i fun t => { t with level := rising }
    if !(e.isOn 5 && e.slopeHas i rising) then (e, none)
    else
      let s := stampOf c.cr (e.center i c.tap.toNat) (e.tinOfs i rising)
      let lost := match t.last with
        | some l => decide ((s - l).toNat < 400)
        | none => false
      if lost then
        let e := ((e.count R.TDC_LOST).estat 0x14 (2 ^ i)).istat 0x14 1
        (e.setTin i fun t => { t with lostFlag := true, lostTide := true }, some ⟨s, i, rising, true, false⟩)
      else (e.setTin i fun t => { t with last := some s, lostFlag := false }, some ⟨s, i, rising, false, t.lostFlag⟩)

/-! ### Difference units (R132 to R135) -/

def unitCfg (e : Engine) (k lo len : Nat) : Nat := e.rf (win R.TDC_D_CFG k) lo len

/-- An edge qualifies as the start (lo = 22) or stop (lo = 18) of unit k. -/
def qualifies (e : Engine) (k : Nat) (d : Edge) (lo : Nat) : Bool :=
  e.unitCfg k 31 1 == 1 && e.unitCfg k (lo + 2) 2 == d.input &&
    (match e.unitCfg k lo 2 with
      | 0 => d.rising
      | 1 => !d.rising
      | _ => true)

/-- MARK.DIFF and its four EXT items (R134). -/
def diffItems (k : Nat) (timeout lost : Bool) (v : Nat) : List Item :=
  markItem 11 (k * 256 + at1 timeout 7 + at1 lost 6) :: ext56 v

/-- MARK.DIFF of a completed interval: directly after the stop edge's SAMPLE where it is recorded. -/
def diffMark (e : Engine) (k : Nat) (d : Edge) (lost : Bool) (v : Nat) : Engine :=
  if !e.rb R.TDC_CTL (4 + k) then e
  else e.inCyc 4 (e.cycOf (coarseOf d.stamp)) fun c =>
    if c.edges.any fun x => x.item.toNat / 4096 == d.input then
      { c with edges := c.edges.map fun x =>
          if x.item.toNat / 4096 = d.input then { x with diffs := x.diffs ++ diffItems k false lost v } else x }
    else { c with diffs := c.diffs ++ diffItems k false lost v }

/-- Unit k sees an edge (R132). -/
def unitEdge (e : Engine) (d : Edge) (k : Nat) : Engine :=
  let u := e.unit k
  if d.lost then
    if u.start.isSome && (e.unitCfg k 24 2 == d.input || e.unitCfg k 20 2 == d.input) then
      e.setUnit k fun u => { u with lost := true }
    else e
  else
    let e := match u.start with
      | some s =>
        if e.qualifies k d 18 then
          let v := (d.stamp - s).toNat
          let r : DiffRes := { due := e.cycOf (coarseOf d.stamp) + 3, unit := k, ival := some v }
          let e := (e.setUnit k fun u => { u with start := none, lost := false }).diffMark k d u.lost v
          { e with tdc.res := e.tdc.res ++ [r] }
        else e
      | none => e
    if e.qualifies k d 22 then e.setUnit k fun u => { u with start := some d.stamp, lost := false } else e

/-- The SAMPLE of an edge without its same bit (R179). -/
def edgeItem (d : Edge) : Item :=
  BitVec.ofNat 16 (d.input * 4096 + at1 d.rising 11 + d.stamp.toNat % 256 * 8 + at1 d.flag 2)

/-- Stream 4 takes an edge (R128, R179). -/
def recEdge (e : Engine) (d : Edge) : Engine :=
  if d.lost || !e.rb R.TDC_CTL (8 + d.input) then e
  else e.inCyc 4 (e.cycOf (coarseOf d.stamp)) fun c =>
    { c with edges := c.edges ++ [{ item := edgeItem d }] }

/-- Order of delivery: stamp, then input (R128). -/
def edgeLe (a b : Edge) : Bool := decide (a.stamp.toNat < b.stamp.toNat) || (a.stamp == b.stamp && decide (a.input ≤ b.input))

/-- Among equal stamps a unit takes its start before its stop (R132): the units see such edges in that order. -/
def deliverAll (e : Engine) (ds : List Edge) : Engine :=
  let e := ds.foldl recEdge e
  let e := (List.range 4).foldl (fun e k =>
    let key (d : Edge) : Bool := e.qualifies k d 22
    (ds.mergeSort fun a b => decide (a.stamp.toNat < b.stamp.toNat) || (a.stamp == b.stamp && (key a || !key b))).foldl
      (fun e d => e.unitEdge d k) e) e
  ds.foldl (fun e d => if d.lost then e else e.setTin d.input fun t => { t with stamp := d.stamp, stampLost := d.flag }) e

/-- The captures of a cycle. -/
def tinEdges (e : Engine) (caps : List TinCap) : Engine :=
  let r := caps.foldl (fun (a : Engine × List Edge) c =>
    match a.1.tinCross c with
    | (e, some d) => (e, a.2 ++ [d])
    | (e, none) => (e, a.2)) (e, [])
  r.1.deliverAll (r.2.mergeSort edgeLe)

/-- The window of unit k is met by an interval (R135). -/
def windowMet (e : Engine) (k v : Nat) : Bool :=
  let sc := if e.rb (win R.TDC_D_CFG k) 29 then 256 else 1
  let lo := (e.rd (win R.TDC_D_WMIN k)).toNat * sc
  let hi := (e.rd (win R.TDC_D_WMAX k)).toNat * sc
  if e.rb (win R.TDC_D_CFG k) 30 then decide (v < lo) || decide (hi < v) else decide (lo ≤ v) && decide (v ≤ hi)

/-- The result of an interval or timeout at s + 3 (R135, R136): statistics, and TWk where the window is met. -/
def unitResult (e : Engine) (r : DiffRes) : Engine :=
  let e := e.setUnit r.unit fun u => { u with run := match r.ival with
    | some v => { u.run with cnt := u.run.cnt + 1, min := min u.run.min v, max := max u.run.max v, sum := u.run.sum + v }
    | none => { u.run with tmo := u.run.tmo + 1 } }
  let met := match r.ival with
    | some v => e.windowMet r.unit v
    | none => e.rb (win R.TDC_D_CFG r.unit) 30
  if !met then e
  else
    let e := if e.tdc.badCyc = some r.due then e
      else e.setSeen r.due fun s => { s with tw := s.tw ||| BitVec.ofNat 4 (2 ^ r.unit) }
    let e := e.istat 0x14 (2 ^ (4 + r.unit))
    let e := e.pushIf (!(e.unit r.unit).winTide && e.rb R.TDC_EVT (16 + r.unit)) 0x4 0x03 (e.rf R.TDC_EVT 14 2) r.unit
    e.setUnit r.unit fun u => { u with winTide := true }

/-- Results whose cycle has come. -/
def twSettle (e : Engine) : Engine :=
  let now := e.tdc.res.filter fun r => r.due ≤ e.time.now
  now.foldl unitResult { e with tdc.res := e.tdc.res.filter fun r => e.time.now < r.due }

/-- The held start of a unit has been held for TDC_D_TMO cu (R133). -/
def timedOut (e : Engine) (k : Nat) : Bool :=
  match (e.unit k).start with
  | some s =>
    let d := (e.time.tb - coarseOf s).toNat
    decide ((e.rd (win R.TDC_D_TMO k)).toNat ≤ d) && decide (d < 2 ^ 55)
  | none => false

/-- A timeout (R133, R134). -/
def unitTimeout (e : Engine) (k : Nat) : Engine :=
  let lost := (e.unit k).lost
  let e := e.setUnit k fun u => { u with start := none, lost := false }
  let e := if e.rb R.TDC_CTL (4 + k) then
      e.inCyc 4 e.time.now fun c => { c with diffs := c.diffs ++ diffItems k true lost 0 } else e
  let r : DiffRes := { due := e.time.now + 3, unit := k, ival := none }
  let e := { e with tdc.res := e.tdc.res ++ [r] }
  (e.istat 0x14 2).pushIf (e.rb R.TDC_EVT 4) 0x4 0x02 3 k

/-- A termination trips (R125). -/
def termTrip (e : Engine) (i : Nat) : Engine :=
  (((e.setTin i fun t => { t with trip := true }).estat 0x14 16).istat 0x14 1024).push 0x4 0x05 0 i

/-- Discards every held start (R137). -/
def dropStarts (e : Engine) : Engine :=
  { e with tdc.units := e.tdc.units.map fun u => { u with start := none, lost := false } }

/-! ### Tide work (R127, R129, R136) -/

/-- Snapshot of the units' totals. -/
def tdcSnap (e : Engine) : Engine :=
  { e with tdc.units := e.tdc.units.map fun u => { u with snap := u.run, run := {}, winTide := false } }

/-- TDC_LOST_EDGE for the inputs that lost an edge in the tide that ended. -/
def tdcLost (e : Engine) : Engine :=
  (List.range 4).foldl (fun e i =>
    if (e.tin i).lostTide then
      (e.setTin i fun t => { t with lostTide := false }).pushIf (e.rb R.TDC_EVT 8) 0x4 0x01 2 i
    else e) e

/-- Hits of one input added to a histogram, up to 2^N in all. -/
def foldHits (n : Nat) (h : List Nat) (i : Nat) (hits : List CalHit) : List Nat :=
  hits.foldl (fun h c => if c.input.val = i then upd h c.bin.val fun x => x + min c.count (2 ^ n - h.sum) else h) h

/-- A table is accepted: no bin is empty, none holds more than four times its share (R129). -/
def tableOk (n : Nat) (h : List Nat) : Bool := h.all fun x => 0 < x && x ≤ 4 * 2 ^ n / 256

/-- The build of an input's table at a boundary. -/
def buildTable (e : Engine) (i n : Nat) : Engine :=
  let h := e.tdc.hist.getD i []
  let bits := BitVec.ofNat 4 (2 ^ i)
  let e := { e with tdc.hist := upd e.tdc.hist i fun _ => List.replicate 256 0 }
  if tableOk n h then
    { e.istat 0x14 256 with tdc := { e.tdc with
        table := upd e.tdc.table i fun _ => some h, depth := upd e.tdc.depth i fun _ => n
        valid := e.tdc.valid ||| bits, rej := e.tdc.rej &&& ~~~bits, builds := stick 16 (e.tdc.builds + 1) } }
  else
    { ((((e.estat 0x14 32).istat 0x14 512).count R.TDCCAL_REJ_CNT).push 0x4 0x04 1 i) with tdc.rej := e.tdc.rej ||| bits }

/-- Adds hits to the histograms. -/
def foldAll (e : Engine) (hits : List CalHit) : Engine :=
  let n := e.rf R.TDCCAL_CTL 16 5
  { e with tdc.hist := e.tdc.hist.zipIdx.map fun p => foldHits n p.1 p.2 hits }

/-- The tide's hits are folded into the histograms (R129, R130), or wait for Hinge-C (R31). -/
def calFold (e : Engine) (hits : List CalHit) : Engine :=
  if e.rb R.TDCCAL_CTL 0 && e.isOn 5 && e.isOn 6 then
    if e.hinge.c.st = .retrain ∨ e.hinge.c.st = .fault then { e with tdc.fold := some hits }
    else
      let n := e.rf R.TDCCAL_CTL 16 5
      (List.range 4).foldl (fun e i => if 2 ^ n ≤ (e.tdc.hist.getD i []).sum then e.buildTable i n else e) (e.foldAll hits)
  else e

/-- Hinge-C has retrained: the fold that waited is made. -/
def foldLate (e : Engine) : Engine :=
  match e.tdc.fold with
  | some hits => { e.foldAll hits with tdc.fold := none }
  | none => e

/-- A Cliff reset or a hibernate exit: uniform tables (R130). -/
def tablesReset (e : Engine) : Engine :=
  { e with tdc := { e.tdc with table := List.replicate 4 none, hist := List.replicate 4 (List.replicate 256 0), fold := none,
                               depth := List.replicate 4 20, valid := 0#4, rej := 0#4, builds := 0 } }

end Engine

/-! ### The commands -/

/-- TIN_EDGE (R124 to R128, R132). -/
def execTinEdge (caps : List TinCap) (s : State) : Out := done s fun e => e.tinEdges caps

/-- TDC_TIMEOUT (R133). The held start times out whatever the power state of the TDC is: R137 discards starts at commits
and where the mode leaves the timing modes, and the spec gives power-down no effect on them (DESIGN CHOICE, log entry
49). -/
def execTdcTimeout (k : Fin 4) (s : State) : Out := done s fun e => if e.timedOut k then e.unitTimeout k else e

/-- TDC_TERM_TRIP (R125): 16 cu beyond 3.0 V on an engaged termination. -/
def execTdcTermTrip (i : Fin 4) (nv : Int) (cycles : Nat) (s : State) : Out :=
  done s fun e =>
    if e.rb (R.TDC_TIN0 + 4 * i) 27 && !(e.tin i).trip && e.pwr.enAna && e.sys.phase == .run && 16 ≤ cycles && (nv < -3000000000 || 3000000000 < nv)
    then e.termTrip i else e

end Sys2Proof.Machine
end

