-- ==== Sys2Proof/Machine/Records.lean ====
section
/-! DEFINITION. The formatter and the compressor's input: how the cycles of a stream become items and blocks (R171 to R188,
R210 to R214), and the sample frames that feed them (R331 to R333). -/

namespace Sys2Proof.Machine

/-! ### The items of one cycle -/

/-- SAMPLE items in slot order with their DELTA items, from a next slot on; answers the items and the slot after. -/
def placeSamples (next : Nat) : List (Nat × Item) → List Item × Nat
  | [] => ([], next)
  | (slot, i) :: t =>
    let r := placeSamples (slot + 1) t
    (deltaItems (slot - next) ++ i :: r.1, r.2)

/-- Groups of five items: a MARK.DIFF and its EXT items. -/
def fives : List Item → List (List Item)
  | a :: b :: c :: d :: e :: t => [a, b, c, d, e] :: fives t
  | _ => []

/-- MARK.DIFF groups in ascending unit order. -/
def diffOrder (l : List Item) : List Item :=
  ((fives l).mergeSort fun a b => (a.headD 0#16).toNat / 256 % 4 ≤ (b.headD 0#16).toNat / 256 % 4).flatten

/-- A mark of the front end that a damaged span loses: RANGE or AMBIG (R90, R332). -/
def vectorMark (i : Item) : Bool := i.toNat / 1024 % 16 == 5 || i.toNat / 1024 % 16 == 6

/-- The marks after a cycle's SAMPLE items, in the order of R174; those of timeouts apart. -/
def tailMarks (c : CycAcc) (lane : Bool) : List Item :=
  let fe := if lane && (c.integ.isSome || !c.got) then c.fe.filter fun m => !vectorMark m.item else c.fe
  (match c.integ with
    | some n => [markItem 4 (min n 1023)]
    | none => []) ++ (fe.mergeSort fun a b => a.key ≤ b.key).map (·.item) ++ c.trig.toList ++ c.levels ++ c.users
    ++ c.tide.toList ++ (match c.stop with
      | some k => [markItem 8 k]
      | none => [])

/-- What formatting a cycle yields: its items, the slot after its last SAMPLE, and the lead items of a block that it
opens. -/
structure Formed where
  items : List Item
  next  : Nat
  lead  : List Item := []
  deriving DecidableEq, Repr

/-- MARK.ANCHOR with its EXT items (R181). -/
def anchorItems (a : Option Nat) (tbv : Time) : List Item :=
  match a with
  | some x => markItem 0 x :: ext56 tbv.toNat
  | none => []

/-- A lane cycle (R173, R174, R176). -/
def formLane (mode spc : Nat) (st : Stream) (c : CycAcc) (a : Option Nat) : Formed :=
  let tail := tailMarks c true
  let slot0 := spc * c.n
  let kept := (c.words.zipIdx).filter fun p =>
    let prev := if p.2 = 0 then st.lastWord else c.words[p.2 - 1]?
    mode == 0 || (mode == 1 && prev != some p.1) || (mode == 2 && c.qOn) || (a.isSome && p.2 == 0)
      || (!tail.isEmpty && p.2 + 1 == c.words.length)
  let s := placeSamples (if a.isSome then slot0 else st.next) (kept.map fun p => (slot0 + p.2, p.1.setWidth 16))
  { items := anchorItems a c.tbv ++ s.1 ++ tail, next := s.2, lead := s.1 }

/-- The same bit of each edge but the first (R179, R180). -/
def sameBits (l : List EdgeItem) : List EdgeItem :=
  l.zipIdx.map fun p => if p.2 = 0 then p.1 else { p.1 with item := p.1.item ||| 2#16 }

/-- A cycle of stream 4 (R174, R180). -/
def formTiming (mode : Nat) (st : Stream) (c : CycAcc) (a : Option Nat) : Formed :=
  let tail := diffOrder c.diffs ++ tailMarks c false
  let marked := a.isSome || !tail.isEmpty || c.edges.any fun x => !x.diffs.isEmpty
  let edges := if mode = 0 ∨ c.qOn ∨ marked then sameBits c.edges else []
  let next := if a.isSome then c.n else st.next
  if edges.isEmpty then
    if marked then
      let s := deltaItems (c.n - next) ++ [1#16]
      { items := anchorItems a c.tbv ++ s ++ tail, next := c.n + 1, lead := s }
    else { items := [], next := st.next }
  else
    let gap := deltaItems (c.n - next)
    { items := anchorItems a c.tbv ++ gap ++ (edges.flatMap fun x => x.item :: x.diffs) ++ tail, next := c.n + 1
      lead := gap ++ (edges.map (·.item)).take (4 - gap.length) }

namespace Engine

/-- Slots per cycle of a stream (R172). -/
def spc (e : Engine) (s : Nat) : Nat := if s = 0 ∧ (e.lane 0).fast then 4 else 1

/-- The items of cycle c of stream s, with an ANCHOR in front where one is named. -/
def form (e : Engine) (s : Nat) (c : CycAcc) (a : Option Nat) : Formed :=
  let st := e.stream s
  if s = 4 then formTiming st.mode st c a else formLane st.mode (e.spc s) st c a

/-! ### Closing (R213, R214, R225, R232) -/

/-- A live block closes (R226, R232): its reservation shrinks to its words. Written STORED, it is rewritten from its first
payload word, and its reader starts afresh. -/
def closeLive (e : Engine) (b : Block) : Engine :=
  let hit (x : SBlk) : Bool := x.blk.live && !x.closed && x.blk.stream == b.stream
  let w := blkWords b
  let shut (x : SBlk) : SBlk :=
    { x with blk := { b with afterGap := x.blk.afterGap || b.afterGap, damaged := x.blk.damaged }
             closed := true, closeAt := e.time.now, resv := w }
  let again (x : SBlk) : SBlk :=
    if b.stored && !x.dropped then
      { x with deliv := 0, took := x.deliv, restart := decide (0 < x.deliv), wrote := 0, flips := [], bad := [] }
    else x
  let wp := match e.stg.blks.find? fun x => hit x && x.bank == e.stg.fill with
    | some x => x.start + w
    | none => e.stg.wp
  { e with stg := { e.stg with blks := e.stg.blks.map fun x => if hit x then again (shut x) else x, wp := wp } }

/-- Closes the open block of a stream; leave: the stream leaves the compressor input. The counts of REC and CMP are those
of runs, so what MEASURE formats is in none of them (R222). -/
def closeOpen (e : Engine) (s : Nat) (stop : Option Nat) (leave : Bool := false) : Engine :=
  let st := e.stream s
  match st.blk with
  | none => e
  | some b =>
    let blk := { closeBlk s st.mode (e.recb.raw.testBit s) stop.isSome (stop == some 2) b with num := st.blocks, run := e.recb.runNo, last := leave }
    let e := e.setStream s fun st =>
      if e.recb.measLive then { st with blk := none }
      else { st with blk := none, blocks := st.blocks + 1, bytes := st.bytes + 16 + blk.body.length
                     storedN := st.storedN + (if blk.stored then 1 else 0) }
    if b.gone then e
    else if b.arrived then e.closeLive blk
    else { e with recb.waiting := e.recb.waiting ++ [blk] }

/-! ### Formatting (R175, R181, R182, R211, R213) -/

/-- What a cycle cannot take goes to the next one. -/
def carryOn (e : Engine) (s : Nat) (c : CycAcc) (f : CycAcc → CycAcc) : Engine :=
  e.setStream s fun st => { st with cycs := accUpd st.cycs (c.n + 1) (c.tbv + 1#56) f }

/-- Marks of Headland that fall in a cycle without samples move to the next cycle, after MARK.INTEGRITY. -/
def carryMarks (e : Engine) (s : Nat) (c : CycAcc) : Engine :=
  e.carryOn s c fun d => { d with
    anchors := c.anchors ++ d.anchors, fe := (c.fe.filter fun m => !vectorMark m.item) ++ d.fe
    trig := c.trig.orElse fun _ => d.trig, levels := c.levels ++ d.levels, users := c.users ++ d.users
    tide := c.tide.orElse fun _ => d.tide }

/-- A cycle that the compressor cannot take (R211). -/
def discard (e : Engine) (s : Nat) : Engine :=
  let first := !(e.stream s).ovf
  let e := e.closeOpen s none
  let e := e.setStream s fun st => { st with
    ovf := true, dropped := st.dropped || !e.recb.measLive, first := true, gapNext := true }
  let e := ((e.count R.CMP_DROP_CNT).estat 0x1D 1).istat 0x1D (2 ^ s)
  e.pushIf (first && e.recb.ovfEv) 0x8 0x01 1 s

/-- The stream takes the items of a cycle. What MEASURE formats is live whatever STG_ROUTE holds yet (R188). -/
def accept (e : Engine) (s : Nat) (c : CycAcc) (f : Formed) (opens : Bool) : Engine :=
  let st := e.stream s
  let live := e.recb.measLive || (e.stg.routeLive && e.stg.routeStream == s)
  let b : OpenBlk := match st.blk, opens with
    | some b, false => { b with items := b.items ++ f.items, trig := b.trig || c.trig.isSome }
    | _, _ => { items := f.items, firstT := c.tbv, live := live, runStart := !st.opened, trig := c.trig.isSome
                afterGap := st.gapNext, lead := f.lead }
  let fill := st.fifo + f.items.length
  let e := e.setStream s fun st => { st with
    blk := some b, next := f.next, lastWord := (c.words.getLast?).orElse fun _ => st.lastWord, fifo := fill
    items := if e.recb.measLive then st.items else st.items + f.items.length, first := false, opened := true, ovf := false
    gapNext := if opens then false else st.gapNext }
  let e := if e.recb.measLive then e else { e with recb.peak := max e.recb.peak fill }
  match c.stop with
  | some k => (e.setStream s fun st => { st with stopTb := c.tbv, stopCause := some k }).closeOpen s (some k) true
  | none => e

/-- Formats cycle c of stream s and hands it to the compressor. A cycle before which the block closes opens the next one
whatever it holds, with a forced SAMPLE (R213: "Cycle c … opens the next block"; log entry 63). -/
def format (e : Engine) (s : Nat) (c : CycAcc) : Engine :=
  let e := if c.close then (e.closeOpen s none).setStream s fun st => { st with first := true } else e
  let usable := c.stop.isSome || (if s = 4 then !c.damaged else c.got)
  if !usable then e.carryMarks s c
  else
    let c := if s < 4 ∧ !c.got then
        { c with words := (List.range (e.spc s)).map fun _ => ((e.stream s).lastWord.getD 0#14), integ := some (e.lane s).damaged }
      else if s = 4 ∧ c.damaged then { c with edges := [], diffs := [] } else c
    let st := e.stream s
    let owed := e.time.owed.getLsbD s
    let due := (if owed then [3] else []) ++ c.anchors
    let f0 := e.form s c due.head?
    if f0.items.isEmpty && !st.first then
      e.setStream s fun st => { st with lastWord := (c.words.getLast?).orElse fun _ => st.lastWord }
    else if st.ovf && 512 < st.fifo then e.discard s
    else
      let fits : Bool := match st.blk with
        | some b => !st.first && decide (b.items.length + f0.items.length ≤ 256 * (e.recb.limit + 1))
        | none => false
      let e := if fits then e else e.closeOpen s none
      let f := if fits then f0 else e.form s c (some 0)
      if 1024 < st.fifo + f.items.length then e.discard s
      else
        let e := e.accept s c f (!fits)
        let left := if fits then c.anchors.drop (if owed then 0 else 1) else c.anchors
        let e := if fits ∧ owed then { e with time.owed := e.time.owed &&& ~~~BitVec.ofNat 5 (2 ^ s) } else e
        let wait := !left.isEmpty || (!fits && owed)
        if wait && c.stop.isNone then e.carryOn s c fun d => { d with anchors := left ++ d.anchors } else e

/-- Formats the cycles of stream s that come before cycle n, at most fuel of them. -/
def formatUpto (e : Engine) (s n : Nat) : Nat → Engine
  | 0 => e
  | fuel + 1 =>
    match (e.stream s).cycs with
    | c :: t => if c.n < n then
        ((e.setStream s fun st => { st with cycs := t }).format s c).formatUpto s n fuel
      else e
    | [] => e

/-- Formats every stream up to cycle n, that cycle apart. -/
def formatAll (e : Engine) (n : Nat) : Engine :=
  (List.range 5).foldl (fun e s => e.formatUpto s n ((e.stream s).cycs.length + 64)) e

/-! ### The FIFO service (R210) -/

/-- One shared slot goes to the next stream that waits and has been served less than 4 items in this cu. -/
def shared (e : Engine) (used : List Nat) : Engine × List Nat :=
  match (List.range 5).find? fun i => let s := (e.recb.robin + i) % 5
      decide (0 < (e.stream s).fifo) && decide (used.getD s 0 < 4) with
  | some i =>
    let s := (e.recb.robin + i) % 5
    ({ e.setStream s fun st => { st with fifo := st.fifo - 1 } with recb.robin := (s + 1) % 5 }, upd used s (· + 1))
  | none => (e, used)

/-- One cu of the compressor's service. -/
def serve (e : Engine) : Engine :=
  let per (s : Nat) : Nat :=
    if s = 4 || !e.recb.running || !((e.stream s).on || !(e.stream s).cycs.isEmpty) then 0
    else min (e.stream s).fifo (if (e.lane 0).fast then (if s = 0 then 4 else 0) else 1)
  let used := (List.range 5).map per
  let e := (List.range 5).foldl (fun e s => e.setStream s fun st => { st with fifo := st.fifo - used.getD s 0 }) e
  ((List.range (5 - used.sum)).foldl (fun (a : Engine × List Nat) _ => a.1.shared a.2) (e, used)).1

/-- The service of a cycle, unless the end of a run has taken it before. -/
def serveStep (e : Engine) : Engine :=
  if e.recb.ahead = 0 then e.serve else { e with recb.ahead := e.recb.ahead - 1 }

/-- The cycles from c to n of every stream are formatted at once, with the service that each of them would meet (R210). -/
def drain (e : Engine) (c n : Nat) : Nat → Engine
  | 0 => e
  | k + 1 =>
    if n < c then e
    else
      let e := e.serve
      ({ e with recb.ahead := e.recb.ahead + 1 }.formatAll (c + 1)).drain (c + 1) n k

/-! ### Streams at the edges of runs (R177, R178, R186, R188, R214) -/

/-- Streams that would record under the committed set-up (R178). -/
def wouldRec (e : Engine) (s : Nat) : Bool := e.rb R.REC_CTL s && (s == 4 || e.laneWanted s)

/-- A stream starts: in a run, or stream 4 in MEASURE. Its FIFO keeps what it holds, and an overflow that has not ended
goes on (R211). -/
def streamStart (e : Engine) (s : Nat) (on run : Bool) : Engine :=
  { e with tdc.damaged := if s = 4 then 0 else e.tdc.damaged }.setStream s fun st =>
    if run then { on := on, rec' := on, mode := e.rf R.REC_MODE (2 * s) 2, fifo := st.fifo, ovf := st.ovf, gapNext := st.gapNext }
    else { st with on := on, mode := e.rf R.REC_MODE (2 * s) 2, cycs := [], lastWord := none, blk := none, first := true
                   opened := false }

/-- The run parameters of REC and CMP (R177, R214). -/
def takeParams (e : Engine) : Engine :=
  { e with recb := { e.recb with
      runMode := e.rf R.REC_MODE 0 10, tideMark := e.rf R.REC_CTL 16 5, limit := e.rf R.CMP_CTL 8 4
      raw := e.rf R.CMP_CTL 16 5, tideClose := e.rf R.CMP_CTL 24 5, ovfEv := e.rb R.CMP_CTL 0 } }

/-- REC_CTL.meas_live begins to act, or ceases to (R188, R213). -/
def measLive (e : Engine) : Engine :=
  let want := e.rb R.REC_CTL 8 && e.sys.mode == .measure && e.sys.phase == .run
  if want && !e.recb.measLive then
    let e := (((e.demand 9).demand 10).demand 12)
    let e := { e with recb := { e.recb with limit := e.rf R.CMP_CTL 8 4, raw := e.rf R.CMP_CTL 16 5
                                            tideClose := e.rf R.CMP_CTL 24 5, ovfEv := e.rb R.CMP_CTL 0 } }
    let e := { e.streamStart 4 true false with recb.measLive := true }
    e.inCyc 4 e.time.now fun c => c
  else if !want && e.recb.measLive then
    let e := (e.formatUpto 4 e.time.now 64).closeOpen 4 none true
    { (e.setStream 4 fun st => { st with on := false, cycs := [] }) with recb.measLive := false }
  else e

/-- A recording stream stops with cycle n, which holds MARK.STOP of a cause: what lies after n is dropped. The block closes
once the cycle has been formatted (R186). -/
def stopStream (e : Engine) (s n cause : Nat) : Engine :=
  if !(e.stream s).on then e
  else
    let tbv := e.tbOf n
    e.setStream s fun st => { st with
      on := false, cycs := (accUpd st.cycs n tbv fun c => { c with stop := some cause }).filter fun c => c.n ≤ n }

/-! ### Sample frames (R331 to R333) -/

/-- A damaged frame of a stream is counted and reported (R332). -/
def damage (e : Engine) (s : Nat) (said : Bool) : Engine :=
  let e := ((e.count R.HINGE_C_SMP_CNT).estat 0x23 4).istat 0x23 16
  let e := e.wr R.HINGE_C_LAST (w32 (6 * 2 ^ 28 + s * 2 ^ 20 + e.time.tb.toNat % 2 ^ 20))
  let e := e.pushIf (!said && e.rb R.HINGE_CTL 0) 0xD 0x04 2 s
  e.inCyc s e.time.now fun c => { c with damaged := true }

/-- Whether a frame is intact, with the injection of kind 2 (R331, R334). Frames come in REPLAY too; none comes in a
retrain or in DIE_FAULT. -/
def frameOk (e : Engine) (s : Nat) (f : Frame) : Engine × Bool :=
  let there := f.arrived && e.hinge.c.st != .retrain && !linkDead e.hinge.c
  let r := if there && e.rf R.DIAG_INJ_SEL 8 3 == s then e.inject 2 else (e, false)
  (r.1, there && f.crcOk && f.cyc == e.time.tb.setWidth 4 && !r.2)

/-- The frame of a lane. -/
def laneFrame (e : Engine) (m : Nat) (f : Frame) (pins : List (List Int)) : Engine :=
  let l := e.lane m
  let r := e.laneStep m pins
  let k := r.1.frameOk m f
  let e := k.1.setBlk (1 + m) fun b => { b with worked := true }
  if k.2 then
    let e := e.setLane m fun l => { l with words := r.2, intactTo := e.time.now + 1, damaged := 0 }
    let e := e.inCyc m e.time.now fun c => { c with
      words := r.2, got := true, integ := if l.damaged = 0 then none else some l.damaged }
    (e.setSeen e.time.now fun s => { s with words := upd s.words m fun _ => r.2 }).vecs m
  else
    let e := (e.damage m l.dmgTide).setLane m fun l => { l with damaged := l.damaged + 1, dmgTide := true }
    e.setSeen e.time.now fun s => { s with
      words := upd s.words m fun _ => List.replicate l.words.length (l.words.getLastD 0#14)
      rg := s.rg ||| BitVec.ofNat 4 (at1 (l.rgVec != 0#14) m), am := s.am ||| BitVec.ofNat 4 (at1 (l.amVec != 0#14) m) }

/-- The frame of the timing stream. Damaged frames make a span while the stream records (R182, R332). -/
def timingFrame (e : Engine) (f : Frame) : Engine :=
  let k := e.frameOk 4 f
  let e : Engine := { k.1 with tdc.frameTo := e.time.now + 1 }
  if k.2 then
    let n := e.tdc.damaged
    let e := if n = 0 then e else e.inCyc 4 e.time.now fun c => { c with integ := some n }
    { e with tdc.damaged := 0 }
  else
    { e.damage 4 e.tdc.dmgTide with tdc := { e.tdc with
        damaged := if (e.stream 4).on then e.tdc.damaged + 1 else 0, dmgTide := true, badCyc := some e.time.now } }

/-- The lane samples in this cycle and its frame has not come (R93, R324). -/
def laneDue (e : Engine) (m : Nat) : Bool :=
  (e.lane m).running && decide (e.seq.arm ≤ e.time.now) && decide ((e.lane m).evalTo ≤ e.time.now)

/-- The timing stream has a frame in this cycle, while the TDC runs, and it has not come (R324). -/
def timingDue (e : Engine) : Bool :=
  e.isOn 5 && ((List.range 4).any fun i => e.tinRuns i) && decide (e.tdc.frameTo ≤ e.time.now)

/-- A frame of a source that samples in this cycle, once a cycle (R324). -/
def sampleFrame (e : Engine) (f : Frame) : Engine :=
  match f.body with
  | .lane m pins => if e.laneDue m then e.laneFrame m f pins else e
  | .timing => if e.timingDue then e.timingFrame f else e

/-- A frame that has not come by the end of its cycle is missing and counts as damaged (R331); the pins of its lane stood
as they were last seen. -/
def framesMissed (e : Engine) : Engine :=
  let miss (b : FrameBody) : Frame := { body := b, arrived := false, crcOk := false, cyc := 0#4 }
  let e := ([0, 1, 2, 3] : List (Fin 4)).foldl (fun e m =>
    if e.laneDue m then
      e.sampleFrame (miss (.lane m ((e.lane m).chans.map fun c => [(c.past.headD []).getLastD 0])))
    else e) e
  if e.timingDue then e.sampleFrame (miss .timing) else e

/-! ### MARK.USER (R184) -/

/-- A write of REC_USER: the marks stand in the next cycle, in port order. -/
def recUser (e : Engine) (p : Nat) (streams arg : Nat) : Engine :=
  let on := mapBits 5 fun s => streams.testBit s && (e.stream s).on
  if on = 0 then ((e.count R.REC_USER_DROP).estat 0x1C 1).push 0x6 0x03 3 streams
  else { e with cyc.users := e.cyc.users ++ [(p, on, arg)] }

/-- The marks of the last cycle's writes, as a cycle begins. -/
def placeUsers (e : Engine) : Engine :=
  (e.cyc.users.mergeSort fun a b => a.1 ≤ b.1).foldl (fun e u =>
    (List.range 5).foldl (fun e s =>
      if u.2.1.testBit s then e.inCyc s e.time.now fun c => { c with users := c.users ++ [markItem 10 u.2.2] } else e) e) e

end Engine

/-! ### The commands -/

/-- SAMPLE_FRAME (R331). -/
def execSampleFrame (f : Frame) (s : State) : Out := done s fun e => e.sampleFrame f

end Sys2Proof.Machine
end

