-- ==== Sys2Proof/Machine/Queues.lean ====
section
/-! DEFINITION. The staging queue (R223 to R236) and the event queue (R237 to R243): intake, banks, gap blocks, which word
is delivered next; pushes and pops. -/

namespace Sys2Proof.Machine

/-! ### Staging -/

/-- Words that a live block reserves under a run's limit (R226). -/
def liveReserve (limit : Nat) : Nat := (20 + 4 * ((17 * (256 * (limit + 1)) + 5 + 31) / 32) + 7) / 8

/-- The gap block of an episode (R234). -/
def gapBlock (stream num run mode : Nat) (t : Time) (lead : List Item) (live : Bool) (ep : Episode) : Block :=
  let items := markItem 0 0 :: ext56 t.toNat ++ lead.take 4 ++ [markItem 3 ep.c]
    ++ if 1024 ≤ ep.c ∨ ep.more then [extItem (at1 ep.more 13 + ep.c / 1024)] else []
  let pl := storedPayload items
  { stream := stream, count := items.length, plen := pl.length, firstT := t, body := pl ++ bytesOfWord (crc32 pl)
    stored := true, gap := true, num := num, run := run, mode := mode, lead := lead, live := live }

namespace Engine

/-- Highest STG_COUNT.words since the last read (R245). -/
def stgPeak (e : Engine) : Engine :=
  let n := e.stgWords
  e.hwUpd R.STG_PEAK fun w => w32 (max w.toNat n)

/-- D is empty (R227). -/
def dEmpty (e : Engine) : Bool := e.stg.blks.all fun b => b.bank == e.stg.fill || !undelivered b

/-- A block is being written into F (R228). -/
def stgWriting (e : Engine) : Bool :=
  decide (e.time.now < e.stg.busyTo) || e.stg.blks.any fun b =>
    b.blk.live && !b.marker && b.bank == e.stg.fill && (!b.closed || decide (b.wrote < blkWords b.blk))

/-- The banks swap: gap episodes end, the old D is released (R228, R233). -/
def bankSwap (e : Engine) : Engine :=
  let g := e.stg
  { e with stg := { g with
      fill := !g.fill, wp := 0, sealed := false, blks := g.blks.filter fun b => b.bank == g.fill
      gapped := g.gapped ||| BitVec.ofNat 5 (mapBits 5 fun s => (g.eps.getD s none).isSome)
      eps := List.replicate 5 none } }

/-- Injection of kinds 5 and 6 into words as they are written: the words of delivery positions lo to hi − 1 of a block of
w words (R334). -/
def injectWords (e : Engine) (w lo hi : Nat) : Engine × List (Nat × Ecc) :=
  if e.hinge.active && (e.hinge.kind == 5 || e.hinge.kind == 6) then
    (List.range (hi - lo)).foldl (fun (a : Engine × List (Nat × Ecc)) i =>
      let k := lo + i
      let off := if k + 2 < w then k + 2 else if k + 2 = w then 0 else 1
      let kind := a.1.hinge.kind
      match a.1.inject kind with
      | (e, true) => if kind = 5 ∨ kind = 6 then (e, a.2 ++ [(off, if kind = 5 then .single else .double)]) else (e, a.2)
      | (e, false) => (e, a.2)) (e, [])
  else (e, [])

/-- Places a block of r words at wp. The words of a live block are written as liveWords goes. -/
def stgPlace (e : Engine) (b : Block) (r : Nat) (isOpen : Bool) : Engine :=
  let g := e.stg
  let after := g.gapped.getLsbD b.stream
  let i := if b.live then (e, []) else e.injectWords r 0 r
  let sb : SBlk := { blk := { b with afterGap := b.afterGap || after }, bank := g.fill, start := g.wp, resv := r
                     arr := e.time.now, closed := !isOpen, closeAt := e.time.now, bad := i.2 }
  let e := { i.1 with stg := { g with
    blks := g.blks ++ [sb], wp := g.wp + r, gapped := g.gapped &&& ~~~BitVec.ofNat 5 (2 ^ b.stream)
    busyTo := if b.live then g.busyTo else e.time.now + (r + 1) / 2 } }
  e.stgPeak

/-- A block finds no room: it seals F and opens or advances a gap episode (R233, R234). -/
def stgDrop (e : Engine) (b : Block) : Engine :=
  let s := b.stream
  let e := (e.count R.STG_DROP_CNT).estat 0x20 2
  let old := e.stg.eps.getD s none
  let ep : Episode := match old with
    | some ep => if ep.c = 16383 then { ep with more := true } else { ep with c := ep.c + 1 }
    | none => { c := 1, more := false }
  let first := e.stg.blks.find? fun x => x.marker && x.bank == e.stg.fill && x.blk.stream == s
  let gb := match first with
    | some x => gapBlock s x.blk.num x.blk.run x.blk.mode x.blk.firstT x.blk.lead x.blk.live ep
    | none => gapBlock s b.num b.run b.mode b.firstT b.lead b.live ep
  let w := blkWords gb
  let i := e.injectWords w 0 w
  let sb : SBlk := { blk := gb, bank := e.stg.fill, start := 4066 + 6 * s, resv := w, arr := e.time.now
                     closeAt := e.time.now, marker := true, bad := i.2 }
  let kept := e.stg.blks.filter fun x => !(x.marker && x.bank == e.stg.fill && x.blk.stream == s)
  let e := { i.1 with stg := { i.1.stg with
    sealed := true, eps := upd e.stg.eps s fun _ => some ep, blks := kept ++ [sb] } }
  let e := if old.isSome then e
    else ((e.count R.STG_GAP_CNT).istat 0x20 1).pushIf (e.rb R.STG_CTL 16) 0x9 0x01 1 s
  e.stgPeak

/-- A stream whose live block has opened and has not been taken. -/
def liveOpening (e : Engine) : Option Nat :=
  (List.range 5).find? fun s => match (e.stream s).blk with
    | some b => b.live && !b.arrived && !b.gone
    | none => false

/-- What arrives next: a live block that has opened, else the first closed block, once no block is being written (R225).
Answers the block, its reservation and whether it is still open. -/
def arrival (e : Engine) : Option (Block × Nat × Bool) :=
  match e.liveOpening with
  | some s => match (e.stream s).blk with
    | some b => some ({ stream := s, count := 0, plen := 0, firstT := b.firstT, body := [], stored := false
                        num := (e.stream s).blocks, run := e.recb.runNo, mode := (e.stream s).mode, lead := b.lead, live := true, afterGap := b.afterGap },
                      liveReserve e.recb.limit, true)
    | none => none
  | none =>
    if e.stgWriting then none
    else match e.recb.waiting with
      | b :: _ => some (b, blkWords b, false)
      | [] => none

/-- The block that arrives has been taken or dropped. -/
def arrived (e : Engine) (b : Block) (isOpen placed : Bool) : Engine :=
  if isOpen then e.setStream b.stream fun st => { st with
    blk := st.blk.map fun x => { x with arrived := placed, gone := !placed } }
  else { e with recb.waiting := e.recb.waiting.tail }

/-- A block arrives (R227). -/
def blockArrival (e : Engine) : Engine :=
  match e.arrival with
  | none => e
  | some (b, r, isOpen) =>
    let e := e.setBlk 12 fun b => { b with worked := true }
    if !e.stg.sealed && decide (e.stg.wp + r ≤ 4066) then (e.stgPlace b r isOpen).arrived b isOpen true
    else if e.dEmpty && !e.stgWriting then (e.bankSwap.stgPlace b r isOpen).arrived b isOpen true
    else (e.stgDrop b).arrived b isOpen false

/-- A live block arrives in the cycle in which it opens (R225). -/
def liveArrival (e : Engine) : Engine :=
  if e.liveOpening.isNone then e else if e.isOn 12 then e.blockArrival else e.demand 12

/-! ### Delivery (R229) -/

/-- Order of delivery: the blocks of D, its marker slots, the blocks of F. -/
def deliveryOrder (e : Engine) : List Nat :=
  let l := e.stg.blks.zipIdx
  let d := (l.filter fun p => p.1.bank != e.stg.fill && !p.1.marker).map (·.2)
  let m := ((l.filter fun p => p.1.bank != e.stg.fill && p.1.marker).mergeSort fun a b => a.1.blk.stream ≤ b.1.blk.stream).map (·.2)
  let f := (l.filter fun p => p.1.bank == e.stg.fill && !p.1.marker).map (·.2)
  d ++ m ++ f

/-- The block whose word is next. -/
def readPos (e : Engine) : Option Nat :=
  e.deliveryOrder.find? fun i => match e.stg.blks[i]? with
    | some b => undelivered b
    | none => false

/-- The next word of a block is available in this cycle (R229). -/
def wordReady (e : Engine) (b : SBlk) : Bool :=
  let thr := e.rf R.STG_CTL 0 11
  if !b.closed then thr != 0 && decide (thr ≤ b.wrote) && decide (b.deliv < b.wrote)
  else if b.marker then decide (b.closeAt < e.time.now)
  else if b.blk.live then
    let w := blkWords b.blk
    decide (w ≤ b.wrote) || (thr != 0 && decide (thr ≤ min b.wrote (w - 3)) && decide (b.deliv < b.wrote)
      && decide (b.deliv + 2 < w))
  else
    let w := blkWords b.blk
    let before := 2 * (e.time.now - b.arr)
    decide (w ≤ before) || (thr != 0 && decide (thr ≤ w - 3) && decide (thr ≤ min before (w - 3)) && decide (b.deliv < before)
      && decide (b.deliv + 2 < w))

/-- Offset in the block of the word at a delivery position: the header comes last. -/
def wordOffset (b : SBlk) : Nat :=
  if !b.closed then b.deliv + 2
  else
    let w := blkWords b.blk
    if b.deliv + 2 < w then b.deliv + 2 else if b.deliv + 2 = w then 0 else 1

/-- Flips bits of a word of a block's payload or CRC. -/
def flipBody (body : List Byte) (f : Nat × BitVec 64) : List Byte :=
  body.zipIdx.map fun p =>
    if 8 * (f.1 - 2) ≤ p.2 ∧ p.2 < 8 * (f.1 - 2) + 8 then p.1 ^^^ f.2.extractLsb' (8 * (p.2 - 8 * (f.1 - 2))) 8 else p.1

/-- Updates block i of the staging queue. -/
def setSBlk (e : Engine) (i : Nat) (f : SBlk → SBlk) : Engine := { e with stg.blks := upd e.stg.blks i f }

/-- The check of a word as it is delivered (R230, R235): u is a disturbance of the word itself. -/
def stgCheck (e : Engine) (i : Nat) (b : SBlk) (u : Option Upset) : Engine :=
  let off := wordOffset b
  let inj := (b.bad.find? fun p => p.1 == off).map (·.2)
  let ecc := match u, inj with
    | some _, some Ecc.double => some Ecc.double
    | some u, _ => some u.ecc
    | none, x => x
  match ecc with
  | none => e
  | some Ecc.single => (e.count R.STG_CE_CNT).istat 0x20 2
  | some Ecc.double =>
    let e := (((e.count R.STG_UE_CNT).estat 0x20 1).istat 0x20 4).pushIf (e.rb R.STG_CTL 17) 0x9 0x02 0 b.blk.stream
    e.setSBlk i fun x => { x with
      blk := { x.blk with damaged := true }
      flips := match u with
        | some u => if 2 ≤ off then (off, u.flip) :: x.flips else x.flips
        | none => x.flips }

/-- The payload words of a live block that may be written: those that later items cannot change (R225), and all its words
once it has closed. -/
def liveTotal (e : Engine) (b : SBlk) : Nat :=
  if b.closed then blkWords b.blk
  else match (e.stream b.blk.stream).blk with
    | some x => finalWords x.items
    | none => 0

/-- The words of live blocks that a cycle writes, at most two in all, the older block first, and none while a block for
Shoal is being written (R223, R225). A restart that no cut has undone is reported (R231, R232). -/
def liveWords (e : Engine) : Engine :=
  let e := if e.stg.blks.any fun b => b.restart && b.closeAt == e.time.now then e.istat 0x20 8 else e
  if e.time.now < e.stg.busyTo then e
  else
    (e.stg.blks.zipIdx.foldl (fun (a : Engine × Nat) p =>
      let b := p.1
      if b.blk.live && !b.marker then
        let n := min a.2 (a.1.liveTotal b - b.wrote)
        let r := a.1.injectWords (if b.closed then blkWords b.blk else 100000) b.wrote (b.wrote + n)
        (r.1.setSBlk p.2 fun x => { x with wrote := x.wrote + n, bad := x.bad ++ r.2 }, a.2 - n)
      else a) (e, 2)).1

end Engine

/-! ### The event queue -/

/-- Order of the pushes of one cycle (R239). Pushes that their chapter orders keep the order in which they arose, after
the others of their source. -/
def eventLe (a b : Event) : Bool :=
  decide (a.source < b.source) || (a.source == b.source &&
    if a.kept then b.kept else b.kept || decide (a.code * 4096 + a.arg ≤ b.code * 4096 + b.arg))

/-- The entry of an event (R237). -/
def entryOf (v : Event) (badLo : Bool) : Entry :=
  { bits := BitVec.ofNat 64 (v.source * 2 ^ 60 + v.prio * 2 ^ 58 + v.code * 2 ^ 52 + v.arg * 2 ^ 40 + v.time)
    cls := v.prio, badHi := false, badLo := badLo }

/-- Entries that the event queue holds at most (R237). -/
def evqSize : Nat := 256

namespace State

/-- Puts an entry at the end of the queue. -/
def evqAdd (s : State) (x : Entry) : State := { s with evq.entries := s.evq.entries ++ [x] }

/-- EVQ_OVERRUN is placed where pushes have been discarded and there is room (R240). -/
def evqOverrun (s : State) : State :=
  if s.evq.lostSince ≠ 0 ∧ s.evq.entries.length < evqSize then
    let v : Event := ⟨0x9, 0x03, 0, min s.evq.lostSince 0xFFF, s.eng.time.tb.toNat % 2 ^ 40, false⟩
    let i := s.eng.inject 9
    { ({ s with eng := i.1 }.evqAdd (entryOf v i.2)) with evq.lostSince := 0 }
  else s

/-- A push that finds room enters; another is discarded (R240). -/
def evqPush (s : State) (v : Event) : State :=
  if s.evq.entries.length < evqSize then
    let i := s.eng.inject 9
    { s with eng := i.1 }.evqAdd (entryOf v i.2)
  else
    { s with eng := ((s.eng.count R.EVQ_LOST).hwSet R.EVQ_STAT (w32 (2 ^ 30)) |>.estat 0x21 1).istat 0x21 1
             evq.lostSince := s.evq.lostSince + 1 }

/-- The pushes of the cycle that ends (R239, R243). -/
def evqMerge (s : State) : State :=
  let vs := s.eng.arriving.mergeSort eventLe
  let s := { s with eng := { s.eng with arriving := [] } }
  vs.foldl evqPush (if s.evq.freed = 0 && s.evq.entries.length = evqSize then s else s.evqOverrun)

/-- The index of the entry that comes first in read order among those of the cycle's start (R238). -/
def evqFirst (q : EvQueue) : Option Nat :=
  let v := (q.entries.take q.visible).zipIdx
  (List.range 4).findSome? fun c => (v.find? fun p => p.1.cls == c).map (·.2)

/-- An odd number of bits of a word is set. -/
def oddBits (w : Word) : Bool := ((List.range 32).filter fun i => w.getLsbD i).length % 2 == 1

/-- A pop by a port (R238, R241): flips are the bits of the entry that have been disturbed since its push. An odd number in
a half shows in its parity; either way the entry is delivered as stored. -/
def evqPop (s : State) (p : Nat) (flips : BitVec 64) : State × Word :=
  match evqFirst s.evq with
  | none => ({ s with eng := s.eng.setLatch p fun l => { l with pop := { hi := 0#32, tag := 0#32, fresh := true } } }, 0#32)
  | some i =>
    let x := s.evq.entries.getD i { bits := 0#64, cls := 0, badHi := false, badLo := false }
    let v := x.bits ^^^ flips
    let bh := x.badHi != oddBits (flips.extractLsb' 32 32)
    let bl := x.badLo != oddBits (flips.setWidth 32)
    let e := s.eng
    let e := if bh || bl then ((e.hwSet R.EVQ_STAT (w32 (2 ^ 29))).estat 0x21 2).istat 0x21 2 else e
    let tag := w32 (2 ^ 31 + at1 (bh || bl) 30 + at1 bh 29 + at1 bl 28)
    let e := e.setLatch p fun l => { l with pop := { hi := v.extractLsb' 32 32, tag := tag, fresh := true } }
    ({ s with eng := e
              evq := { s.evq with entries := s.evq.entries.eraseIdx i, visible := s.evq.visible - 1, freed := s.evq.freed + 1 } },
     v.setWidth 32)

/-- The end of a cycle: the pushes enter, EVQ_POP_TAG.left of the cycle's pops is filled in, the next cycle's occupancy
is what the queue now holds. -/
def evqEnd (s : State) : State :=
  let s := s.evqMerge
  let n := s.evq.entries.length
  { s with
    eng := { s.eng with latch := s.eng.latch.map fun l =>
      if l.pop.fresh then { l with pop := { l.pop with tag := l.pop.tag ||| w32 n, fresh := false } } else l }
    evq := { s.evq with visible := n, freed := 0 } }

end State

/-! ### The commands -/

/-- BLOCK_ARRIVAL (R225, R227). -/
def execBlockArrival (s : State) : Out :=
  done s fun e => if e.isOn 12 then e.blockArrival else if e.arrival.isSome then e.demand 12 else e

/-- BANK_SWAP (R228). -/
def execBankSwap (s : State) : Out :=
  done s fun e =>
    if e.dEmpty && !e.stgWriting && e.stg.blks.any fun b => b.bank == e.stg.fill then e.bankSwap else e

/-- EVQ_OVERRUN (R240). -/
def execEvqOverrun (s : State) : Out := doneS s.evqOverrun

end Sys2Proof.Machine
end

