-- ==== Sys2Proof/Machine/MemWriter.lean ====
section
/-! DEFINITION. The memory writer and scrub (R189 to R198): where a block lies in its stream region, its directory entry,
the end of a run's writing, a full region. -/

namespace Sys2Proof.Machine

/-! ### Regions and sub-rings (R190) -/

/-- Where a stream of a run lies in Shoal: region base and size in 64-byte units, entries of its sub-ring, the byte at
which the sub-ring begins. -/
structure Place where
  base  : Nat
  units : Nat
  ring  : Nat
  dirAt : Nat
  deriving DecidableEq, Repr

/-- The place that MEM_REGION, MEM_DIR_SHARE and MEM_DIR give. -/
def placeOf (region share dir : Word) : Place :=
  { base := fld region 0 14 * 1024, units := fld region 16 15 * 1024, ring := fld share 16 15 * 4096
    dirAt := (fld dir 0 14 + fld share 0 14) * 65536 }

/-- Two extents, as (start, length), overlap. -/
def overlaps (a b : Nat × Nat) : Bool := decide (a.1 < b.1 + b.2) && decide (b.1 < a.1 + a.2)

/-- The record set-up passes the check of NO_STREAM (R189): would holds the streams that would record, ext their region
and share as (base, size) in units, dir the directory region. -/
def setupOk (would : List Nat) (dir : Nat × Nat) (region share : Nat → Nat × Nat) : Bool :=
  let regions := dir :: would.map region
  let shares := would.map share
  let clash (l : List (Nat × Nat)) : Bool :=
    l.zipIdx.any fun a => l.zipIdx.any fun b => decide (a.2 < b.2) && overlaps a.1 b.1
  !would.isEmpty && (regions.all fun r => decide (16 ≤ r.2) && decide (r.1 + r.2 ≤ 16384))
    && (shares.all fun r => decide (1 ≤ r.2) && decide (r.1 + r.2 ≤ dir.2)) && !clash regions && !clash shares

namespace Engine

/-- The committed region, share and directory of a stream (R190). -/
def committedPlace (e : Engine) (s : Nat) : Place :=
  placeOf (e.rd (win R.MEM_REGION s)) (e.rd (win R.MEM_DIR_SHARE s)) (e.rd R.MEM_DIR)

/-- The check of NO_STREAM on the committed values (R189). -/
def recordOk (e : Engine) : Bool :=
  let ext (w : Word) : Nat × Nat := (fld w 0 14, fld w 16 15)
  setupOk ((List.range 5).filter e.wouldRec) (ext (e.rd R.MEM_DIR)) (fun s => ext (e.rd (win R.MEM_REGION s)))
    fun s => ext (e.rd (win R.MEM_DIR_SHARE s))

/-! ### Placement (R191 to R193) -/

/-- Blocks of a run are still on their way to Shoal. -/
def inFlight (e : Engine) (run : Nat) (sel : Nat → Bool) : Bool :=
  (e.recb.waiting.any fun b => b.run == run && sel b.stream && !b.live)
    || (e.stg.blks.any fun b => b.blk.run == run && sel b.blk.stream && undelivered b && !b.blk.live)
    || (e.stg.toPlace.any fun b => b.run == run && sel b.stream)

/-- The memory writer starts a run (R193, R195). What earlier runs of a stream that records again have in flight keeps
pointers of its own (R60); a stream that does not record keeps the pointers that its registers show, and its writing bit. -/
def memStart (e : Engine) (rec : Nat → Bool) : Engine :=
  let runs := (((List.range 5).filter fun s => rec s).map fun s => (e.memS s).run).eraseDups
  let kept : List OldRun := (runs.filter fun r => e.inFlight r rec).map fun r =>
    { run := r, lay := e.recb.lay, streams := e.mem.streams }
  let n := e.recb.runNo + 1
  { e with
    mem := { e.mem with
      old := e.mem.old ++ kept
      streams := e.mem.streams.zipIdx.map fun p => if rec p.2 then { writing := true, run := n } else p.1
      ran := BitVec.ofNat 5 (mapBits 5 rec) }
    recb := { e.recb with
      runNo := n
      lay := (List.range 5).map fun s =>
        let new := (e.rd (win R.MEM_REGION s), e.rd (win R.MEM_DIR_SHARE s), e.rd R.MEM_DIR)
        if rec s then new else e.recb.lay.getD s new } }

end Engine

/-- Live blocks left once the oldest have made room for n units at offset w of a region: fewer than ring live, none that
overlaps (R193). Addresses are absolute, base is the region's. -/
def dropOld (base ring w n : Nat) : List LiveEnt → List LiveEnt
  | [] => []
  | l :: t =>
    if ring ≤ (l :: t).length ∨ ((l :: t).any fun x => overlaps (x.addr, x.len) (base + w, n)) = true then
      dropOld base ring w n t
    else l :: t

/-- The 16 bytes of a directory entry (R192): n units of 64 bytes at unit addr. -/
def entryBytes (b : Block) (addr n : Nat) : List Byte :=
  let flags := at1 b.runStart 7 + at1 b.trig 6 + at1 b.stop 5 + at1 b.damaged 4 + at1 b.afterGap 3 + at1 b.aborted 2
  bytesOfWord (w32 (n * 2 ^ 24 + addr)) ++ bytesOfWord (b.firstT.setWidth 32)
    ++ bytesOfWord (w32 (flags * 2 ^ 24 + b.firstT.toNat / 2 ^ 32))
    ++ bytesOfWord (w32 (b.num % 2 ^ 14 * 2 ^ 18 + b.mode * 2 ^ 16 + b.stream * 2 ^ 13 + b.count))

/-- Where the next block of n units goes: at the write pointer, or at the region start where it does not fit (R191). -/
def nextAt (wptr units n : Nat) : Nat := if wptr + n ≤ units then wptr else 0

/-- The pointers after the placement of a block of n units. -/
def placed (m : MemStream) (p : Place) (b : Block) (n cyc : Nat) : MemStream :=
  let w := nextAt m.wptr p.units n
  let ent : LiveEnt := { idx := m.head, addr := p.base + w, len := n, firstT := b.firstT, cyc := cyc, trig := b.trig }
  { m with wptr := w + n, head := (m.head + 1) % p.ring, live := dropOld p.base p.ring w n m.live ++ [ent]
           trig := if b.trig then some m.head else m.trig }

/-- Less than 16 512 bytes to P, or fewer than 2 free entries before P's (R194). -/
def regionFull (m : MemStream) (p : Place) : Bool :=
  match m.prot with
  | none => false
  | some i => match m.live.find? fun l => l.idx == i with
    | none => true
    | some l => decide ((l.addr + p.units - (p.base + m.wptr)) % p.units * 64 < 16512)
        || decide ((i + p.ring - m.head) % p.ring < 2)

namespace Engine

/-- Words that capture writes take an occurrence of injection kinds 7 and 8 each (R334), in the order in which they are
written: the header of hdr words comes last (R230). -/
def injectShoal (e : Engine) (word n hdr : Nat) : Engine × List (Nat × Ecc) :=
  if e.hinge.active && (e.hinge.kind == 7 || e.hinge.kind == 8) then
    (List.range n).foldl (fun (a : Engine × List (Nat × Ecc)) i =>
      let kind := a.1.hinge.kind
      let r := a.1.inject kind
      if r.2 && (kind == 7 || kind == 8) then (r.1, a.2 ++ [(word + (i + hdr) % n, if kind = 7 then .single else .double)])
      else (r.1, a.2)) (e, [])
  else (e, [])

/-- The stream's region is full (R194): its open block closes with MARK.STOP cause 3 and it records nothing more. -/
def streamFull (e : Engine) (s : Nat) : Engine :=
  let e := (e.stopStream s e.time.now 3).setStream s fun st => { st with full := true }
  (e.istat 0x1C (2 ^ (8 + s))).push 0x6 0x01 1 s

/-- Every recording stream of the run has reached region full (R194). -/
def allFull (e : Engine) : Bool :=
  e.recb.running && (e.recb.streams.any (·.rec')) && e.recb.streams.all fun st => !st.rec' || st.full

/-- Stream s has its final block and entry in Shoal (R195). -/
def streamDone (e : Engine) (s : Nat) : Bool :=
  !(e.stream s).on && (e.stream s).cycs.isEmpty && (e.stream s).blk.isNone && !e.inFlight (e.memS s).run fun x => x == s

/-- The writing bits of the streams that have ended fall; the last one ends the run's writing (R195). -/
def runEnd (e : Engine) : Engine :=
  let was := e.mem.streams.any (·.writing)
  let e := (List.range 5).foldl (fun e s =>
    if (e.memS s).writing && e.streamDone s then e.setMem s fun m => { m with writing := false } else e) e
  let e := { e with mem.old := e.mem.old.filter fun o => e.inFlight o.run fun _ => true }
  if was && !(e.mem.streams.any (·.writing)) then
    (e.istat 0x1C 1).push 0x6 0x02 2 e.mem.ran.toNat
  else e

/-- The pointers, layout and directory of a block's run. -/
def ringOf (e : Engine) (b : Block) : Option (MemStream × Place) :=
  let at' (lay : List (Word × Word × Word)) (ms : List MemStream) : Option (MemStream × Place) :=
    match lay[b.stream]? with
    | some l => some (ms.getD b.stream {}, placeOf l.1 l.2.1 l.2.2)
    | none => none
  if b.run = (e.memS b.stream).run then at' e.recb.lay e.mem.streams
  else match e.mem.old.find? fun o => o.run == b.run with
    | some o => at' o.lay o.streams
    | none => none

/-- Puts the pointers of a block's run back. -/
def setRing (e : Engine) (b : Block) (m : MemStream) : Engine :=
  if b.run = (e.memS b.stream).run then e.setMem b.stream fun _ => m
  else { e with mem.old := e.mem.old.map fun o =>
    if o.run = b.run then { o with streams := upd o.streams b.stream fun _ => m } else o }

end Engine

/-- Writes what capture writes at a byte address: whole 64-bit words, the last one filled with 0 (R224), the first hdr of
them last. -/
def State.capture (s : State) (a hdr : Nat) (bs : List Byte) : Except Fault State :=
  let w := (bs.length + 7) / 8
  match s.shoal.write a (bs ++ List.replicate (8 * w - bs.length) 0#8) with
  | .error f => .error f
  | .ok sh =>
    let i := s.eng.injectShoal (a / 8) w hdr
    .ok { s with eng := i.1, shoal := { sh with bad := i.2 ++ sh.bad } }

/-- Places the block that the memory writer has taken first: its bytes, then its entry, then the pointers (R191 to
R194). -/
def State.place (s : State) (b : Block) : Except Fault State :=
  let s := { s with eng := ({ s.eng with stg.toPlace := s.eng.stg.toPlace.tail }.linkSend true).setBlk 13 fun x => { x with worked := true } }
  match s.eng.ringOf b with
  | none => .ok s
  | some (m, p) =>
    let n := (16 + b.body.length + 63) / 64
    let w := nextAt m.wptr p.units n
    let m' := placed m p b n s.eng.time.now
    match s.capture ((p.base + w) * 64) 2 (blockBytes b) with
    | .error f => .error f
    | .ok s => match s.capture (p.dirAt + 16 * m.head) 0 (entryBytes b (p.base + w) n) with
      | .error f => .error f
      | .ok s =>
        let e := s.eng
        let cur := b.run == e.recb.runNo
        let m' := if cur && m.prot.isNone && e.seq.fired then { m' with prot := some m.head } else m'
        let e := e.setRing b m'
        let e := if cur && (e.stream b.stream).on && regionFull m' p then e.streamFull b.stream else e
        .ok { s with eng := e }

/-! ### Scrub (R198) -/

namespace Engine

/-- The place of a stream as its last run took it. -/
def takenPlace (e : Engine) (s : Nat) : Place :=
  match e.recb.lay[s]? with
  | some l => placeOf l.1 l.2.1 l.2.2
  | none => e.committedPlace s

/-- The first 64-byte unit of an extent: a stream's region, or the directory. -/
def extentBase (e : Engine) (ext : Nat) : Nat :=
  if ext = 5 then fld (e.rd R.MEM_DIR) 0 14 * 1024 else (e.takenPlace ext).base

/-- A unit of Shoal as a line of an extent; Shoal has 2^24 units. -/
def lineOf (e : Engine) (ext unit : Nat) : Nat := (unit + 2 ^ 24 - e.extentBase ext) % 2 ^ 24

/-- The extents that a pass covers, as (extent code, first line, lines): live blocks of the streams that are not being
written, region by region, then their entries' lines in the directory. -/
def scrubSpans (e : Engine) : List (Nat × Nat × Nat) :=
  let ss := (List.range 5).filter fun s => !(e.memS s).writing
  (ss.flatMap fun s => (e.memS s).live.map fun l => (s, e.lineOf s l.addr, l.len))
    ++ ss.flatMap fun s => (e.memS s).live.map fun l => (5, e.lineOf 5 (((e.takenPlace s).dirAt + 16 * l.idx) / 64), 1)

/-- The stream in whose part of an extent a line lies: the directory is passed share by share. -/
def lineStream (e : Engine) (ext line : Nat) : Nat :=
  if ext = 5 then
    ((List.range 5).find? fun s =>
      let p := e.takenPlace s
      let a := e.lineOf 5 (p.dirAt / 64)
      decide (a ≤ line) && decide (line < a + p.ring / 4)).getD 0
  else ext

/-- A position comes before another in a pass: by extent, stream and line. -/
def scrubLt (a b : Nat × Nat × Nat) : Bool :=
  decide (a.1 < b.1) || (a.1 == b.1 && (decide (a.2.1 < b.2.1) || (a.2.1 == b.2.1 && decide (a.2.2 < b.2.2))))

/-- The first line of a pass at or after a position (R198: in ascending stream order). -/
def scrubNext (e : Engine) (ext line : Nat) : Option (Nat × Nat) :=
  let pos : Nat × Nat × Nat := (ext, e.lineStream ext line, line)
  ((e.scrubSpans.filterMap fun x =>
    let s := e.lineStream x.1 x.2.1
    let a : Nat × Nat × Nat := (x.1, s, x.2.1)
    if scrubLt a pos then
      if x.1 = ext ∧ s = pos.2.1 ∧ line < x.2.1 + x.2.2 then some pos else none
    else some a).foldl
    (fun best a => match best with
      | none => some a
      | some b => if scrubLt a b then some a else some b) (none : Option (Nat × Nat × Nat))).map fun a => (a.1, a.2.2)

/-- The Shoal byte of a line of an extent. -/
def scrubByte (e : Engine) (ext line : Nat) : Nat := (e.extentBase ext + line) % 2 ^ 24 * 64

/-- The memory path serves a command: MEM runs, Shoal is out of self-refresh, Hinge-S takes a frame (R327, R379). -/
def memServes (e : Engine) : Bool := e.isOn 13 && e.linkFree true && !e.mem.selfRef

/-- Scrub may read: it is enabled, Shoal is not in self-refresh, the allowance of the tide is not used up. -/
def scrubMay (e : Engine) : Bool :=
  e.rb R.MEM_CTL 0 && e.memServes
    && decide (e.mem.scrubUsed < e.rf R.MEM_CTL 16 8)

/-- Moves on to the next line, or ends the pass. -/
def scrubMove (e : Engine) (ext line : Nat) : Engine :=
  let e := { e with mem := { e.mem with scrubUsed := e.mem.scrubUsed + 1, scrubAct := true } }
  match e.scrubNext ext (line + 1) with
  | some p => { e with mem := { e.mem with scrubExt := p.1, scrubLine := p.2 } }
  | none =>
    let e := { e with mem := { e.mem with scrubExt := 0, scrubLine := 0 } }
    (e.istat 0x22 2).pushIf (e.rb R.MEM_CTL 1) 0x7 0x02 3 0

end Engine

/-- Scrub reads its next line, checks it and writes corrected words back (R197, R198). -/
def State.scrub (s : State) (us : List Upset) : State :=
  let e := s.eng
  let first := (e.scrubNext e.mem.scrubExt e.mem.scrubLine).orElse fun _ => e.scrubNext 0 0
  match first with
  | none => s
  | some (ext, line) =>
    let a := e.scrubByte ext line
    let sh := s.shoal.disturb (us.filter fun u => a / 8 ≤ u.word && u.word < a / 8 + 8)
    let bad := sh.badIn a 64
    let fixed := bad.filterMap fun p => if p.2 = .single then some p.1 else none
    { s with eng := ((e.linkSend true).shoalErrors 0 bad).scrubMove ext line
             shoal := { sh with bad := sh.bad.filter fun p => !fixed.contains p.1 } }

/-- SCRUB_READ (R198). -/
def execScrubRead (us : List Upset) (s : State) : Out := doneS (if s.eng.scrubMay then s.scrub us else s)

end Sys2Proof.Machine
end

