-- ==== Sys2Proof/Machine/Jobs.lean ====
section
/-! DEFINITION. The job engine (R246 to R267): ring entries, tide work, Shoal jobs, the decompressor's service (R215 to
R219), output, writebacks, LIVE jobs and the delivery of staging words (R229 to R231, R262 to R265). -/

namespace Sys2Proof.Machine

namespace Engine

/-! ### Entries and slots -/

/-- Word i of the descriptor of a ring entry. -/
def dw (e : Engine) (ring i : Nat) : Word := (e.ent ring).desc.getD i 0#32

/-- Destination address and length (R249). -/
def dstOf (e : Engine) (ring : Nat) : Nat := (e.dw ring 4).toNat + 2 ^ 32 * (e.dw ring 5).toNat
def dstLen (e : Engine) (ring : Nat) : Nat := (e.dw ring 6).toNat

/-- Ring indices of the outstanding entries, oldest first (R247). -/
def outstanding (e : Engine) : List Nat :=
  (List.range ((e.job.tail + 128 - e.job.head) % 128)).map fun i => (e.job.head + i) % 64

/-- The job engine may work. -/
def jobOn (e : Engine) : Bool := e.isOn 14

/-- A slot may work: it holds a job that has not ended, and breakwater does not hold it. -/
def slotLive (e : Engine) (k : Nat) : Bool :=
  let s := e.slot k
  s.busy && (e.ent s.ring).ended.isNone && e.host.bw != .frozen && !s.frozen

/-- A job ends with a status and a cause; its writeback waits. -/
def endJob (e : Engine) (ring status cause : Nat) : Engine :=
  e.setEnt ring fun j => if j.ended.isSome then j else { j with ended := some (status, cause) }

/-! ### Output (R259, R261) -/

/-- Bytes cut where an address is a multiple of the payload limit. -/
def cutWrites (mps : Nat) : Nat → Nat → List Byte → List (Nat × List Byte)
  | 0, _, _ => []
  | fuel + 1, a, bs =>
    if bs.isEmpty then []
    else
      let n := mps - a % mps
      (a, bs.take n) :: cutWrites mps fuel (a + n) (bs.drop n)

/-- Credits that a write of n bytes uses. -/
def writeCost (n : Nat) : Nat := (n + 15) / 16

/-- How many of the waiting writes, and of the TLPs behind them, the credits allow, in order. -/
def sendable (credits : Nat) : List OutWr → Nat
  | [] => 0
  | w :: t => if writeCost w.bytes.length ≤ credits then 1 + sendable (credits - writeCost w.bytes.length) t else 0

/-- Issues one element of the queue. -/
def issue (e : Engine) (w : OutWr) : Engine :=
  match w.tlp with
  | some t => e.emit t
  | none => e.emit (.writeMem w.addr w.bytes e.idoReq)

/-- The bytes of dst that the slot has written once w has been issued. -/
def slotOut (s : JobSlot) (w : OutWr) : JobSlot :=
  if s.busy && w.ring == s.ring then { s with top := max s.top w.upTo, out := max s.top w.upTo - w.hole } else s

/-- Issues the writes that credits allow, and the TLPs that waited behind them (R284, R285). Where the job engine may
issue nothing, its writes stay and the TLPs go. -/
def drainOut (e : Engine) : Engine :=
  if !e.canIssue then
    let go := e.job.outQ.filter fun w => w.tlp.isSome
    if go.isEmpty then e
    else { go.foldl issue e with job := { e.job with outQ := e.job.outQ.filter fun w => w.tlp.isNone } }
  else
    let n := sendable e.host.credits e.job.outQ
    let go := e.job.outQ.take n
    let d := go.foldl issue e
    { d with
      host := { d.host with credits := e.host.credits - (go.map fun w => writeCost w.bytes.length).sum }
      job := { e.job with
        outQ := e.job.outQ.drop n
        waitHost := e.job.waitHost || n < e.job.outQ.length
        slots := e.job.slots.map fun s => go.foldl slotOut s } }

/-- A job ends and issues nothing more: output that has not been issued and blocks that wait for the decompressor are
dropped (R254, R256, R266). -/
def cutJob (e : Engine) (ring status cause : Nat) : Engine :=
  if (e.ent ring).ended.isSome then e
  else
    let slotOf (k : Nat) : Bool := (e.slot k).busy && (e.slot k).ring == ring
    let e := { e with job := { e.job with
      outQ := e.job.outQ.filter fun w => w.ring != ring
      decQ := e.job.decQ.filter fun d => !slotOf d.slot } }
    e.drainOut.endJob ring status cause

/-- A job writes bytes at an offset of its destination; hole: how many bytes of dst before them are still to come. -/
def jobWrite (e : Engine) (ring off : Nat) (bs : List Byte) (hole : Nat := 0) : Engine :=
  let a := (e.dstOf ring + off) % 2 ^ 64
  let ws := (cutWrites e.maxPayload (bs.length + 1) a bs).map fun w =>
    ({ ring := ring, addr := w.1, bytes := w.2, upTo := off + (w.1 - a) + w.2.length, hole := hole } : OutWr)
  { e with job.outQ := e.job.outQ ++ ws }.drainOut

/-- A slot appends bytes to its output. -/
def slotWrite (e : Engine) (k : Nat) (bs : List Byte) : Engine :=
  let s := e.slot k
  (e.setSlot k fun s => { s with made := s.made + bs.length }).jobWrite s.ring s.made bs

/-! ### Commits of JOB_TAIL and JOB_CANCEL (R247, R253, R254) -/

/-- A committed JOB_TAIL value. -/
def tailCommit (e : Engine) (v : Nat) : Engine :=
  let j := e.job
  let n := (v + 128 - j.head) % 128
  let old := (j.tail + 128 - j.head) % 128
  if 64 < n ∨ n < old then ((e.wr R.JOB_TAIL (w32 j.tail)).estat 0x24 1).istat 0x24 8
  else
    let e := (List.range (n - old)).foldl (fun e i =>
      e.setEnt ((j.tail + i) % 64) fun _ => { st := .ready }) e
    { e with job.tail := v }.demand 14

/-- A committed JOB_CANCEL with go = 1. -/
def cancelCommit (e : Engine) (i : Nat) : Engine :=
  let j := e.ent i
  match j.st with
  | .ready =>
    if j.ended.isSome then e
    else if j.inRead then e.setEnt i fun j => { j with cancel := true }
    else e.endJob i 5 3
  | .fetched => if j.ended.isSome then e else e.endJob i 5 3
  | .active => e.cutJob i 5 3
  | _ => (e.istat 0x24 4).push 0xA 0x03 3 i

/-! ### Tide work (R255) -/

/-- An entry whose descriptor may be read. -/
def readable (e : Engine) (i : Nat) : Bool :=
  let j := e.ent i
  j.st == .ready && !j.inRead && j.ended.isNone

/-- The lowest free tag of the pool of 32. -/
def freeTag (e : Engine) : Option Nat := (List.range 32).find? fun t => e.job.reads.all fun r => r.tag != t

/-- Descriptor reads, with the entries that this tide may still take; answers the entries left out. -/
def fetch (e : Engine) : Nat → Nat → Engine
  | 0, _ => e
  | fuel + 1, room =>
    match e.outstanding.find? e.readable with
    | none => e
    | some i =>
      let most := min room (min (64 - i) (min 256 e.maxRead / 32))
      let n := ((List.range most).takeWhile fun k => e.outstanding.contains (i + k) && e.readable (i + k)).length
      if n = 0 then e
      else match e.freeTag with
        | none => { e with job.waitHost := true }
        | some t =>
          let a := (e.rd R.JOB_RING_LO).toNat + 2 ^ 32 * (e.rd R.JOB_RING_HI).toNat + 32 * i
          let e := { e.send (.readMem t a (32 * n) e.idoReq) with
            job.reads := e.job.reads ++ [({ tag := t, first := i, n := n, at' := e.time.now } : JobRead)] }
          let e := (List.range n).foldl (fun e k => e.setEnt (i + k) fun j => { j with inRead := true }) e
          e.fetch fuel (room - n)

/-- Reserved bits, stream, entries and destination of a descriptor (R251). -/
def badDesc (e : Engine) (ring ringE : Nat) : Bool :=
  let w (i : Nat) : Word := e.dw ring i
  let op := fld (w 0) 0 4
  op == 0 || decide (6 ≤ op) || fld (w 0) 20 4 != 0 || fld (w 0) 5 8 != 0 || decide (4 < fld (w 0) 13 3)
    || (op != 4 && (fld (w 1) 26 6 != 0 || fld (w 2) 26 6 != 0 || fld (w 2) 0 26 == 0 || decide (ringE ≤ fld (w 1) 0 26)))
    || (op != 3 && (fld (w 3) 14 18 != 0 || fld (w 4) 0 6 != 0 || w 6 == 0#32)) || w 7 != 0#32

/-- A stream other than s is being produced (R262). -/
def otherProduced (e : Engine) (s : Nat) : Bool := (List.range 5).any fun t => t != s && (e.stream t).on

/-- A FETCHED job takes a slot and runs its activation checks (R250, R251, R255, R256, R262). -/
def activate (e : Engine) (ring k : Nat) : Engine :=
  let w0 := e.dw ring 0
  let op := fld w0 0 4
  let s := fld w0 13 3
  let p := e.committedPlace s
  let e := e.setSlot k fun _ =>
    { busy := true, ring := ring, opcode := op, stream := s, entIdx := fld (e.dw ring 1) 0 26, left := fld (e.dw ring 2) 0 26
      ringE := p.ring, dirAt := p.dirAt, regLo := p.base, regHi := p.base + p.units }
  let e := (e.setEnt ring fun j => { j with st := .active }).setBlk 14 fun b => { b with worked := true }
  if e.badDesc ring p.ring then e.endJob ring 6 4
  else if op ≠ 4 then
    if (e.memS s).writing then e.endJob ring 6 5 else e.demand 13
  else if e.otherProduced s then e.endJob ring 6 11
  else { e with stg := { e.stg with routeLive := true, routeStream := s } }

/-- FETCHED jobs take free slots in ring order. -/
def activateAll (e : Engine) : Engine :=
  (e.outstanding.filter fun i => (e.ent i).st == .fetched && (e.ent i).ended.isNone).foldl (fun e i =>
    match (List.range 4).find? fun k => !(e.slot k).busy with
    | some k => e.activate i k
    | none => { e with job.waitSlot := true }) e

/-- The tide work; it needs the block and its enable. -/
def jobTide (e : Engine) : Engine :=
  if e.jobOn && e.rb R.JOB_CTL 0 && e.host.bw != .frozen then
    let e := if e.canIssue then e.fetch 9 8 else e
    let left := e.canIssue && e.freeTag.isSome && e.outstanding.any e.readable
    { e with job.left := left }.activateAll
  else { e with job.left := false }

/-- READY entries that the tide work has left, and not one that waited at a bound of R261 (R255). -/
def jobLeft (e : Engine) : Bool := e.job.left && e.outstanding.any e.readable

/-- A data write or a writeback waits for posted credits (R261). -/
def creditWait (e : Engine) : Bool :=
  e.canIssue && (!e.job.outQ.isEmpty ||
    (e.host.credits == 0 && e.job.ents.any fun j => j.ended.isSome && !j.wb && !j.inRead))

/-- The stall counters of the tide that ends (R261); what still waits counts in the next one too. -/
def stallTide (e : Engine) : Engine :=
  let c (e : Engine) (b : Bool) (k : Nat) : Engine := if b then e.count k else e
  let j := e.job
  let e := c (c (c e j.waitHost R.JOB_STALL_HOST) j.waitMem R.JOB_STALL_MEM) j.waitSlot R.JOB_STALL_SLOT
  { e with job := { e.job with waitHost := e.creditWait, waitMem := false, waitSlot := false } }

/-! ### Completions (R255, R259, R283, R299) -/

/-- A descriptor read is over: its tag is free, and its entries stand alone. -/
def readOver (e : Engine) (r : JobRead) : Engine :=
  { e with job := { e.job with
    reads := e.job.reads.filter fun x => x.tag != r.tag
    ents := e.job.ents.map fun j => if j.tag = some r.tag then { j with tag := none } else j } }

/-- Entry i of a descriptor read ends FAILED, with tag 0: its bytes are still to come, or an earlier part of the read has
brought them (R259). -/
def entryFails (e : Engine) (r : JobRead) (i cause : Nat) : Engine :=
  if (e.ent i).inRead then (e.setEnt i fun j => { j with inRead := false, desc := [] }).endJob i 6 cause
  else if (e.ent i).tag = some r.tag ∧ (e.ent i).ended = none then
    (e.cutJob i 6 cause).setEnt i fun j => { j with desc := [] }
  else e

/-- Every entry of a descriptor read ends FAILED. -/
def fetchErr (e : Engine) (r : JobRead) (cause : Nat) : Engine :=
  ((List.range r.n).foldl (fun e k => e.entryFails r (r.first + k) cause) e).readOver r

/-- Descriptor bytes that have arrived make their entries FETCHED; a cancelled one ends (R254). -/
def fetched (e : Engine) (r : JobRead) : Engine :=
  let e := (List.range r.n).foldl (fun e k =>
    let i := r.first + k
    if (e.ent i).inRead && decide (8 * (k + 1) ≤ r.got.length) then
      if (e.ent i).cancel then (e.setEnt i fun j => { j with inRead := false }).endJob i 5 3
      else e.setEnt i fun j => { j with
        inRead := false, st := .fetched, desc := (r.got.drop (8 * k)).take 8
        tag := if r.got.length < 8 * r.n then some r.tag else none }
    else e) e
  if 8 * r.n ≤ r.got.length then e.readOver r
  else { e with job.reads := e.job.reads.map fun x => if x.tag = r.tag then r else x }

/-- A completion arrives. -/
def completion (e : Engine) (tag : Nat) (status : CplStatus) (poisoned : Bool) (data : List Word) : Engine :=
  match e.job.reads.find? fun r => r.tag == tag && !r.late with
  | none => e.hostErr 0 .unexpected true
  | some r =>
    if r.frozen then
      if status = .success ∧ (r.got ++ data).length < 8 * r.n then
        { e with job.reads := e.job.reads.map fun x => if x.tag = tag then { r with got := r.got ++ data } else x }
      else { e with job.reads := e.job.reads.map fun x => if x.tag = tag then { r with late := true } else x }
    else if poisoned then
      let e := e.poisonedCpl
      if e.host.bw = .frozen then
        { e with job.reads := e.job.reads.map fun x => if x.tag = tag then { x with late := true } else x }
      else e.fetchErr r 8
    else match status with
      | .success => e.fetched { r with got := r.got ++ data }
      | .unsupported => (e.hwSet (cfgKey 0 0x04) (w32 (2 ^ 29))).fetchErr r 8
      | .abort => (e.hwSet (cfgKey 0 0x04) (w32 (2 ^ 28))).fetchErr r 8

/-- Device Control 2's completion timeout in coarse cycles; none: disabled (R283). -/
def timeoutOf (e : Engine) : Option Nat :=
  let w := e.cfg 0 0x78
  if bit w 4 then none
  else some (match fld w 0 4 with
    | 1 => 50000
    | 2 => 3750000
    | 5 => 25000000
    | 6 => 87500000
    | _ => 15000000)

/-- A request has gone without its completion for the timeout. -/
def completionTimeout (e : Engine) (tag : Nat) : Engine :=
  match e.timeoutOf, e.job.reads.find? fun r => r.tag == tag && !r.late with
  | some t, some r =>
    if r.at' + t ≤ e.time.now then
      let e := e.hostErr 0 .timeout false
      if e.host.bw = .frozen then
        { e with job.reads := e.job.reads.map fun x => if x.tag = tag then { x with late := true } else x }
      else e.fetchErr r 8
    else e
  | _, _ => e

/-! ### Writebacks (R260) -/

/-- The four words of a writeback. -/
def wbWords (e : Engine) (ring status cause : Nat) : List Word :=
  let tag := fld (e.dw ring 0) 24 8
  let head := w32 (tag * 2 ^ 24 + status * 2 ^ 20 + cause * 2 ^ 16 + ring)
  match e.job.slots.find? fun s => s.busy && s.ring == ring with
  | some s =>
    [head ||| w32 (min s.faults 63 * 2 ^ 10 + at1 s.poison 9 + at1 s.cut 8), w32 s.out, w32 (s.blocks % 2 ^ 26),
     w32 (s.code * 2 ^ 29 + s.pos * 2 ^ 16 + (if s.code = 0 then 0 else s.fent % 65536))]
  | none => [head, 0#32, 0#32, 0#32]

/-- JOB_HEAD moves past the entries whose writebacks have been issued. -/
def headMove (e : Engine) : Nat → Engine
  | 0 => e
  | fuel + 1 =>
    let i := e.job.head % 64
    if e.job.head ≠ e.job.tail ∧ (e.ent i).wb = true then
      { (e.setEnt i fun _ => {}) with job.head := (e.job.head + 1) % 128 }.headMove fuel
    else e

/-- After a writeback: breakwater returns to OPEN with the last one that it owes (R298). -/
def released (e : Engine) : Engine :=
  if e.host.bw == .releasing && e.job.ents.all fun j => j.wb || j.ended != some (6, 9) then
    ({ e with host.bw := .opened }.istat 0x25 8).push 0xB 0x04 2 0
  else e

/-- The writeback of an ended job may be issued. -/
def wbReady (e : Engine) (ring : Nat) : Bool :=
  let j := e.ent ring
  j.ended.isSome && !j.wb && !j.inRead && e.job.outQ.isEmpty && e.canIssue && e.jobOn && decide (1 ≤ e.host.credits)

/-- Issues the writeback of an ended job. -/
def writeback (e : Engine) (ring : Nat) : Engine :=
  let j := e.ent ring
  match j.ended with
  | none => e
  | some (status, cause) =>
    let a := (e.rd R.JOB_WB_LO).toNat + 2 ^ 32 * (e.rd R.JOB_WB_HI).toNat + 16 * ring
    let st : JobState := match status with
      | 4 => .done
      | 5 => .cancelled
      | _ => .failed
    let w0 := j.desc.getD 0 0#32
    let c : Ended := { ring := ring, status := status, cause := cause, irq := bit w0 17, ev := bit w0 16 }
    let slots : List JobSlot := e.job.slots.map fun s =>
      if s.busy && s.ring == ring then { s with busy := false, frozen := false } else s
    let e := { e.emit (.writeMem a ((e.wbWords ring status cause).flatMap bytesOfWord) e.idoReq) with
      host.credits := e.host.credits - 1
      job := { e.job with slots := slots, counted := e.job.counted ++ [c] } }
    ((e.setEnt ring fun j => { j with wb := true, st := st }).headMove 64).released

/-- The jobs whose writebacks were issued in the last cycle are counted (R260, R267). -/
def countEnded (e : Engine) : Engine :=
  let l := e.job.counted
  l.foldl (fun e c =>
    let e := { e with job.ended := e.job.ended + 1 }
    let e := if c.irq then e.istat 0x24 1 else e
    if c.status = 6 then ((e.istat 0x24 2).count R.JOB_FAIL_CNT).push 0xA 0x02 1 (c.cause * 256 + c.ring)
    else e.pushIf c.ev 0xA 0x01 3 c.ring) { e with job.counted := [] }

/-- HOST_BW_CTL.release written 1 (R266, R298). -/
def bwRelease (e : Engine) : Engine :=
  if e.host.bw ≠ .frozen then e
  else
    let e := { e with host.bw := .releasing }
    let e := (e.job.slots.filter (·.frozen)).foldl (fun e s =>
      let e := { e with job := { e.job with outQ := e.job.outQ.filter fun w => w.ring != s.ring } }
      e.setEnt s.ring fun j => { j with ended := some (6, 9) }) e
    let e := e.drainOut
    let slots : List JobSlot := e.job.slots.map fun s => { s with frozen := false }
    let e := { e with job := { e.job with decQ := e.job.decQ.filter fun d => !(e.slot d.slot).frozen, slots := slots } }
    ((e.job.reads.filter (·.frozen)).foldl (fun e r => e.fetchErr r 9) e).released

/-- Every job ends with no writeback and the JOB page takes its reset values (R266, R294). The TLPs that waited behind the
jobs' writes go, where there is a link. -/
def jobsReset (e : Engine) : Engine :=
  let e := if e.host.up then (e.job.outQ.filter fun w => w.tlp.isSome).foldl issue e else e
  { (e.clearRegs fun k => k / 256 == 0x24) with job := { decBlocks := e.job.decBlocks } }

/-! ### Shoal jobs (R257, R258) -/

/-- A block or entry fault of the job in slot k. -/
def jobFault (e : Engine) (k code pos ent : Nat) : Engine :=
  e.setSlot k fun s =>
    if s.code = 0 then { s with faults := s.faults + 1, code := code, pos := pos, fent := ent }
    else { s with faults := s.faults + 1 }

/-- The job goes on to its next entry, or ends DONE after the last one. -/
def nextEnt (e : Engine) (k : Nat) : Engine :=
  let s := e.slot k
  if s.left ≤ 1 then (e.setSlot k fun s => { s with left := 0, stage := .finish }).endJob s.ring 4 0
  else e.setSlot k fun s => { s with left := s.left - 1, entIdx := (s.entIdx + 1) % s.ringE, stage := .entry }

/-- An entry has been dealt with in full. -/
def entDone (e : Engine) (k : Nat) : Engine := (e.setSlot k fun s => { s with blocks := s.blocks + 1 }).nextEnt k

/-- The entry is invalid (R257). -/
def badEntry (s : JobSlot) (w : List Word) (poisoned : Bool) : Bool :=
  let w0 := w.getD 0 0#32; let w3 := w.getD 3 0#32
  let len := fld w0 24 8; let a := fld w0 0 24
  len == 0 || decide (129 < len) || decide (a < s.regLo) || decide (s.regHi < a + len) || fld w3 13 3 != s.stream
    || fld w3 0 13 == 0 || poisoned

/-- Bytes of dst that an entry may need. -/
def entNeeds (op : Nat) (w : List Word) : Nat :=
  if op = 1 then fld (w.getD 0 0#32) 24 8 * 64 else if op = 2 then 2 * fld (w.getD 3 0#32) 0 13 else if op = 5 then 16 else 0

/-- Words of bytes. -/
def wordsOf (bs : List Byte) : List Word := (List.range (bs.length / 4)).map fun i => wordAt bs (4 * i)

/-- What the job in slot k does with the entry that it has read. -/
def entryTaken (e : Engine) (k : Nat) (bs : List Byte) (poisoned : Bool) : Engine :=
  let s := e.slot k
  let w := wordsOf bs
  if badEntry s w poisoned then (e.jobFault k 7 0 s.entIdx).nextEnt k
  else if s.opcode != 3 && decide (e.dstLen s.ring < s.made + entNeeds s.opcode w) then e.endJob s.ring 6 1
  else if s.opcode = 5 then (e.slotWrite k bs).entDone k
  else e.setSlot k fun s => { s with ent := w, stage := .block }

/-- What the job in slot k does with the block that it has read. -/
def blockTaken (e : Engine) (k : Nat) (bs : List Byte) (poisoned : Bool) : Engine :=
  let s := e.slot k
  let e := if poisoned then (e.setSlot k fun s => { s with poison := true }).estat 0x24 2 else e
  if s.opcode = 1 then (e.slotWrite k bs).entDone k
  else
    let w3 := s.ent.getD 3 0#32
    let t := (s.ent.getD 1 0#32).toNat + fld (s.ent.getD 2 0#32) 0 24 * 2 ^ 32
    let d : DecIn := { slot := k, bytes := bs, unit := some (fld (s.ent.getD 0 0#32) 0 24), last := false
                       expect := some (fld w3 13 3, BitVec.ofNat 56 t) }
    { (e.setSlot k fun s => { s with stage := .decode }) with job.decQ := e.job.decQ ++ [d] }.demand 11

end Engine

/-- A checked read of Shoal by the job engine; bytes beyond Shoal do not exist. -/
def State.jobRead (s : State) (us : List Upset) (a n : Nat) : Except Fault (State × List Byte × Bool) :=
  if shoalSize < a + n then .error .shoalRange
  else
    let sh := s.shoal.disturb us
    let bad := sh.badIn a n
    let e := ((s.eng.linkSend true).shoalErrors 1 bad).setBlk 13 fun b => { b with worked := true }
    .ok ({ s with eng := e, shoal := { sh with reads := sh.reads + 1 } }, sh.bytes a n, bad.any fun p => p.2 == .double)

/-- The job in slot k reads its next directory entry. -/
def State.entryRead (s : State) (k : Nat) (us : List Upset) : Except Fault State :=
  let t := s.eng.slot k
  match s.jobRead us (t.dirAt + 16 * t.entIdx) 16 with
  | .error f => .error f
  | .ok (s, bs, poisoned) => .ok { s with eng := s.eng.entryTaken k bs poisoned }

/-- The job in slot k reads the block of its entry. -/
def State.blockRead (s : State) (k : Nat) (us : List Upset) : Except Fault State :=
  let w0 := (s.eng.slot k).ent.getD 0 0#32
  match s.jobRead us (fld w0 0 24 * 64) (fld w0 24 8 * 64) with
  | .error f => .error f
  | .ok (s, bs, poisoned) => .ok { s with eng := s.eng.blockTaken k bs poisoned }

namespace Engine

/-- Slot k waits to read at a stage (R257). -/
def slotAt (e : Engine) (k : Nat) (st : JobStage) : Bool :=
  e.slotLive k && (e.slot k).opcode != 4 && (e.slot k).stage == st && e.jobOn

/-! ### The decompressor (R215 to R219) -/

/-- A fault of the decompressor in a block of stream s (R217). -/
def decFault (e : Engine) (d : DecIn) (stream code pos : Nat) : Engine :=
  let ring := (e.slot d.slot).ring
  let e := (e.count (win R.DEC_CNT code)).estat 0x1E (2 ^ code)
  let e := (e.istat 0x1E 1).wr R.DEC_LAST (w32 (2 ^ 31 + code * 2 ^ 28 + stream * 2 ^ 25 + ring * 2 ^ 19 + pos))
  let e := e.wr R.DEC_LAST_BLK (w32 (d.unit.getD 0xFFFFFF))
  let e := e.pushIf (e.rb R.DEC_CTL 0) 0x8 0x02 1 (code * 512 + stream * 64 + ring)
  e.jobFault d.slot code pos (if d.unit.isSome then (e.slot d.slot).entIdx else 0xFFFF)

/-- Items as bytes. -/
def itemBytes (l : List Item) : List Byte := l.flatMap fun i => [i.extractLsb' 0 8, i.extractLsb' 8 8]

/-- A LIVE job has delivered a block that ends its stream (R265). -/
def liveEnds (e : Engine) (k : Nat) (last : Bool) : Engine :=
  if last then e.endJob (e.slot k).ring 4 2 else e

/-- The decompressor serves the block at the front of its queue. -/
def decodeBlock (e : Engine) : Engine :=
  match e.job.decQ with
  | [] => e
  | d :: rest =>
    let k := d.slot
    let s := e.slot k
    let w0 := e.dw s.ring 0
    let c := checkBlock d.bytes d.expect
    let stream := match c.head with
      | some h => h.stream
      | none => s.stream
    let e := { e with job := { e.job with decQ := rest, decBlocks := e.job.decBlocks + 1 } }
    let e := e.setBlk 11 fun b => { b with worked := true }
    let e := c.faults.foldl (fun e f => e.decFault d stream f.1 f.2) e
    let e := if s.opcode = 3 then
        e.setSlot k fun s => { s with made := s.made + c.items.length, out := s.out + c.items.length }
      else e.slotWrite k (itemBytes (filterItems stream (fld (e.dw s.ring 3) 0 14) (bit w0 19) c.items))
    if s.opcode = 4 then
      (e.setSlot k fun s => { s with blocks := s.blocks + 1, stage := .entry }).liveEnds k d.last
    else if bit w0 18 && !c.faults.isEmpty then
      (e.setSlot k fun s => { s with blocks := s.blocks + 1 }).endJob s.ring 6 7
    else e.entDone k

/-! ### LIVE jobs and the delivery of words (R229 to R231, R262 to R265) -/

/-- The slot of the ACTIVE LIVE job of a stream. -/
def liveSlot (e : Engine) (s : Nat) : Option Nat :=
  (List.range 4).find? fun k => e.slotLive k && (e.slot k).opcode == 4 && (e.slot k).stream == s

/-- A LIVE job of a stream is FETCHED, or ACTIVE and held. -/
def liveSoon (e : Engine) (s : Nat) : Bool :=
  e.job.ents.any fun j => (j.st == .fetched || j.st == .active) && j.ended.isNone && (fld (j.desc.getD 0 0#32) 0 4 == 4)
    && fld (j.desc.getD 0 0#32) 13 3 == s

/-- Staging holds an undelivered live block of the streams that sel names. -/
def holdsLive (e : Engine) (sel : Nat → Bool) : Bool :=
  e.stg.blks.any fun b => b.blk.live && sel b.blk.stream && undelivered b

/-- STG_ROUTE from cycle to cycle (R262): held at stream 4 for REC_CTL.meas_live; else what an activation has set stays
until no LIVE job of its stream is FETCHED or ACTIVE and staging holds no live block. -/
def routeStep (e : Engine) : Engine :=
  if e.recb.measLive then { e with stg := { e.stg with routeLive := true, routeStream := 4 } }
  else if !e.stg.routeLive || e.liveSoon e.stg.routeStream || e.holdsLive (fun _ => true) then e
  else { e with stg := { e.stg with routeLive := false, routeStream := 0 } }

/-- LIVE jobs that a run with other streams has overtaken end once they have taken what was held (R262). -/
def soleEnd (e : Engine) : Engine :=
  (List.range 4).foldl (fun e k =>
    let s := e.slot k
    if s.busy && s.notSole && s.opcode == 4 && !(e.holdsLive fun x => x == s.stream) && s.stage != .decode then
      e.endJob s.ring 6 11 else e) e

/-- The bytes of a block in staging at a word offset, as delivered; the word is filled with 0 after the block's end. -/
def wordBytes (e : Engine) (b : SBlk) (off : Nat) : List Byte :=
  let body := if b.closed then b.blk.body else match (e.stream b.blk.stream).blk with
    | some x => tokenPayload x.items
    | none => []
  let w := (((b.flips.filter fun f => f.1 == off).foldl flipBody body).drop (8 * (off - 2))).take 8
  w ++ List.replicate (8 - w.length) 0#8

/-- A block as its consumer has received it. -/
def received (b : SBlk) : Block := { b.blk with body := b.flips.foldl flipBody b.blk.body }

/-- Words that a live job's check of space counts, in bytes (R265). -/
def liveNeeds (e : Engine) (ring : Nat) : Nat :=
  if bit (e.dw ring 0) 4 then 512 * (e.recb.limit + 1) else 8 * liveReserve e.recb.limit

/-- A block of slot k has been delivered in full. -/
def liveDone (e : Engine) (k : Nat) (b : SBlk) (bytes : List Byte) (w : Nat) : Engine :=
  let s := e.slot k
  let last := b.blk.stop || b.blk.last
  if bit (e.dw s.ring 0) 4 then
    let d : DecIn := { slot := k, bytes := bytes, unit := none, last := last, expect := none }
    ({ e with job.decQ := e.job.decQ ++ [d] }.setSlot k fun s => { s with stage := .decode }).demand 11
  else
    (e.setSlot k fun s => { s with blocks := s.blocks + 1, made := b.off.getD s.made + 8 * w }).liveEnds k last

/-- The LIVE job in slot k receives the word at an offset of block i. -/
def liveWord (e : Engine) (k i : Nat) (b : SBlk) (off : Nat) (fin : Bool) : Engine :=
  let s := e.slot k
  let o := b.off.getD s.made
  let e := e.setSBlk i fun x => { x with off := some o }
  let e := if bit (e.dw s.ring 0) 4 then e
    else if off < 2 then (if fin then e.jobWrite s.ring o (headerBytes b.blk false) else e)
    else e.jobWrite s.ring (o + 8 * off) (e.wordBytes b off) 16
  if fin then (e.liveDone k b (blockBytes (received b)) (blkWords b.blk)).soleEnd else e

/-- What the word goes to: the memory writer, a LIVE job's slot, or nothing. -/
inductive Consumer where
  | writer | job (k : Nat) | discard
  deriving DecidableEq, Repr

/-- The consumer of a block, if it is there and takes words (R229, R262). -/
def consumer (e : Engine) (b : SBlk) : Option Consumer :=
  if !b.blk.live then (if e.memServes then some .writer else none)
  else if !e.jobOn then none
  else match e.liveSlot b.blk.stream with
    | some k => if (e.slot k).stage = .decode then none else some (.job k)
    | none => if e.liveSoon b.blk.stream then none else some .discard

/-- One word is delivered from block i (R229, R230, R235). -/
def deliver (e : Engine) (i : Nat) (b : SBlk) (u : Option Upset) (c : Consumer) : Engine :=
  let off := wordOffset b
  let fin := b.closed && b.deliv + 1 == blkWords b.blk
  let e := (e.stgCheck i b u).setSBlk i fun x => { x with deliv := x.deliv + 1, restart := x.restart && !fin }
  let e := ({ e with cyc.delivered := e.cyc.delivered + 1 }.setBlk 12 fun x => { x with worked := true })
  let b' := e.stg.blks.getD i b
  match c with
  | .writer =>
    if fin then { e with stg.toPlace := e.stg.toPlace ++ [received b'] }.setBlk 13 fun x => { x with worked := true } else e
  | .job k => (e.liveWord k i b' off fin).setBlk 14 fun x => { x with worked := true }
  | .discard => if fin then e.count R.STG_DROP_CNT else e

/-- The next word of the queue goes to its consumer; a LIVE job without space ends DONE with DST_END (R265). -/
def delivery (e : Engine) (u : Option Upset) : Engine :=
  match e.readPos with
  | none => e
  | some i =>
    match e.stg.blks[i]? with
    | none => e
    | some b =>
      let e := if b.blk.live then e.demand 14 else e
      if !e.wordReady b then e
      else match e.consumer b with
        | none => if b.blk.live then e else e.demand 13
        | some (.job k) =>
          if b.off.isNone && decide (e.dstLen (e.slot k).ring < (e.slot k).made + e.liveNeeds (e.slot k).ring) then
            e.endJob (e.slot k).ring 4 1
          else e.deliver i b u (.job k)
        | some c => e.deliver i b u c

/-- What the consumer has of a block that is cut, as a block with a header of the job's own (R206, R263), and how many
words of it have been delivered. A cut in the cycle in which the block closed STORED wins over the rewrite (R231). -/
def cutBlock (e : Engine) (b : SBlk) : SBlk × Nat :=
  let undo := b.restart && b.closeAt == e.time.now
  let n := if undo then b.took else b.deliv
  let toks := tokenPayload ((bytesItems b.blk.body).take b.blk.count)
  let written := b.closed && !undo && decide (blkWords b.blk ≤ b.wrote)
  let got := 8 * (if b.closed && !undo then min n (blkWords b.blk - 2) else n)
  ({ b with dropped := true, restart := false, deliv := n
            blk := { b.blk with
              body := if undo then toks else b.blk.body
              plen := if b.closed && !undo then min got b.blk.plen else got
              count := if written then b.blk.count else 0, stored := written && b.blk.stored
              aborted := written && b.blk.aborted } }, n)

/-- STG_CMD.drop_rest (R231, R263): the live block at the read position is cut where at least one of its words has been
delivered, and the job builds its header. -/
def dropRest (e : Engine) : Engine :=
  match e.readPos with
  | none => e
  | some i => match e.stg.blks[i]? with
    | none => e
    | some b =>
      let c := e.cutBlock b
      if !b.blk.live || c.2 == 0 then e
      else
        let h := c.1.blk
        let e := e.setSBlk i fun x => { x with dropped := true, restart := false }
        match e.liveSlot b.blk.stream with
        | none => e.count R.STG_DROP_CNT
        | some k =>
          let s := e.slot k
          let body := ((List.range ((h.plen + 7) / 8)).flatMap fun j => e.wordBytes c.1 (j + 2)).take h.plen
          let e := e.setSlot k fun s => { s with cut := true }
          let e := if bit (e.dw s.ring 0) 4 then e else e.jobWrite s.ring (b.off.getD s.made) (headerBytes h true)
          (e.liveDone k b (headerBytes h true ++ body) ((16 + h.plen + 7) / 8)).soleEnd

/-! ### What other parts do to jobs -/

/-- Shoal jobs of a stream whose writing bit rises end (R256). -/
def overwrite (e : Engine) (rec : Nat → Bool) : Engine :=
  (List.range 4).foldl (fun e k =>
    let s := e.slot k
    if s.busy && s.opcode != 4 && rec s.stream then e.cutJob s.ring 6 6 else e) e

/-- LIVE jobs as a run with recording streams begins (R262). -/
def overtake (e : Engine) (rec : Nat → Bool) : Engine :=
  let e := (List.range 4).foldl (fun e k =>
    let s := e.slot k
    if s.busy && s.opcode == 4 && (e.ent s.ring).ended.isNone && ((List.range 5).any fun t => t != s.stream && rec t) then
      let g := e.stg
      { e.setSlot k fun s => { s with notSole := true } with stg := { g with routeLive := false, routeStream := 0 } }
    else e) e
  e.soleEnd

/-- Hinge-S has failed: every ACTIVE Shoal job ends (R258). -/
def jobsHingeDown (e : Engine) : Engine :=
  (List.range 4).foldl (fun e k =>
    let s := e.slot k
    if s.busy && s.opcode != 4 then
      { e with job.decQ := e.job.decQ.filter fun d => d.slot != k }.endJob s.ring 6 10 else e) e

end Engine

/-! ### The commands -/

/-- COMPLETION (R255, R259, R283). -/
def execCompletion (tag : Nat) (st : CplStatus) (poisoned : Bool) (data : List Word) (s : State) : Out :=
  done s fun e => e.completion tag st poisoned data

/-- COMPLETION_TIMEOUT (R283). -/
def execCompletionTimeout (tag : Nat) (s : State) : Out := done s fun e => e.completionTimeout tag

/-- ENTRY_READ (R257): the job in a slot reads its directory entry; MEM is woken where it does not run. -/
def execEntryRead (k : Fin 4) (us : List Upset) (s : State) : Out :=
  if s.eng.slotAt k .entry then
    if s.eng.memServes then
      match s.entryRead k us with
      | .error f => .fault f
      | .ok s => doneS s
    else done s fun e => { e with job.waitMem := e.job.waitMem || decide (32 ≤ e.hinge.s.head.out.length) }.demand 13
  else doneS s

/-- BLOCK_READ (R257). -/
def execBlockRead (k : Fin 4) (us : List Upset) (s : State) : Out :=
  if s.eng.slotAt k .block then
    if s.eng.memServes then
      match s.blockRead k us with
      | .error f => .fault f
      | .ok s => doneS s
    else done s fun e => { e with job.waitMem := e.job.waitMem || decide (32 ≤ e.hinge.s.head.out.length) }.demand 13
  else doneS s

/-- DECODE_BLOCK (R215, R219): the decompressor is woken where it does not run. -/
def execDecodeBlock (s : State) : Out :=
  done s fun e => match e.job.decQ with
    | [] => e
    | d :: _ => if e.slotLive d.slot then (if e.isOn 11 then e.decodeBlock else e.demand 11) else e

/-- JOB_WRITEBACK (R260). -/
def execJobWriteback (ring : Fin 64) (s : State) : Out :=
  done s fun e => if e.wbReady ring then e.writeback ring
    else if (e.ent ring).ended.isSome && !(e.ent ring).wb && e.canIssue then { e with job.waitHost := true } else e

/-- STAGING_WORD_DELIVERY (R229): up to two words a cycle (R223). -/
def execStagingWordDelivery (u : Option Upset) (s : State) : Out :=
  done s fun e => if e.isOn 12 && decide (e.cyc.delivered < 2) then e.delivery u else e

/-- DROP_REST (R231). -/
def execDropRest (s : State) : Out := done s fun e => if e.access then e.dropRest else e

/-- BREAKWATER_RELEASE (R298). -/
def execBreakwaterRelease (s : State) : Out := done s fun e => if e.access then e.bwRelease else e

/-- POSTED_CREDITS_RETURN (R261). -/
def execPostedCreditsReturn (n : Nat) (s : State) : Out :=
  done s fun e => { e with host.credits := e.host.credits + n }.drainOut

end Sys2Proof.Machine
end

