-- ==== Sys2Proof/Machine/Keys.lean ====
section
/-! DEFINITION. Key sessions (R342 to R353): the port's challenge, the response check, failures and lockout, session ends,
programming, the load of the calibration record. -/

namespace Sys2Proof.Machine

namespace Engine

/-- The buffer is cleared (R342). -/
def clearBuf (e : Engine) (p : Nat) : Engine :=
  e.setPort p fun q => { q with buf := List.replicate 8 0#32, idx := 0 }

/-- A write of SEC_BUF. -/
def secBuf (e : Engine) (p : Nat) (v : Word) : Engine :=
  e.setPort p fun q => if q.idx < 8 then { q with buf := q.buf.set q.idx v, idx := q.idx + 1 } else q

/-- SEC_STAT.result of the port. -/
def secResult (e : Engine) (p r : Nat) : Engine := e.setPort p fun q => { q with result := r }

/-- Slot s is locked out. -/
def locked (e : Engine) (s : Nat) : Bool := (e.key s).lock.isSome

/-- arg of a SEC event (R354). -/
def secArg (p s : Nat) : Nat := p * 16 + s

/-- CHALLENGE for slot s (R343). -/
def challenge (e : Engine) (p s : Nat) : Engine :=
  if s = 0 then e
  else if e.locked s then e.secResult p 3
  else if !(e.key s).prog then e.secResult p 4
  else
    let n := Config.nonce e.sec.nonces
    let e := { e with sec.nonces := e.sec.nonces + 1 }
    (e.clearBuf p).setPort p fun q =>
      { q with ctr := min (q.ctr + 1) 0xFFFF, nonce := n, chal := .challenged, slot := s, age := 0 }

/-- RESPOND for slot s: the compare begins where a challenge for s is pending and four words have been written (R344).
Otherwise the result is NO_CHALLENGE, but LOCKED for a slot that is locked out: R346 says so of every RESPOND for it, and
what R344 says first holds of the others (DEDUCED, log entry 65). -/
def respond (e : Engine) (p s : Nat) : Engine :=
  let q := e.port p
  if q.chal = .challenged ∧ q.slot = s ∧ s ≠ 0 ∧ 4 ≤ q.idx then e.setPort p fun q => { q with chal := .checking }
  else e.secResult p (if s ≠ 0 ∧ e.locked s = true then 3 else 5)

/-- The 19 bytes that the digest covers (R343). -/
def secMessage (q : PortSec) (p : Nat) : List Byte :=
  bytesOfNat 16 q.nonce.toNat ++ [BitVec.ofNat 8 p] ++ bytesOfNat 2 q.ctr

/-- The four buffer words are the first 16 bytes of the digest. -/
def secMatches (e : Engine) (p : Nat) : Bool :=
  let q := e.port p
  (q.buf.take 4).flatMap bytesOfWord == (hmac (e.key q.slot).key (secMessage q p)).take 16

/-- An eighth consecutive failure locks the slot out (R346). -/
def lockout (e : Engine) (p s : Nat) : Engine :=
  let l := (e.key s).level
  let e := e.setKey s fun k => { k with consec := 0, level := min (l + 1) 7, lock := some (2 ^ min (10 + l) 16) }
  (e.istat 0x04 4).push 0xE 0x03 0 (secArg p s)

/-- A response that does not match (R344, R346). -/
def secFail (e : Engine) (p s : Nat) : Engine :=
  let e := e.setKey s fun k => { k with fails := min (k.fails + 1) 255, consec := k.consec + 1 }
  let e := ((e.secResult p 2).istat 0x04 2).push 0xE 0x02 1 (secArg p s)
  if 8 ≤ (e.key s).consec then e.lockout p s else e

/-- A response that matches. -/
def secOpened (e : Engine) (p s : Nat) : Engine :=
  let e := (e.keepSess p s).setKey s fun k => { k with consec := 0 }
  let e := e.setPort p fun q => { q with sess := upd q.sess (s - 1) fun _ => some 0, result := 1 }
  (e.istat 0x04 1).pushIf (e.rb R.SEC_CTL 2) 0xE 0x01 3 (secArg p s)

/-- The compare ends (R344). -/
def checkDone (e : Engine) (p : Nat) : Engine :=
  let q := e.port p
  if q.chal ≠ .checking then e
  else
    let s := q.slot
    let e := if e.locked s then e.secResult p 3 else if e.secMatches p then e.secOpened p s else e.secFail p s
    (e.clearBuf p).setPort p fun q => { q with chal := .idle, nonce := 0#128 }

/-- CLOSE (R349); slot 0 closes all. -/
def secClose (e : Engine) (p s : Nat) : Engine :=
  let e := if s = 0 then [1, 2, 3].foldl (fun e t => e.keepSess p t) e else e.keepSess p s
  e.setPort p fun q => { q with sess := if s = 0 then [none, none, none] else upd q.sess (s - 1) fun _ => none }

/-- Every condition of R351. -/
def mayProgram (e : Engine) (p s confirm : Nat) : Bool :=
  let q := e.port p
  e.sessOpen p 3 && confirm == 0xA55A && (e.sys.mode == .measure || e.sys.mode == .unload) && s != 0 && !(e.key s).prog
    && q.idx == 8 && !(q.buf.all fun w => w == 0#32) && !(q.buf.all fun w => w == 0xFFFFFFFF#32)
    && (List.range 3).all fun o => o == p || (e.port o).chal != .programming

/-- PROGRAM (R351). A port has one challenge state, so a challenge that is still pending is given up for the programming, as
one is by a new challenge (R343; DESIGN CHOICE, log entry 65). -/
def program (e : Engine) (p s confirm : Nat) : Engine :=
  if e.mayProgram p s confirm then e.setPort p fun q => { q with chal := .programming, slot := s, nonce := 0#128 }
  else (e.secResult p 8).clearBuf p

/-- Programming ends; burned holds the eight words that the slot reads back (R351). -/
def programDone (e : Engine) (p : Nat) (burned : List Word) : Engine :=
  let q := e.port p
  if q.chal ≠ .programming then e
  else
    let s := q.slot
    let w := (List.range 8).map fun i => burned.getD i 0#32
    let e := [0, 1, 2].foldl (fun e o => e.keepSess o s) e
    let e := e.setKey s fun k => { k with prog := true, key := w.flatMap bytesOfWord, lock := none }
    let e := if w = q.buf then ((e.secResult p 7).istat 0x04 32).push 0xE 0x06 2 (secArg p s)
      else (e.secResult p 9).estat 0x04 2
    (e.clearBuf p).setPort p fun q => { q with chal := .idle }

/-- A SEC_CMD write from the port that names slot s restarts that session's idle count (R349). -/
def secCmdTouch (e : Engine) (p s : Nat) : Engine := if s = 0 then e else e.touchSess p s

/-- While the port programs a key, its other SEC_CMD writes have no effect (R351 does not say; DESIGN CHOICE, log entry
65); while its response is checked, its accesses are held (R344). -/
def secFree (e : Engine) (p : Nat) : Bool := (e.port p).chal != .programming

/-- SEC_CMD by op code (R355). -/
def secCmd (e : Engine) (p : Nat) (v : Word) : Engine :=
  let s := fld v 8 2
  if !e.secFree p then e
  else
    let e := e.secCmdTouch p s
    match fld v 0 3 with
    | 1 => e.challenge p s
    | 2 => e.respond p s
    | 3 => e.secClose p s
    | 4 => e.program p s (fld v 16 16)
    | 5 => e.clearBuf p
    | _ => e

/-- The challenge expires in this boundary cycle: it has reached its age (R345). -/
def expired (e : Engine) (p : Nat) : Bool :=
  let lim := e.rf R.SEC_CTL 16 16
  e.cyc.boundary && (e.port p).chal == .challenged && lim != 0 && decide (lim ≤ (e.port p).age)

/-- A pending challenge expires. -/
def expire (e : Engine) (p : Nat) : Engine :=
  e.setPort p fun q => { q with chal := .idle, nonce := 0#128, result := 6 }

/-- The session's idle count has reached the limit at this boundary (R349). -/
def timedOutSess (e : Engine) (p s : Nat) : Bool :=
  let lim := e.rf R.SEC_CTL 16 16
  e.cyc.boundary && lim != 0 && s != 0 && match (e.port p).sess.getD (s - 1) none with
    | some n => decide (lim ≤ n)
    | none => false

/-- An idle timeout; the writes of this cycle are still let through (R350). -/
def sessTimeout (e : Engine) (p s : Nat) : Engine :=
  ((e.secClose p s).istat 0x04 8).push 0xE 0x04 2 (secArg p s)

/-- The SEC block's tide work: idle counts, the age of challenges, lockouts (R345, R346, R349). -/
def secTide (e : Engine) : Engine :=
  let ports : List PortSec := e.sec.ports.map fun q => { q with
    age := q.age + (if q.chal = .challenged then 1 else 0), sess := q.sess.map fun o => o.map (· + 1) }
  let slots : List KeySlot := e.sec.slots.map fun k => { k with lock := k.lock.map (· - 1) }
  { e with sec := { e.sec with ports := ports, slots := slots, said := false } }

/-- Sessions of a port end, with no report (R294, R349). -/
def endSessions (e : Engine) (p : Nat) : Engine := e.secClose p 0

/-- The port's latches return to their state before any read (R294). -/
def endLatches (e : Engine) (p : Nat) : Engine := e.setLatch p fun _ => {}

/-- The calibration record's load is reported where it is bad (R353). -/
def chartReport (e : Engine) : Engine := if chartOk then e else (e.estat 0x04 1).push 0xE 0x07 0 0

end Engine

/-! ### The commands -/

/-- RESPONSE_CHECK_COMPLETE (R344). -/
def execResponseCheckComplete (p : Port) (s : State) : Out := done s fun e => e.checkDone (portCode p)

/-- PROGRAM_COMPLETE (R351). -/
def execProgramComplete (p : Port) (burned : List Word) (s : State) : Out :=
  done s fun e => e.programDone (portCode p) burned

/-- CHALLENGE_EXPIRED (R345). -/
def execChallengeExpired (p : Port) (s : State) : Out :=
  done s fun e => if e.expired (portCode p) then e.expire (portCode p) else e

/-- SEC_TIMEOUT (R349, R350). -/
def execSecTimeout (p : Port) (slot : BitVec 2) (s : State) : Out :=
  done s fun e => if e.timedOutSess (portCode p) slot.toNat then e.sessTimeout (portCode p) slot.toNat else e

/-- LOCKOUT_END (R346). -/
def execLockoutEnd (slot : BitVec 2) (s : State) : Out :=
  done s fun e => if slot ≠ 0#2 ∧ (e.key slot.toNat).lock = some 0 then e.setKey slot.toNat fun k => { k with lock := none } else e

end Sys2Proof.Machine
end

