-- ==== Sys2Proof/Machine/HostLink.lean ====
section
/-! DEFINITION. The PCI Express link: training and speed (R270), power states (R291, R292), PME (R290), the resets of the
port (R294, R295). -/

namespace Sys2Proof.Machine

namespace Engine

/-- Configuration space of a function takes its reset values, AER sticky registers apart (R294); with PME_Status goes the
time of its last message. -/
def cfgReset (e : Engine) (fn : Nat) : Engine :=
  let e := e.clearRegs fun k => decide (cfgKey fn 0 ≤ k) && decide (k < cfgKey fn 0x1000)
    && !(decide (cfgKey fn 0x104 ≤ k) && decide (k ≤ cfgKey fn 0x128))
  { e with host.pmeAt := upd e.host.pmeAt fn fun _ => none }

/-- What a function has asked for is dropped. -/
def heldDrop (e : Engine) (p : Port) : Engine := { e with host.held := e.host.held.filter fun h => h.port != p }

/-- The first row of R294. -/
def pcieReset (e : Engine) : Engine :=
  let e := ((((e.cfgReset 0).cfgReset 1).jobsReset).heldDrop .f0).heldDrop .f1
  let e := { e with host.bw := .opened }
  (((e.endSessions 0).endSessions 1).endLatches 0).endLatches 1

/-- The Data Link Layer goes down (R270, R288, R294). -/
def linkDown (e : Engine) : Engine :=
  if e.host.up then
    let e := { e with host := { e.host with
      up := false, speed := 0, width := 0, pm := .down, credits := 0, speedReq := false, inta := false, intb := false
      ltrOn := false } }.pcieReset
    (e.istat 0x25 2).push 0xB 0x02 1 0
  else e

/-- The speed that the engine asks for (R270). -/
def wantSpeed (e : Engine) : Nat :=
  let t := fld (e.cfg 0 0x80) 0 4
  min (e.rf R.HOST_CTL 0 4) (min (if t = 0 then 1 else t) e.host.peer)

/-- The link may train: boot has ended and PERST_N is high (R69). -/
def mayTrain (e : Engine) : Bool :=
  !e.host.up && !e.pwr.perst && e.pwr.enCore && (match e.sys.phase with
    | .run | .waking | .coreReset => true
    | _ => false)

/-- The Data Link Layer comes up at 2.5 GT/s: peer is the highest rate that both ports support, width the widest that
both have (R270). -/
def linkUp (e : Engine) (peer width : Nat) : Engine :=
  let w := if e.rb R.HOST_CTL 8 then 1 else max 1 (min width 2)
  let e := { e with host := { e.host with
    up := true, speed := 1, width := w, pm := .l0, peer := max 1 (min peer 4), clkreq := true } }
  let e := { e with host.speedReq := e.rb R.HOST_CTL 4 && decide (1 < e.wantSpeed) }
  (e.istat 0x25 1).push 0xB 0x01 2 (w * 16 + 1)

/-- At 8.0 GT/s and above the link has passed equalization, phase by phase (R269; the places are PRESUMED, log entry
11). -/
def equalized (e : Engine) : Engine :=
  let e := if 3 ≤ e.host.speed then e.wr (cfgKey 0 0x80) (e.cfg 0 0x80 ||| 0x1E0000#32) else e
  if 4 ≤ e.host.speed then e.wr (cfgKey 0 0x184) (e.cfg 0 0x184 ||| 0xF#32) else e

/-- The link passes through Recovery (R270). -/
def recovery (e : Engine) (requested : Bool) : Engine :=
  let e := if requested then e else e.count R.HOST_RETRAIN_CNT
  let e := if e.rb R.HOST_CTL 4 then { e with host := { e.host with speed := e.wantSpeed, speedReq := false } }.equalized else e
  e.linkWake

/-- Function Level Reset (R294). -/
def flr (e : Engine) (fn : Nat) : Engine :=
  let e := (e.cfgReset fn).heldDrop (if fn = 0 then .f0 else .f1)
  let e := if fn = 0 then e.jobsReset else e
  ((((e.endSessions fn).endLatches fn).istat 0x25 16)).push 0xB 0x05 1 fn

/-- PM_PME may be sent: PME_Status is set, the link is up, and 100 ms have passed since the last one (R290). -/
def pmeDue (e : Engine) (fn : Nat) : Bool :=
  bit (e.cfg fn 0x44) 15 && e.host.up && !e.sys.mode.isSleep && match e.host.pmeAt.getD fn none with
    | some t => decide (t + 62500000 ≤ e.time.now)
    | none => true

/-- No TLP is pending in either direction and no non-posted request is outstanding (R289, R291). A TLP that has been sent
counts as acknowledged by the time that the idle time has passed. -/
def tlpIdle (e : Engine) : Bool :=
  e.job.outQ.isEmpty && e.job.reads.isEmpty && e.host.held.all fun h => h.port == .i2c

/-- A latency of an LTR field, ns: value and scale, no requirement being the longest. -/
def ltrNs (w : Nat) : Option Nat := if w / 2 ^ 15 % 2 = 0 then none else some (w % 1024 * 32 ^ (w / 1024 % 8))

/-- The threshold of L1 PM Substates Control 1 in ns. -/
def l12Threshold (e : Engine) : Nat :=
  let c := e.cfg 0 0x1C8
  fld c 16 10 * 32 ^ fld c 29 3

/-- The latencies last reported allow L1.2: each is absent or reaches the threshold (R292; the comparison is that of the PCI
Express specification, PRESUMED, log entry 11). -/
def ltrAllowsL12 (e : Engine) : Bool :=
  !e.host.ltrOn ||
    (let v := (e.rd (if e.host.ltrAct then R.HOST_LTR_ACT else R.HOST_LTR_IDLE)).toNat
     [v % 65536, v / 65536].all fun w => match ltrNs w with
       | none => true
       | some n => decide (e.l12Threshold ≤ n))

/-- Both functions are in D3hot: L1 is entered under PCI-PM (R289). -/
def pciPm (e : Engine) : Bool := e.d3 0 && e.d3 1

/-- The state that L1 entry reaches (R291, R292): the PCI-PM enables hold under PCI-PM, the ASPM enables under ASPM, where
L1.2 also asks for the latencies. -/
def l1State (e : Engine) : LinkPm :=
  let c := e.cfg 0 0x1C8
  if e.pciPm then (if bit c 0 then .l12 else if bit c 1 then .l11 else .l1)
  else if bit c 2 && e.ltrAllowsL12 then .l12 else if bit c 3 then .l11 else .l1

/-- L1 is enabled: ASPM L1 after its idle time, or both functions in D3hot (R289, R291). -/
def l1Allowed (e : Engine) (idleUs : Nat) : Bool :=
  (bit (e.cfg 0 0x60) 1 && decide (e.rf R.HOST_ASPM 8 8 ≤ idleUs)) || e.pciPm

end Engine

/-! ### The commands -/

/-- HOST_LINK_UP (R69, R270). -/
def execHostLinkUp (peer width : Nat) (s : State) : Out :=
  done s fun e => if e.mayTrain then e.linkUp peer width else e

/-- HOST_LINK_DOWN (R270, R288, R294). -/
def execHostLinkDown (s : State) : Out := done s fun e => e.linkDown

/-- LINK_RECOVERY (R270): requested, where the engine has asked for a speed change. -/
def execLinkRecovery (requested : Bool) (s : State) : Out :=
  done s fun e => if e.host.up then e.recovery (requested && e.host.speedReq) else e

/-- PCI_EXPRESS_RESET (R294). -/
def execPciExpressReset (c : PciReset) (s : State) : Out :=
  done s fun e =>
    let e := if c = .perst then { e with pwr.perst := true } else e
    if e.host.up then e.linkDown else e.pcieReset

/-- PERST_N_RELEASE (R69). -/
def execPerstNRelease (s : State) : Out := done s fun e => { e with pwr.perst := false }

/-- FLR (R294). -/
def execFlr (fn : Fin 2) (s : State) : Out := done s fun e => if e.host.up then e.flr fn else e

/-- PM_PME (R290). -/
def execPmPme (fn : Fin 2) (s : State) : Out :=
  done s fun e => if e.pmeDue fn then
      { e.send (.pmPme fn) with host.pmeAt := upd e.host.pmeAt fn fun _ => some e.time.now }
    else e

/-- L0S_ENTRY (R291): idle coarse cycles without a TLP or DLLP to send. -/
def execL0sEntry (idle : Nat) (s : State) : Out :=
  done s fun e =>
    if e.host.pm = .l0 ∧ bit (e.cfg 0 0x60) 0 = true ∧ 8 * e.rf R.HOST_ASPM 0 8 ≤ idle then { e with host.pm := .l0s } else e

/-- L1_ENTRY (R291, R292): in a substate the engine releases CLKREQ_N. -/
def execL1Entry (idleUs : Nat) (s : State) : Out :=
  done s fun e =>
    if (e.host.pm = .l0 ∨ e.host.pm = .l0s) ∧ e.l1Allowed idleUs = true ∧ e.tlpIdle = true then
      { e with host := { e.host with pm := e.l1State, clkreq := e.host.clkreq && e.l1State == .l1 } }
    else e

/-- CLKREQ_N_ASSERTED (R63, R292): the root port leaves L1.2; in DOZE that is the wake source pcie. -/
def execClkreqNAsserted (s : State) : Out :=
  done s fun e =>
    let was := e.host.pm
    let e := { e with host.clkreq := true }
    if was = .l11 ∨ was = .l12 then
      let e := { e with host.pm := .l0 }
      if e.sys.mode = .doze ∨ e.sys.trans.isSome then e.wakeSource 6 else e
    else e

end Sys2Proof.Machine
end

