-- ==== Sys2Proof/Machine/Sequencer.lean ====
section
/-! DEFINITION. The trigger sequencer and the pattern matchers (R141 to R166). -/

namespace Sys2Proof.Machine

/-! ### Pattern matchers (R162, R163) -/

/-- The level condition of a matcher for a word. -/
def levelMatch (mode mask value hi w : Nat) : Bool :=
  let m := w &&& mask
  match mode with
  | 0 => m == (value &&& mask)
  | 1 => m != (value &&& mask)
  | 2 => decide (value ≤ m) && decide (m ≤ hi)
  | _ => decide (m < value) || decide (hi < m)

/-- The edge condition: every coded bit moved as coded. -/
def edgeMatch (codes : Word) (prev w : BitVec 14) : Bool :=
  (List.range 14).all fun b =>
    let was := prev.getLsbD b
    let is := w.getLsbD b
    match fld codes (2 * b) 2 with
    | 0 => true
    | 1 => !was && is
    | 2 => was && !is
    | _ => was != is

namespace Engine

/-- Matcher k over the words of one cycle: whether it matches at each. -/
def patWords (e : Engine) (k : Nat) (fast : Bool) (ws : List (BitVec 14)) : Matcher × List Bool :=
  let base := R.PAT0_CFG + 16 * k
  let per := e.rf base 0 16 * (if fast then 4 else 1)
  ws.foldl (fun (a : Matcher × List Bool) w =>
    let lvl := levelMatch (e.rf base 29 2) (e.rf (base + 4) 16 14) (e.rf (base + 4) 0 14) (e.rf (base + 8) 0 14) w.toNat
    let run := if lvl then min (a.1.run + 1) (per + 1) else 0
    let edg := edgeMatch (e.rd (base + 12)) (a.1.prev.getD w) w
    ({ run := run, prev := some w }, a.2 ++ [edg && run == per + 1])) (e.seq.pats.getD k {}, [])

/-- All matchers for a word: per matcher, its matches at each sub-cycle. -/
def patAll (e : Engine) (s : Seen) : Engine × List (List Bool) :=
  let fast := (e.lane 0).fast
  (List.range 8).foldl (fun (a : Engine × List (List Bool)) k =>
    let e := a.1
    let base := R.PAT0_CFG + 16 * k
    let m := e.rf base 26 2
    let ws := if (e.lane m).running then s.words.getD m [] else []
    let r := e.patWords k fast ws
    if e.rb base 31 then
      let e := { e with seq.pats := upd e.seq.pats k fun _ => r.1 }
      (if r.2.any id then e.istat 0x1A (2 ^ k) else e, a.2 ++ [r.2])
    else ({ e with seq.pats := upd e.seq.pats k fun _ => { r.1 with run := 0 } }, a.2 ++ [[]])) (e, [])

/-! ### Sources and branches (R143 to R146) -/

/-- RG or AM for the lane that SEQ_SRC selects (R144). -/
def anyLane (e : Engine) (sel : Nat) (bits : BitVec 4) : Bool :=
  (List.range 4).any fun m => (sel == m || sel == 4) && (e.lane m).running && bits.getLsbD m

/-- XT for a word (R160). -/
def xtOf (e : Engine) (s : Seen) : Bool :=
  match e.rf R.SEQ_SRC 10 2 with
  | 0 => s.lvl
  | 1 => !s.lvl
  | 2 => s.rise
  | _ => s.fall

/-- Timer k for word c (R151). -/
def tmTrue (e : Engine) (k : Nat) (c : Nat) : Bool :=
  decide ((max (e.rd (R.SEQ_TMLIM0 + 4 * k)).toNat 1 : Nat) ≤ (c : Int) - e.seq.tm.getD k 0)

/-- A source for word c (R144). -/
def source (e : Engine) (c : Nat) (s : Seen) (pm : List (List Bool)) (code : Nat) : Bool :=
  if code < 0x08 then (pm.getD code []).any id
  else if code < 0x0C then
    let k := code - 0x08
    if e.rb R.SEQ_CN_CFG (8 + k) then e.rb R.SEQ_SAT k
    else decide ((e.rd (R.SEQ_CMP0 + 4 * k)).toNat ≤ (e.seq.cn.getD k 0#32).toNat)
  else if code < 0x10 then e.tmTrue (code - 0x0C) c
  else if code < 0x20 then s.fires.getLsbD (code - 0x10)
  else if code < 0x24 then s.tw.getLsbD (code - 0x20)
  else if code = 0x24 then e.xtOf s
  else if code = 0x25 then e.anyLane (e.rf R.SEQ_SRC 0 3) s.rg
  else if code = 0x26 then e.anyLane (e.rf R.SEQ_SRC 4 3) s.am
  else false

/-- Keys of the current level's registers. -/
def condKey (e : Engine) (b : Nat) : Nat := win (R.SEQL_COND_A + 4 * b) e.seq.level
def actKey (e : Engine) (b : Nat) : Nat := win (R.SEQL_ACT_A + 4 * b) e.seq.level

/-- The condition of branch b for a word (R143). -/
def branchCond (e : Engine) (c : Nat) (s : Seen) (pm : List (List Bool)) (b : Nat) : Bool :=
  let w := e.rd (e.condKey b)
  let used := ((List.range 4).filter fun k => fld w (7 * k) 6 != 0x3F).map fun k =>
    e.source c s pm (fld w (7 * k) 6) != bit w (7 * k + 6)
  if used.isEmpty then true else if bit w 30 then used.any id else used.all id

/-- The occurrence value of branch b (R146). -/
def occOf (e : Engine) (b : Nat) : Nat :=
  e.rf (win (if b < 2 then R.SEQL_OCC_AB else R.SEQL_OCC_CD) e.seq.level) (16 * (b % 2)) 16

/-- The branches of the current level for word c: counts, and the winner (R146, R147). -/
def branches (e : Engine) (c : Nat) (s : Seen) (pm : List (List Bool)) : Engine × Option Nat :=
  (List.range 4).foldl (fun (a : Engine × Option Nat) b =>
    let e := a.1
    if !e.rb (e.condKey b) 31 then a
    else
      let x := e.branchCond c s pm b
      let hit := if e.rb (e.condKey b) 29 then x && !e.seq.xprev.getD b false else x
      let n := e.seq.cnt.getD b 0
      let n' := if hit && n < e.occOf b then n + 1 else n
      let e := { e with seq := { e.seq with xprev := upd e.seq.xprev b fun _ => x, cnt := upd e.seq.cnt b fun _ => n' } }
      (e, a.2.orElse fun _ => if hit && n' == e.occOf b then some b else none)) (e, none)

/-! ### Actions (R148 to R159) -/

/-- Q's storage of word c in the accounts that exist (R155). -/
def storeQ (e : Engine) (c : Nat) (on : Bool) : Engine :=
  { e with recb.streams := e.recb.streams.map fun st =>
      { st with cycs := st.cycs.map fun x => if x.n = c then { x with qOn := on } else x } }

/-- A pulse on TRIG_OUT, 4 cu after the decision cycle (R159). One that runs when it starts goes on to the new end. -/
def pulse (e : Engine) : Engine :=
  let a := e.time.now + 4
  let b := a + (e.rf R.SEQ_CTL 11 4 + 1) * 8
  let runs (p : Nat × Nat) : Bool := decide (a ≤ p.2)
  { e with seq.pulses := match e.seq.pulses.find? runs with
      | some p => e.seq.pulses.filter (fun q => !runs q) ++ [(p.1, b)]
      | none => e.seq.pulses ++ [(a, b)] }

/-- Restarts timer k for word c (R151). -/
def tmRestart (e : Engine) (k : Nat) (c : Int) : Engine :=
  { e with seq := { e.seq with tm := upd e.seq.tm k fun _ => c, tmSeen := e.seq.tmSeen &&& ~~~BitVec.ofNat 4 (2 ^ k) } }

/-- Time field of an event of word c (R167). -/
def wordTime (e : Engine) (c : Nat) : Nat := (e.tbOf c).toNat

/-- An increment of counter k (R150). -/
def cnInc (e : Engine) (k c : Nat) : Engine :=
  let v := e.seq.cn.getD k 0#32
  if v = 0xFFFFFFFF#32 then
    if e.rb R.SEQ_CN_CFG k then e else { e with seq.cn := upd e.seq.cn k fun _ => 0#32 }
  else
    let e := { e with seq.cn := upd e.seq.cn k fun v => v + 1#32 }
    if v = 0xFFFFFFFE#32 then
      ((e.hwSet R.SEQ_SAT (w32 (2 ^ k))).istat 0x18 (2 ^ (4 + k))).pushAt 0x5 0x03 2 k (e.wordTime c)
    else e

/-- A clear of counter k. -/
def cnClear (e : Engine) (k : Nat) : Engine :=
  { e.wr R.SEQ_SAT (e.rd R.SEQ_SAT &&& ~~~w32 (2 ^ k)) with seq.cn := upd e.seq.cn k fun _ => 0#32 }

/-- Enters a level for word c; branch and old level are those of SEQ_LAST (R148). -/
def enterLevel (e : Engine) (lvl br : Nat) (c : Nat) : Engine :=
  let e := e.wr R.SEQ_LAST (w32 (lvl * 2 ^ 28 + e.seq.level * 2 ^ 24 + br * 2 ^ 22 + e.wordTime c % 2 ^ 20))
  let e := { e with seq := { e.seq with level := lvl, cnt := [0, 0, 0, 0], xprev := [false, false, false, false] } }
  if e.rb (win R.SEQL_LVL lvl) 7 then e.tmRestart (e.rf (win R.SEQL_LVL lvl) 4 2) c else e

/-- The trigger protects block P of each recording stream (R194). -/
def protect (e : Engine) (t : Time) : Engine :=
  let lim := t - BitVec.ofNat 56 e.seq.pre
  (List.range 5).foldl (fun e s =>
    if (e.stream s).on then e.setMem s fun m =>
      let old := m.live.filter fun l => decide ((lim - l.firstT).toNat < 2 ^ 55)
      { m with prot := (match old.getLast? with
          | some l => some l.idx
          | none => m.live.head?.map (·.idx)) }
    else e) e

/-- The trigger fires for word c (R153, R154). -/
def trigger (e : Engine) (c : Nat) (forced : Bool) (br sub : Nat) : Engine :=
  let short := decide (c < e.seq.arm + e.seq.pre)
  let lvl := e.seq.level
  let e := { e with seq := { e.seq with fired := true, trigTb := e.tbOf c, trigAt := some c, trigSub := sub }
                    sys := { e.sys with mode := .capture, target := .capture, hwAt := e.time.now } }
  let e := e.inAll c fun x => { x with
    trig := some (markItem 1 (at1 forced 9 + at1 short 8 + br * 64 + sub * 16 + lvl)) }
  let e := e.istat 0x18 1
  let e := if e.rb R.SEQ_CTL 7 then e.pushAt 0x5 0x01 1 (at1 forced 6 + br * 16 + lvl) (e.wordTime c) else e
  (if e.rb R.SEQ_CTL 10 then e.pulse else e).protect (e.tbOf c)

/-- A fire action of branch br for word c (R153). -/
def fireAction (e : Engine) (c br sub : Nat) : Engine :=
  if e.seq.fired then e
  else if !e.seq.preHold || e.seq.arm + e.seq.pre ≤ c then e.trigger c false br sub
  else
    if e.seq.holdSaid then e
    else { (e.istat 0x18 4).pushAt 0x5 0x04 3 (br * 16 + e.seq.level) (e.wordTime c) with seq.holdSaid := true }

/-- The lowest sub-cycle at which a non-inverted PM slot of the branch matched (R161). -/
def subOf (e : Engine) (pm : List (List Bool)) (b : Nat) : Nat :=
  let w := e.rd (e.condKey b)
  let hits := (List.range 4).filterMap fun k =>
    if fld w (7 * k) 6 < 8 ∧ !bit w (7 * k + 6) then ((pm.getD (fld w (7 * k) 6) []).findIdx? id) else none
  if (e.lane 0).fast then hits.foldl min (hits.headD 0) else 0

/-- The winner's actions, all of word c (R149). -/
def winner (e : Engine) (c b sub : Nat) : Engine :=
  let a := e.rd (e.actKey b)
  let lvl := e.seq.level
  let next := fld a 28 4
  let e := { e with seq.cnt := upd e.seq.cnt b fun _ => 0 }
  let e := if bit a 27 then e.fireAction c b sub else e
  let e := match fld a 25 2 with
    | 1 => { e.storeQ c true with seq.q := true }
    | 2 => { e with seq.q := false }
    | _ => e
  let e := if bit a 24 then e.inAll c fun x => { x with levels := x.levels ++ [markItem 2 (b * 256 + lvl * 16 + next)] } else e
  let e := if bit a 23 then e.pulse else e
  let e := match fld a 21 2 with
    | 1 => e.cnInc (fld a 19 2) c
    | 2 => e.cnClear (fld a 19 2)
    | _ => e
  let e := if bit a 18 then e.tmRestart (fld a 16 2) c else e
  let e := if bit a 15 then (e.istat 0x18 2).pushAt 0x5 0x02 (fld a 13 2) (b * 16 + lvl) (e.wordTime c) else e
  if next = lvl then e else e.enterLevel next b c

/-- What the sequencer is given for word c: lanes without a frame of the cycle keep their last words (R333). -/
def seenAt (e : Engine) (c : Nat) : Seen :=
  let h := e.seq.held
  match e.seq.seen.find? fun s => s.n == c with
  | some s =>
    let has (m : Nat) : Bool := !(s.words.getD m []).isEmpty
    { s with words := (List.range 4).map fun m => if has m then s.words.getD m [] else h.words.getD m []
             rg := BitVec.ofNat 4 (mapBits 4 fun m => if has m then s.rg.getLsbD m else h.rg.getLsbD m)
             am := BitVec.ofNat 4 (mapBits 4 fun m => if has m then s.am.getLsbD m else h.am.getLsbD m) }
  | none => { h with n := c, fires := 0#16, tw := 0#4, rise := false, fall := false }

/-- The decision for word c (R145, R146). -/
def decision (e : Engine) (c : Nat) : Engine :=
  let s := e.seenAt c
  let p := e.patAll s
  let e := (p.1.setBlk 7 fun b => { b with worked := true }).setBlk 8 fun b => { b with worked := true }
  let r := (e.storeQ c e.seq.q).branches c s p.2
  let e := match r.2 with
    | some b => r.1.winner c b (r.1.subOf p.2 b)
    | none => r.1
  { e with seq := { e.seq with next := c + 1, held := s, seen := e.seq.seen.filter fun x => c < x.n } }

/-- The word whose decision falls in this cycle, once per cycle (R145). -/
def canDecide (e : Engine) : Bool :=
  e.seq.running && e.isOn 7 && e.sys.ending.isNone && decide (e.seq.arm + 6 ≤ e.time.now) && decide (e.seq.next ≤ e.time.now - 6)

/-- The first cycle of a run (R142): compare fires and TRIG_IN edges of that cycle that came before belong to its word.
SEQ_STAT.trig_sub clears with fired: R141 keeps SEQ_STAT until the next run begins and R142 names fired alone (DESIGN
CHOICE, log entry 52). -/
def seqStart (e : Engine) (arm : Nat) : Engine :=
  let e := e.wr R.SEQ_SAT 0#32
  let e := { e with seq := { e.seq with
    running := true, fired := false, q := e.rb R.SEQ_CTL 9, level := 0, cnt := [0, 0, 0, 0]
    xprev := [false, false, false, false], cn := [0#32, 0#32, 0#32, 0#32]
    tm := [(arm : Int) - 1, (arm : Int) - 1, (arm : Int) - 1, (arm : Int) - 1], tmSeen := 0#4
    arm := arm, pre := (e.rd R.SEQ_PRE).toNat, post := (e.rd R.SEQ_POST).toNat, preHold := e.rb R.SEQ_CTL 8
    preMet := false, holdSaid := false, trigSub := 0, trigAt := none, next := arm
    seen := [{ n := arm, lvl := e.seq.trigIn, fires := e.cyc.fires, rise := e.cyc.trigRise, fall := e.cyc.trigFall }]
    held := { n := 0, lvl := e.seq.trigIn }, pats := List.replicate 8 {}, pulses := [] } }
  if e.rb (win R.SEQL_LVL 0) 7 then e.tmRestart (e.rf (win R.SEQL_LVL 0) 4 2) ((arm : Int) - 1) else e

/-- The run ends (R159). -/
def seqStop (e : Engine) : Engine :=
  { e with seq := { e.seq with running := false, stopped := e.seq.next, pulses := [], seen := [] } }

/-- A sample of TRIG_IN (R160). -/
def trigIn (e : Engine) (level : Bool) : Engine :=
  let was := e.seq.trigIn
  ({ e with seq.trigIn := level, cyc.trigRise := e.cyc.trigRise || (level && !was)
            cyc.trigFall := e.cyc.trigFall || (!level && was) }).setSeen e.time.now fun s =>
    { s with lvl := level, rise := s.rise || (level && !was), fall := s.fall || (!level && was) }

end Engine

/-! ### The commands -/

/-- SEQUENCER_DECISION (R145): the decision cycle of word c is c + 6. -/
def execSequencerDecision (s : State) : Out :=
  done s fun e => if e.canDecide then e.decision (e.time.now - 6) else e

/-- TIMER_LIMIT (R151). -/
def execTimerLimit (k : Fin 4) (s : State) : Out :=
  done s fun e =>
    if e.seq.running && e.tmTrue k e.seq.next && !e.seq.tmSeen.getLsbD k then
      { e with seq.tmSeen := e.seq.tmSeen ||| BitVec.ofNat 4 (2 ^ k.val) } else e

/-- PRE_TRIGGER_MET (R152). -/
def execPreTriggerMet (s : State) : Out :=
  done s fun e => if e.seq.running && e.seq.arm + e.seq.pre ≤ e.time.now then { e with seq.preMet := true } else e

/-- TRIG_OUT_PULSE_END (R159). -/
def execTrigOutPulseEnd (s : State) : Out :=
  done s fun e => { e with seq.pulses := e.seq.pulses.filter fun p => decide (e.time.now < p.2) }

/-- TRIG_IN_EDGE (R160): TRIG_IN is sampled at a level. -/
def execTrigInEdge (level : Bool) (s : State) : Out := done s fun e => e.trigIn level

end Sys2Proof.Machine
end

