-- ==== Sys2Proof/Machine/Runs.lean ====
section
/-! DEFINITION. The beginning and the end of a run across the blocks (R60, R61, R93, R141, R142, R177, R195, R256, R262),
and the blocks that a failed Hinge-S loses (R58). -/

namespace Sys2Proof.Machine

namespace Engine

/-! ### The end of a run -/

/-- Marks of a type that channel b of lane m has after cycle n. -/
def marksAfter (e : Engine) (m b n type : Nat) : Nat :=
  (((e.stream m).cycs.filter fun c => n < c.n).map fun c =>
    (c.fe.filter fun x => x.item.toNat / 1024 % 16 == type && x.item.toNat % 64 == 14 * m + b).length).sum

/-- A condition was open at cycle n: it is now, with each mark after n undone. -/
def openAt (e : Engine) (m b n type : Nat) (now : Bool) : Bool := now != (e.marksAfter m b n type % 2 == 1)

/-- A lane stops after cycle n: conditions open there close there (R93). -/
def laneStop (e : Engine) (m n : Nat) : Engine :=
  if !(e.lane m).running then e
  else
    let e := (List.range 14).foldl (fun e b =>
      let r := e.openAt m b n 6 (e.chan m b).rg
      let a := e.openAt m b n 5 (e.chan m b).ep
      let e := if r then e.chanMark m b n false false else e
      if a then e.chanMark m b n false true else e) e
    let cs : List ChanSt := (e.lane m).chans.map fun c => { c with rg := false, ep := false }
    e.setLane m fun l => { l with running := false, chans := cs }

/-- The Shoal-routed blocks that a failed Hinge-S loses (R58): counted, without gap blocks. -/
def dropShoal (e : Engine) : Engine :=
  let g := e.stg
  let n := (g.blks.filter fun b => !b.blk.live && !b.marker && undelivered b).length
    + (e.recb.waiting.filter fun b => !b.live && !b.gap).length + g.toPlace.length
  let e := e.countN R.STG_DROP_CNT n
  let keep : List SBlk := g.blks.filter fun b => b.blk.live || !undelivered b
  let inFill := keep.any fun b => b.bank == g.fill
  ({ e with
    stg := { g with blks := keep, toPlace := [], eps := List.replicate 5 none
                    wp := if inFill then g.wp else 0, sealed := g.sealed && inFill }
    recb := { e.recb with waiting := e.recb.waiting.filter (·.live) } }).runEnd

/-- Words that the sequencer has not decided are stored by Q as it stands (R155). -/
def storeRest (e : Engine) : Engine :=
  let q := e.seq.q
  let k := e.seq.next
  let ss : List Stream := e.recb.streams.map fun st =>
    { st with cycs := st.cycs.map fun c => if k ≤ c.n then { c with qOn := q } else c }
  { e with recb := { e.recb with streams := ss } }

/-- The recorder's run begins or ends. -/
def setRunning (e : Engine) (on : Bool) : Engine := { e with recb := { e.recb with running := on } }

/-- Recording ends after cycle n with MARK.STOP of a cause (R61, R156, R186). -/
def endRun (e : Engine) (n cause : Nat) : Engine :=
  if !e.recb.running then e
  else
    let e := (List.range 4).foldl (fun e m => e.laneStop m n) e.storeRest
    let e := ((List.range 5).foldl (fun e s => e.stopStream s n cause) e).drain (e.time.now - 6) n 7
    let e := e.seqStop.setRunning false
    if e.hinge.s.st = .fault then e.dropShoal else e.runEnd

/-- A run is lost without MARK.STOP (R70); its open blocks go with what staging holds (R236). -/
def loseRun (e : Engine) : Engine :=
  let ls : List Lane := e.lanes.map fun l => { l with running := false }
  let ss : List Stream := e.recb.streams.map fun st => { st with on := false, cycs := [] }
  { e with lanes := ls, recb := { e.recb with running := false, streams := ss } }.seqStop

/-! ### The beginning of a run -/

/-- The lanes at the first cycle of a run (R82, R93, R94). -/
def lanesStart (e : Engine) (arm : Nat) : Engine :=
  (List.range 4).foldl (fun e m =>
    let on := e.laneWanted m
    let fast := m == 0 && e.fastSet
    e.setLane m fun l => { l with
      running := on, fast := fast, chans := List.replicate 14 {}, words := [], rgVec := 0#14, amVec := 0#14
      evalTo := arm, intactTo := arm, damaged := 0 }) e

/-- MARK.TIDE in the boundary cycle of the streams that take it (R185). -/
def tideMarks (e : Engine) : Engine :=
  let mark := markItem 9 (e.time.tb.toNat / 2 ^ e.tideN % 1024)
  (List.range 5).foldl (fun e s =>
    if e.recb.tideMark.testBit s && e.recb.running then e.inCyc s e.time.now fun c => { c with tide := some mark } else e) e

/-- A new run whose first cycle is arm (R61, R142); an arming request has it in the boundary cycle itself. -/
def runStart (e : Engine) (arm : Nat) : Engine :=
  let rec' (s : Nat) : Bool := e.wouldRec s
  let on := (List.range 5).map rec'
  let sel (s : Nat) : Bool := on.getD s false
  let e := ((e.lanesStart arm).overwrite sel).overtake sel
  let e := (List.range 5).foldl (fun e s => e.streamStart s (sel s) true) e
  let e := ((e.takeParams).memStart sel).seqStart arm
  let peak := (e.recb.streams.map (·.fifo)).foldl max 0
  let e := { e with recb := { e.recb with running := true, peak := peak, closeLeft := 0#5 }, sys.mode := .armed }
  let e := e.inAll arm fun c => c
  if e.cyc.boundary then e.tideMarks else e

/-- Nothing that goes to Shoal is on its way there (R58). -/
def drained (e : Engine) : Bool :=
  !(e.recb.waiting.any fun b => !b.live) && !(e.stg.blks.any fun b => undelivered b && !b.blk.live) && e.stg.toPlace.isEmpty

end Engine
end Sys2Proof.Machine
end

