-- ==== Sys2Proof/Machine/Time.lean ====
section
/-! DEFINITION. Clocks, the time base, slack water and the compare channels (R23 to R48). -/

namespace Sys2Proof.Machine

namespace Engine

/-! ### Time base and compare channels -/

/-- Channel k is due at the present time base (R43). -/
def due (e : Engine) (k : Nat) : Bool :=
  decide ((e.time.tb - (e.time.chans.getD k {}).val).toNat < 2 ^ 55)

/-- Channel k is enabled, and no commit of this cycle has changed it before its time (R43). -/
def chanOn (e : Engine) (k : Nat) : Bool := e.rb R.TB_CMP_EN k

/-- Adds the increment to channel k: it goes on catching up while the new value is still due at this evaluation (R44). -/
def chanAdd (e : Engine) (k : Nat) : Engine :=
  { e with time.chans := upd e.time.chans k fun c =>
      let v := c.val + (e.rd (win R.TB_CMP_RLD k)).setWidth 56
      { c with val := v, catching := decide ((e.time.tb - v).toNat < 2 ^ 55) } }

/-- One add of a catch-up (R44); a channel whose enable has been cleared keeps the value that it has reached. -/
def catchUp (e : Engine) (k : Nat) : Engine :=
  let c := e.time.chans.getD k {}
  if !c.catching then e
  else if e.chanOn k then (e.hwSet R.TB_CMP_LATE (w32 (2 ^ k))).chanAdd k
  else { e with time.chans := upd e.time.chans k fun c => { c with catching := false } }

/-- The catch-up of every channel at an evaluation. -/
def catchAll (e : Engine) : Engine := (List.range 16).foldl catchUp e

/-- A fire of channel k (R44, R45). -/
def fire (e : Engine) (k : Nat) : Engine :=
  let c := e.time.chans.getD k {}
  let e := if e.time.tb = c.val then e else e.hwSet R.TB_CMP_LATE (w32 (2 ^ k))
  let e := if e.rb (win R.TB_CMP_HI k) 31 then e.chanAdd k
    else e.wr R.TB_CMP_EN (e.rd R.TB_CMP_EN &&& ~~~w32 (2 ^ k))
  let e := e.wr (R.TB_FT0 + 4 * k) (e.time.tb.setWidth 32)
  let e := e.istat 0x05 (2 ^ k)
  let e := e.pushIf (e.rb R.TB_EVT_EN k) 0x1 0x01 (e.rf R.TB_EVT_PRIO (2 * k) 2) k
  { e with cyc.fires := e.cyc.fires ||| BitVec.ofNat 16 (2 ^ k) }

/-- The evaluation of channel k can fire: it is enabled, due, not catching up, has not fired in this cycle, and no
commit of this boundary cycle has set it (R43, R44). -/
def canFire (e : Engine) (k : Nat) : Bool :=
  (e.time.counting || (e.time.coasting && e.sys.mode == .doze)) && e.chanOn k && e.due k
    && !(e.time.chans.getD k {}).catching && !e.cyc.fires.getLsbD k && !e.cyc.fresh.getLsbD k

/-- What the engine does at a wrap (R39). -/
def wrap (e : Engine) : Engine :=
  let ep := e.rd R.TB_EPOCH
  let e := e.wr R.TB_EPOCH (if fld ep 0 16 = 65535 then ep ||| 0x80000000#32 else ep + 1#32)
  let e := e.istat 0x05 65536
  let e := e.pushIf (e.rb R.TB_CTL 2) 0x1 0x02 (e.rf R.TB_CTL 0 2) (e.rf R.TB_EPOCH 0 12)
  let e := if e.time.counting then e.inAll e.time.now fun c => { c with close := true } else e
  { e with time.wrapDue := false }

/-- The first X32IN edge after slack water begins stops the coarse count and starts the accumulator at 0 (R41); it is an
edge of the free-running AON count like every other (R111). -/
def slackStop (e : Engine) : Engine :=
  { e with time := { e.time with counting := false, acc := 0 }, pwr.aon := (e.pwr.aon + 1) % 32768 }

/-- A further rising X32IN edge of slack water (R41). -/
def slackStep (e : Engine) : Engine :=
  let t := e.time
  let acc := t.acc + 249
  let inc := if 512 ≤ acc then 19074 else 19073
  let tb := t.tb + BitVec.ofNat 56 inc
  let e := { e with time := { t with
    acc := acc % 512, tb := tb, slackLen := t.slackLen + 1, advance := t.advance + inc
    wrapDue := t.wrapDue || decide (tb.toNat < inc) }, pwr.aon := (e.pwr.aon + 1) % 32768 }
  if e.sys.mode = .doze then e.catchAll else e

/-- The estimate of R42: round(advance × error / 10^9), or none where it leaves the signed 32-bit range. -/
def slackEstimate (adv : Nat) (ppb : Word) : Option Word × Word :=
  let v := roundDiv ((adv : Int) * ppb.toInt) 1000000000
  if v < -(2 ^ 31 : Int) then (none, 0x80000000#32)
  else if (2 ^ 31 : Int) ≤ v then (none, 0x7FFFFFFF#32)
  else (some (BitVec.ofInt 32 v), BitVec.ofInt 32 v)

/-- What a wake writes once coarse counting resumes (R42). -/
def slackWake (e : Engine) : Engine :=
  let t := e.time
  let e := e.wr R.TB_SLACK_LEN (w32 (stick 32 t.slackLen))
  let r := slackEstimate t.advance t.errEntry
  let e := if t.validEntry then
      { e.wr R.TB_SLACK_ERR r.2 with clk.slackValid := r.1.isSome }
    else { e.wr R.TB_SLACK_ERR 0#32 with clk.slackValid := false }
  let e := (e.istat 0x05 (2 ^ 17)).push 0x1 0x05 2 0
  { e with time := { e.time with coasting := false, counting := true, owed := 31#5, slackLen := 0, advance := 0, acc := 0 } }

/-- Slack water begins: the coarse count stops at the next X32IN edge (R41, R62). -/
def slackBegin (e : Engine) : Engine :=
  { e with time := { e.time with coasting := true, acc := 0, slackLen := 0, advance := 0,
                                 errEntry := e.rd R.TB_X32_ERR, validEntry := e.clk.x32Valid } }

/-! ### The PLL (R25 to R27) -/

/-- Expected edges of the selected reference in a window of 1250 cu (2 µs), times 1: 20 MHz gives 40 (R25). XIN is
20 MHz. -/
def expectEdges (e : Engine) (refIn : Bool) : Nat :=
  if refIn then (match e.rf R.CLK_CTL 4 2 with
    | 0 => 10
    | 1 => 20
    | _ => 40) else 40

/-- The count differs from the expected one by more than 12.5 %. -/
def windowFails (expect n : Nat) : Bool := expect < 8 * (max n expect - min n expect)

/-- Holdover is entered (R25, R27, R65). -/
def enterHoldover (e : Engine) : Engine :=
  { e with clk := { e.clk with
    pll := .holdover, start := e.time.now, good := 0, clean := false, since := e.time.now, x32Valid := false } }

/-- The reference is declared lost (R25). -/
def refLoss (e : Engine) : Engine :=
  let e := (e.enterHoldover.count R.CLK_LOSS_CNT).wr R.CLK_HOLD_TIDES 0#32
  let e := (e.istat 0x02 1).anchorAll 0x001
  e.push 0x1 0x03 0 (if e.clk.srcActive then 1 else 0)

/-- The end of a monitor window (R25). -/
def monitorWindow (e : Engine) (n alt : Nat) : Engine :=
  let sel := e.rb R.CLK_CTL 0
  let bad := windowFails (e.expectEdges sel) n
  let second := bad && e.clk.failed
  let e := { e with clk := { e.clk with
    refPresent := !bad
    altPresent := !windowFails (e.expectEdges (!sel)) alt
    failed := bad
    good := if bad then 0 else e.clk.good
    clean := if bad then false else e.clk.clean
    since := if bad then e.time.now else e.clk.since } }
  if second && e.clk.pll == .locked then e.refLoss else e

/-- The selected reference has passed every window for CLK_MON.good_tides consecutive tides (R26). While the engine does
not count, which it does not between a wake and the lock, no boundary delimits a tide, and that many tide lengths of
windows without a failure are taken (DEDUCED, log entry 26). -/
def lockReady (e : Engine) : Bool :=
  e.clk.pll != .locked && e.clk.refPresent &&
    if e.time.counting then decide (e.rf R.CLK_MON 0 8 ≤ e.clk.good)
    else decide (e.clk.since + e.rf R.CLK_MON 0 8 * 2 ^ e.tideN ≤ e.time.now)

/-- A lock (R26). CLK_STAT.src_active takes the source followed only here: while the PLL acquires on a newly selected
source it still shows the one before, since R49 gives it for the source followed now and an acquiring PLL follows none
(DEDUCED, log entry 26). -/
def pllLock (e : Engine) : Engine :=
  let held := e.clk.pll == .holdover
  let e := e.wr R.CLK_LOCK_LAT (w32 (stick 24 (e.time.now - e.clk.start)))
  let e := { e with clk := { e.clk with pll := .locked, everLocked := true, srcActive := e.rb R.CLK_CTL 0 } }
  if held then
    ((e.istat 0x02 2).anchorAll 0x002).push 0x1 0x04 2 (if e.clk.srcActive then 1 else 0)
  else e

/-- A commit that changes the reference (R27). From LOCKED, CLK_ISTAT bit 0 sets: R27 has holdover entered as under R25
and takes out of R25 the count, the mark's argument and the event alone (DEDUCED, log entry 26). -/
def refChange (e : Engine) : Engine :=
  match e.clk.pll with
  | .locked => ((e.enterHoldover.wr R.CLK_HOLD_TIDES 0#32).istat 0x02 1).anchorAll 0x004
  | .holdover => { e.anchorAll 0x004 with clk := { e.clk with good := 0, clean := false, since := e.time.now } }
  | .acquiring => { e with clk := { e.clk with start := e.time.now, good := 0, clean := false, since := e.time.now } }

/-! ### The AON clock against the sample clock (R42) -/

/-- A complete measurement. -/
def x32Measure (e : Engine) (ppb : Word) : Engine :=
  if e.clk.pll == .locked && e.clk.x32Ok then { e.wr R.TB_X32_ERR ppb with clk.x32Valid := true } else e

/-- No AON clock edge for 4 ms. -/
def x32Fail (e : Engine) : Engine :=
  { e.estat 0x02 1 with clk.x32Valid := false, clk.x32Ok := false }

/-- AON clock edges are present. -/
def x32Rise (e : Engine) : Engine :=
  if e.clk.x32Ok then e else { e.istat 0x02 4 with clk.x32Ok := true }

end Engine

/-! ### The commands -/

/-- MONITOR_WINDOW (R25): windows are 1250 cu of the sample clock, which runs while the engine counts and from the
recognition of a wake on (R26, R41, R64). -/
def execMonitorWindow (n alt : Nat) (s : State) : Out :=
  done s fun e => if e.pwr.enCore && (e.time.counting || e.sys.phase == .waking) then e.monitorWindow n alt else e

/-- PLL_LOCK (R26). -/
def execPllLock (s : State) : Out := done s fun e => if e.lockReady then e.pllLock else e

/-- TIME_BASE_WRAP (R39). -/
def execTimeBaseWrap (s : State) : Out := done s fun e => if e.time.wrapDue then e.wrap else e

/-- SLACK_WATER_STEP (R41, R52). -/
def execSlackWaterStep (s : State) : Out :=
  done s fun e => if e.time.coasting then (if e.time.counting then e.slackStop else e.slackStep) else e

/-- X32_MEASUREMENT (R42). -/
def execX32Measurement (ppb : Word) (s : State) : Out := done s fun e => e.x32Measure ppb

/-- X32_FAIL (R42). -/
def execX32Fail (s : State) : Out := done s fun e => e.x32Fail

/-- X32_OK_RISE (R49). -/
def execX32OkRise (s : State) : Out := done s fun e => e.x32Rise

end Sys2Proof.Machine
end

