-- ==== Sys2Proof/Machine/Modes.lean ====
section
/-! DEFINITION. Mode requests and transitions (R54 to R62), the transitions made by hardware (R60), the beginning of DOZE
and HIBERNATE, the end of a wake (R64). -/

namespace Sys2Proof.Machine

/-! ### The transition table (R56) -/

/-- An entry of the table: forbidden, the current mode, without checks, with the checks marked *, with those marked †. -/
inductive Entry56 where
  | forbidden | same | free | star | dagger
  deriving DecidableEq, Repr

/-- The table of R56. -/
def transTable : Mode → Mode → Entry56
  | .measure, .hibernate | .measure, .doze | .unload, .hibernate | .unload, .doze => .star
  | .measure, .measure | .armed, .armed | .capture, .capture | .unload, .unload => .same
  | .measure, .armed | .measure, .unload | .unload, .armed => .dagger
  | .armed, .measure | .armed, .capture | .armed, .unload | .capture, .measure | .capture, .unload | .unload, .measure => .free
  | _, _ => .forbidden

namespace Engine

/-- A transition or a wake is in progress (SYS_MODE_STAT.busy). -/
def busy (e : Engine) : Bool := e.sys.trans.isSome || e.sys.wake.isSome

/-- HINGE_DOWN of R57. -/
def hingeDown (e : Engine) : Bool := linkDead e.hinge.c || linkDead e.hinge.s

/-- BLOCK_OFF of R57. -/
def blockOff (e : Engine) (tgt : Mode) : Bool :=
  let off (i : Nat) : Bool := e.policy (blkPage i) == 2
  match tgt with
  | .armed => [7, 8, 9, 10, 12, 13].any off || (List.range 4).any fun m => e.laneWanted m && off (1 + m)
  | .unload => off 13 || off 14
  | _ => false

/-- NO_WAKE of R57. -/
def noWake (e : Engine) (tgt : Mode) : Bool := e.rf R.SYS_WAKE_EN 0 (if tgt = .doze then 7 else 5) == 0

/-- The first check of R57 that a request fails, 0 where it is accepted. -/
def modeReason (e : Engine) (src tgt : Mode) : Nat :=
  match transTable src tgt with
  | .forbidden => 1
  | .same | .free => 0
  | .dagger =>
    if tgt = .armed ∧ !e.clk.everLocked then 2
    else if e.hingeDown then 3
    else if e.blockOff tgt then 4
    else if tgt = .armed ∧ !e.recordOk then 5 else 0
  | .star =>
    if e.jobsBusy then 6
    else if e.noWake tgt then 7
    else if tgt = .doze ∧ e.host.up ∧ !e.l12Enabled then 8 else 0

/-- SYS_MODE_DONE (R77). -/
def modeDone (e : Engine) (tag : Nat) (m : Mode) : Engine :=
  (e.istat 0x00 1).push 0x0 0x01 2 (tag * 16 + m.code)

/-- SYS_MODE_REJECT (R57, R77). -/
def modeReject (e : Engine) (tag reason : Nat) : Engine :=
  ((e.count R.SYS_REJ_CNT).istat 0x00 2).push 0x0 0x02 1 (tag * 16 + reason)

/-- What a request that has been evaluated leaves in SYS_MODE_STAT. -/
def lastReq (e : Engine) (tag reason : Nat) : Engine :=
  { e with sys := { e.sys with lastTag := tag, lastReason := reason } }

/-- A commit of SYS_MODE_REQ makes a request; one that still waits is displaced (R54, R55). -/
def requestCommit (e : Engine) (tag : Nat) (tgt : Mode) : Engine :=
  let e := match e.sys.req with
    | some (old, _) => e.modeReject old 9
    | none => e
  { e with sys := { e.sys with req := some (tag, tgt) } }

/-! ### Entering a mode -/

/-- The mode becomes m: held starts go where timing stops (R137), blocks are powered (R379), inputs and stream 4 start or
stop (R123, R188). -/
def entered (e : Engine) (m : Mode) : Engine :=
  let e := { e with sys := { e.sys with mode := m } }
  let e := if m.timing then e else e.dropStarts
  ((e.powerEnter m).tinSync).measLive

/-- Every block OFF (R379). A walk in progress on the pod bus stands still with busy = 1 while I2CP is OFF, here or by its
policy, and goes on when the block is ON again: R120 refuses requests and does not speak of a walk that runs (DESIGN
CHOICE, log entry 51). -/
def blocksOff (e : Engine) : Engine :=
  let bs : List BlkPwr := e.pwr.blks.map fun b => { b with st := .off, idle := 0, worked := false }
  { e with pwr := { e.pwr with blks := bs } }

/-- Every session ends (R349). -/
def allSessionsEnd (e : Engine) : Engine := ((e.endSessions 0).endSessions 1).endSessions 2

/-- DOZE or HIBERNATE begins (R53, R62, R106, R236, R295). -/
def sleepBegin (e : Engine) (m : Mode) : Engine :=
  let e := { e with sys := { e.sys with mode := m, modeReg := m } }
  let e := ((((e.dropStarts).tinSync).measLive).podSleep).stgDiscard
  let e := { e with mem := { e.mem with selfRef := true } }.blocksOff.slackBegin
  if m = .doze then (if e.host.pm = .l12 then e else e.linkDown).railsDozeDown
  else (e.allSessionsEnd.linkDown).railsDown

/-! ### Transitions made by hardware (R60) -/

/-- The mode changes by hardware; SYS_MODE_STAT.mode follows at the next boundary. What the new mode needs starts to wake;
what it does not use stays powered until the boundary's power-down decisions (R74). -/
def hwMode (e : Engine) (m : Mode) : Engine :=
  let e := { e with sys := { e.sys with mode := m, target := m, hwAt := e.time.now } }
  (((if m.timing then e else e.dropStarts).powerUp m).tinSync).measLive

/-- The checks of a re-arm. -/
def rearmReason (e : Engine) : Nat :=
  if e.hingeDown then 3 else if e.blockOff .armed then 4 else if !e.recordOk then 5 else 0

/-- The stop condition: recording has its last cycle n, and CAPTURE moves to SYS_MODE_REQ.after (R60). -/
def hwStop (e : Engine) (n : Nat) : Engine :=
  let e := e.endRun n 0
  match e.rf R.SYS_MODE_REQ 4 2 with
  | 0 => e.hwMode .unload
  | 1 => e.hwMode .measure
  | _ =>
    let why := e.rearmReason
    if why = 0 then { e.hwMode .armed with sys.startAt := some (e.time.now + 1) }
    else
      let e := (e.modeReject (e.rf R.SYS_MODE_REQ 8 8) why).hwMode .measure
      { e with sys := { e.sys with lastReason := why } }

/-- A re-armed run begins in its first cycle, on the registers committed then (R60, R177, R214). -/
def startRun (e : Engine) : Engine :=
  match e.sys.startAt with
  | some n => if n ≤ e.time.now then { e with sys.startAt := none }.runStart e.time.now else e
  | none => e

/-- A run that a request ends has had its last cycle (R61, R93). -/
def endByRequest (e : Engine) : Engine :=
  match e.sys.ending with
  | some cause => { e with sys.ending := none }.endRun e.time.now cause
  | none => e

/-- The last word of the run has been decided (R156). -/
def stopDue (e : Engine) : Option Nat :=
  match e.seq.trigAt with
  | some t => if e.seq.running && e.sys.ending.isNone && e.seq.fired && e.seq.post != 0 && decide (t + e.seq.post < e.seq.next) then
      some (t + e.seq.post) else none
  | none => none

/-! ### Requests (R56 to R61) -/

/-- What the beginning of a transition does to the run: a trigger on request, or the run's end with this cycle, in which
lanes and streams still record (R61, R93). -/
def leaveRun (e : Engine) (src tgt : Mode) : Engine :=
  match src, tgt with
  | .armed, .capture => e.trigger (max (e.time.now - 6) e.seq.arm) true 0 0
  | .armed, _ => { e with sys.ending := some 2 }
  | .capture, _ => { e with sys.ending := some 1 }
  | _, _ => e

/-- An accepted transition begins (R58, R61, R293). -/
def transBegin (e : Engine) (tag : Nat) (src tgt : Mode) : Engine :=
  let e := (e.lastReq tag 0)
  let e := { e with sys := { e.sys with trans := some { src := src, tgt := tgt, tag := tag }, target := tgt, transTides := 0 } }
  let e := e.leaveRun src tgt
  let e := if tgt = .doze ∧ e.ltrEnabled then e.send (.ltr (e.rd R.HOST_LTR_IDLE)) else e
  e.powerUp tgt

/-- The pending request is evaluated (R54, R56, R57). -/
def evalRequest (e : Engine) : Engine :=
  match e.sys.req with
  | none => e
  | some (tag, tgt) =>
    let e := { e with sys := { e.sys with req := none } }
    let src := e.sys.mode
    let why := e.modeReason src tgt
    if why ≠ 0 then (e.lastReq tag why).modeReject tag why
    else if src = tgt then (e.lastReq tag 0).modeDone tag tgt
    else e.transBegin tag src tgt

/-- A transition ends in its source mode (R58, R63). -/
def transBack (e : Engine) (t : Trans) (why : Nat) : Engine :=
  let e := { e with sys := { e.sys with trans := none } }
  ((e.lastReq t.tag why).modeReject t.tag why).powerEnter e.sys.mode

/-- The transition goes to ARMED or UNLOAD and did not come from a run: it fails with a link that it needs (R58). -/
def transFails (t : Trans) : Bool := !t.src.isRun && (t.tgt == .armed || t.tgt == .unload)

/-- A block that such a transition needs cannot finish because of a DIE_FAULT (R58). -/
def transDown (e : Engine) (t : Trans) : Bool := transFails t && e.powerStuck t.tgt

/-- The wake completes (R64, R70). -/
def wakeComplete (e : Engine) (w : Wake) : Engine :=
  let e := { e with sys := { e.sys with wake := none, phase := .run, mode := w.tgt, modeReg := w.tgt } }
  let e := (e.istat 0x00 4).push 0x0 0x03 2 ((lowBit 7 (e.rd R.SYS_WAKE_SRC).toNat).getD 0)
  let e := if e.sys.pgFailOwed then { e.push 0x0 0x04 0 0 with sys := { e.sys with pgFailOwed := false } } else e
  e.entered w.tgt

/-- The mode manager's part of a boundary (R30 step 3, R58 to R60, R63, R64). -/
def modeTide (e : Engine) : Engine :=
  let e := if e.sys.hwAt < e.time.now then { e with sys := { e.sys with modeReg := e.sys.mode } } else e
  let e := if e.busy then { e with sys := { e.sys with transTides := e.sys.transTides + 1 } } else e
  match e.sys.wake, e.sys.trans with
  | some w, _ => if w.resumed then e.wakeComplete w else e
  | none, some t => if t.woken then e.transBack t 10 else if e.transDown t then e.transBack t 3 else e
  | none, none => e.evalRequest

/-- Every block that the target needs has finished its part (R58, R292). -/
def transReady (e : Engine) (t : Trans) : Bool :=
  match t.tgt with
  | .armed => e.powerReady .armed false
  | .measure | .unload => e.powerReady t.tgt (!transFails t) && (!t.src.isRun || e.drained)
  | .doze => !e.host.up || e.host.pm == .l12
  | .hibernate | .capture => true

/-- The transition completes in this boundary cycle (R58, R61, R62). -/
def transComplete (e : Engine) (t : Trans) : Engine :=
  let e := { e with sys := { e.sys with trans := none, modeReg := t.tgt } }.modeDone t.tag t.tgt
  match t.tgt with
  | .armed => (e.entered .armed).runStart e.time.now
  | .capture => { e with sys := { e.sys with modeReg := e.sys.mode } }
  | .measure => e.entered .measure
  | .unload => e.entered .unload
  | .doze => e.sleepBegin .doze
  | .hibernate => e.sleepBegin .hibernate

/-- The transition that completes in this cycle, if one does. -/
def transDue (e : Engine) : Option Trans :=
  match e.sys.trans with
  | some t => if e.atBoundary && e.cyc.boundary && decide (1 ≤ e.sys.transTides) && e.transReady t then some t else none
  | none => none

/-- EN_MEM falls with the beginning of a mode, and Shoal's contents are lost (R53). -/
def losesShoal (e : Engine) (m : Mode) : Bool := m == .hibernate || (m == .doze && !e.rb R.PWR_CTL 2)

end Engine

/-- Shoal's contents are lost (R53, R197). -/
def State.shoalLost (s : State) : State := { s with shoal := { mem := [], bad := [], reads := s.shoal.reads + 1 } }

/-! ### The commands -/

/-- MODE_TRANSITION_COMPLETE (R58). -/
def execModeTransitionComplete (s : State) : Out :=
  match s.eng.transDue with
  | some t =>
    let s' := { s with eng := s.eng.transComplete t }
    doneS (if s.eng.losesShoal t.tgt then s'.shoalLost else s')
  | none => doneS s

/-- POST_TRIGGER_STOP (R156, R60). -/
def execPostTriggerStop (s : State) : Out :=
  done s fun e => match e.stopDue with
    | some n => e.hwStop n
    | none => e

/-- BLOCK_PLACEMENT (R191 to R195); where every recording stream has reached region full, the stop condition (R194). -/
def execBlockPlacement (s : State) : Out :=
  match s.eng.stg.toPlace with
  | [] => doneS s
  | b :: _ =>
    if s.eng.memServes then
      match s.place b with
      | .error f => .fault f
      | .ok s => done s fun e => if e.allFull then e.runEnd.hwStop e.time.now else e.runEnd
    else done s fun e => e.demand 13

end Sys2Proof.Machine
end

