-- ==== Sys2Proof/Machine/Power.lean ====
section
/-! DEFINITION. Wake sources and the way up (R63 to R65), rails and power-good (R66 to R70), the resets (R71, R72), block
power in tide work and on demand (R73 to R75, R379), compare fires. -/

namespace Sys2Proof.Machine

namespace Engine

/-! ### Wakes -/

/-- 10 ms in cu (R65). -/
def lockWait : Nat := 6250000

/-- Coarse counting resumes: the PLL has locked, or runs free after R65. -/
def canResume (e : Engine) : Bool :=
  match e.sys.wake with
  | some w => e.sys.phase == .waking && !w.resumed && e.clk.pll != .acquiring
  | none => false

/-- Coarse counting has resumed (R41, R42). -/
def resume (e : Engine) : Engine :=
  let e := e.slackWake
  { e with sys := { e.sys with wake := e.sys.wake.map fun w => { w with resumed := true } } }

/-- The PLL has not locked 10 ms after recognition (R65). -/
def lockLate (e : Engine) : Bool :=
  match e.sys.wake with
  | some w => e.sys.phase == .waking && e.clk.pll == .acquiring && decide (w.at' + lockWait ≤ e.time.now)
  | none => false

/-- Holdover without a lock (R65). -/
def lockTimeout (e : Engine) : Engine :=
  let e := (e.enterHoldover.count R.CLK_LOSS_CNT).wr R.CLK_HOLD_TIDES 0#32
  e.push 0x1 0x03 0 (if e.clk.srcActive then 1 else 0)

/-- µs from recognition, rounded up: 625 cu each. -/
def wakeUs (e : Engine) (w : Wake) : Nat := stick 24 ((e.time.now - w.at' + 624) / 625)

/-- Register accesses are accepted from now on (R64, PWR_WAKE_LAT). -/
def acceptAccess (e : Engine) : Engine :=
  match e.sys.wake with
  | some w =>
    let e := e.wr R.PWR_WAKE_LAT (w32 ((if w.fromHib then 2 else 1) * 2 ^ 30 + e.wakeUs w))
    { e with sys := { e.sys with wake := some { w with access := true } } }
  | none => e

/-- The wake from DOZE reaches register access within 50 µs of recognition (R64). -/
def dozeAccess (e : Engine) : Engine :=
  match e.sys.wake with
  | some w =>
    if e.sys.phase == .waking && !w.access && decide (w.at' + 625 * min 50 (Config.dozeAccess e.time.now) ≤ e.time.now)
    then e.acceptAccess else e
  | none => e

/-- The AON alarm is reached (R63). -/
def alarmDue (e : Engine) : Bool :=
  e.time.coasting && e.rd R.SYS_AON_ALARM != 0#32 && decide ((e.rd R.SYS_AON_ALARM).toNat ≤ e.time.slackLen)

/-- A level of WAKE_IN: an edge of the selected polarity is a source (R63). -/
def wakeIn (e : Engine) (rising : Bool) : Engine :=
  if e.sys.wakeIn == rising then e
  else
    let e := { e with sys := { e.sys with wakeIn := rising } }
    if rising != e.rb R.SYS_WAKE_EN 7 then e.wakeSource 3 else e

/-! ### Rails and power-good (R67, R69, R70) -/

/-- The next rail of the sequence switches. -/
def railStep (e : Engine) (periods : Nat) : Engine :=
  match e.pwr.steps with
  | [] => e
  | a :: t =>
    if periods < a.delay then e
    else
      let e := e.setRail a.rail a.level
      let e := { e with pwr := { e.pwr with steps := t } }
      if t.isEmpty && e.sys.phase == .railsUp then { e with sys := { e.sys with phase := .waitPg } } else e

/-- All three enables are high and no rail is still to switch. -/
def railsHigh (e : Engine) : Bool := e.pwr.enCore && e.pwr.enMem && e.pwr.enAna && e.pwr.steps.isEmpty

/-- PG_IN rises; boot follows where all rails have come up (R69). -/
def powerGood (e : Engine) : Engine :=
  let e := { e with pwr := { e.pwr with pgIn := true, pgRisen := true } }
  if e.sys.phase = .waitPg then
    { e with sys := { e.sys with phase := .boot }
             clk := { e.clk with pll := .acquiring, start := e.time.now, since := e.time.now } }
  else e

/-- The failure of R70 after a number of AON periods: the deadline of PG_IN has passed, or PG_IN has been low for two. -/
def pgFails (e : Engine) (periods : Nat) : Bool :=
  e.railsHigh && (if e.pwr.pgRisen then decide (2 ≤ periods)
    else !e.pwr.pgIn && decide (e.rf R.PWR_SEQ 24 8 ≤ periods))

/-- A power-good failure (R70): HIBERNATE is entered, in a wake too, where slack water goes on as it was. -/
def powerGoodFailure (e : Engine) : Engine :=
  let e := { e with pwr := { e.pwr with pgIn := false } }
  let e := (e.hwSet R.SYS_RESET_CAUSE 16#32).estat 0x01 1
  let e := (e.count R.PWR_PG_CNT).loseRun
  let e := { e with sys := { e.sys with trans := none, wake := none, req := none, ending := none, startAt := none
                                        pgFailOwed := true } }
  if e.time.coasting then
    (({ e with sys := { e.sys with mode := .hibernate, modeReg := .hibernate } }.blocksOff).allSessionsEnd.linkDown).railsDown
  else e.sleepBegin .hibernate

/-! ### Resets (R69, R71, R72) -/

/-- What the power-on reset leaves: pins, OTP keys, the random source and what has been transmitted. -/
def porState (e : Engine) : Engine :=
  { time := { now := e.time.now }
    sys := { wakeIn := e.sys.wakeIn }
    pwr := { vddIo := e.pwr.vddIo, perst := e.pwr.perst }
    tdc := { tins := e.tdc.tins.map fun t => { volt := t.volt } }
    seq := { trigIn := e.seq.trigIn }
    host := { clkreq := e.host.clkreq }
    sec := secReset e.sec
    tap := e.tap
    tx := e.tx }

/-- Boot ends (R69): after power-on reset MEASURE is entered, after a hibernate exit the wake goes on (R64). -/
def bootComplete (e : Engine) : Engine :=
  match e.sys.wake with
  | some _ => ({ e with sys := { e.sys with phase := .waking } }.powerFresh .hibernate).acceptAccess.chartReport
  | none =>
    let e := { e with sys := { e.sys with phase := .run, mode := .measure, modeReg := .measure, target := .measure }
                      time := { e.time with counting := true } }
    ((((e.istat 0x00 4).push 0x0 0x03 2 7).powerFresh .measure).entered .measure).chartReport

/-- A write to SYS_RESET_CTL takes effect (R72). -/
def mayReset (e : Engine) (confirm : Nat) : Bool :=
  e.access && confirm == 0xA55A && !e.busy && (e.sys.modeReg == .measure || e.sys.modeReg == .unload)

/-- The blocks on Cliff whose policy a Cliff reset takes from OFF to AUTO: those that the mode powers start to wake (R71,
R379). -/
def cliffPower (e : Engine) (wasOff : Nat → Bool) : Engine :=
  (List.range 15).foldl (fun e i => if wasOff i && e.poweredIn e.sys.mode i then e.wakeBlk i else e) e

/-- A Cliff reset (R38, R71, R130, R328). -/
def cliffReset (e : Engine) : Engine :=
  let off := (List.range 15).map fun i => decide (1 ≤ i ∧ i ≤ 6) && e.policy (blkPage i) == 2
  let e := (e.clearRegs cliffResets).cliffPower fun i => off.getD i false
  let ls : List Lane := e.lanes.map fun l => { l with swap := 0#14 }
  let e := { e with lanes := ls }
  let e := { e with
    cyc := { e.cyc with sets := e.cyc.sets.filter fun p => !cliffResets p.1, rc := e.cyc.rc.filter fun p => !cliffResets p.1 }
    tide := { e.tide with store := e.tide.store.filter fun p => !cliffResets p.key, late := [] } }
  let tins : List Tin := e.tdc.tins.map fun t => { level := t.level, volt := t.volt }
  let e : Engine := { e with tdc := { e.tdc with tins := tins, units := List.replicate 4 {}, res := [] } }.tablesReset
  let e : Engine := e.hwSet R.SYS_RESET_CAUSE 8#32
  let e := if e.hinge.c.st = .retrain then e else e.retrain false
  let e := e.setLink false fun l => { l with faulted := false }
  (e.tinSync).chartReport

/-! ### Block power (R73, R74) -/

/-- Block i does work whatever happens in the tide: lanes, sequencer, matchers and the recorder in a run, the recorder
under meas_live, the TDC while an input is enabled, calibration while it runs, jobs, walks, blocks to decode or deliver. -/
def alwaysWorks (e : Engine) (i : Nat) : Bool :=
  let run := e.recb.running
  if i = 0 then e.bus.walk.isSome
  else if i ≤ 4 then (e.lane (i - 1)).running
  else if i = 5 then (List.range 4).any fun k => e.rb (R.TDC_TIN0 + 4 * k) 31
  else if i = 6 then e.rb R.TDCCAL_CTL 0
  else if i ≤ 8 then run
  else if i ≤ 10 then run || e.recb.measLive || e.stillNeeded i
  else if i = 11 then !e.job.decQ.isEmpty
  else if i ≤ 13 then e.stillNeeded i
  else e.jobsBusy

/-- A mode or the transition in progress uses block i. -/
def usedNow (e : Engine) (i : Nat) : Bool :=
  e.usesBlk e.sys.mode i || (match e.sys.trans with
    | some t => e.usesBlk t.tgt i
    | none => false)

/-- The transition in progress waits until block i has powered up (R58). -/
def awaited (e : Engine) (i : Nat) : Bool :=
  match e.sys.trans with
  | some t => e.poweredIn t.tgt i
  | none => false

/-- The power manager's decision on block i at a boundary (R73, R74, R379). -/
def blockTide (e : Engine) (i : Nat) : Engine :=
  let b := e.blkP i
  let pol := e.policy (blkPage i)
  let busy := b.worked || e.alwaysWorks i || e.awaited i
  let idle := if busy then 0 else b.idle + 1
  let lim := max 1 (e.rf (pwrctlKey (blkPage i)) 0 16)
  let st := if e.stillNeeded i then b.st
    else if !e.usedNow i || pol = 2 then .off
    else if b.st = .on ∧ pol = 0 ∧ lim ≤ idle then .off
    else if b.st = .on ∧ pol = 3 ∧ lim ≤ idle then .retain else b.st
  e.setBlk i fun b => { b with st := st, idle := idle, worked := false }

/-- A commit of _PWRCTL of block i: from OFF, and to ON, a block that the mode powers starts to wake (R73, R379). -/
def policyCommit (e : Engine) (i old : Nat) : Engine :=
  let pol := e.policy (blkPage i)
  if old ≠ pol ∧ (old = 2 ∨ pol = 1) ∧ e.poweredIn e.sys.mode i = true then e.wakeBlk i else e

/-- TDC and its calibration are demanded by an enabled input and by TDCCAL_CTL.run (R74, R123, R129). -/
def timingDemand (e : Engine) : Engine :=
  let e := if e.sys.mode.timing && e.alwaysWorks 5 then e.demand 5 else e
  if e.sys.mode.timing && e.alwaysWorks 6 then e.demand 6 else e

/-- The power manager's tide work. -/
def powerTide (e : Engine) : Engine :=
  let e := (List.range 15).foldl blockTide e
  let e := e.timingDemand
  { e with pwr := { e.pwr with est := e.powerSum / 100 } }

/-- A wake of a block ends (R74). -/
def blockWoken (e : Engine) (i : Nat) : Engine :=
  let e := e.setBlk i fun b => { b with st := .on, wakeLat := e.time.now - b.start }
  let e := if i = 13 ∧ e.hinge.s.st ≠ .fault then { e with mem := { e.mem with selfRef := false } } else e
  let e := (e.tinSync).busStart
  if i = 14 then e.jobTide else e

/-- A compare channel fires (R44, R45, R63). -/
def cmpFire (e : Engine) (k : Nat) : Engine :=
  let e := (e.fire k).setSeen e.time.now fun s => { s with fires := s.fires ||| BitVec.ofNat 16 (2 ^ k) }
  e.wakeSource 5

end Engine

/-- The event queue is emptied (R242). -/
def State.evqClear (s : State) : State := { s with evq := {} }

/-! ### The commands -/

/-- COARSE_COUNT_RESUME (R41, R65). -/
def execCoarseCountResume (s : State) : Out := done s fun e => if e.canResume then e.resume else e

/-- PLL_LOCK_TIMEOUT (R65). -/
def execPllLockTimeout (s : State) : Out := done s fun e => if e.lockLate then e.lockTimeout else e

/-- WAKE_IN (R63): an edge of the pin. -/
def execWakeIn (rising : Bool) (s : State) : Out := done s fun e => e.wakeIn rising

/-- AON_ALARM (R63). -/
def execAonAlarm (s : State) : Out := done s fun e => if e.alarmDue then e.wakeSource 4 else e

/-- TIME_CMP_FIRE (R44, R45). -/
def execTimeCmpFire (k : Fin 16) (s : State) : Out := done s fun e => if e.canFire k then e.cmpFire k else e

/-- RAIL_SEQUENCE_STEP (R67): AON periods since the previous rail. -/
def execRailSequenceStep (periods : Nat) (s : State) : Out := done s fun e => e.railStep periods

/-- POWER_GOOD (R69). -/
def execPowerGood (s : State) : Out := done s fun e => if e.railsHigh && !e.pwr.pgIn then e.powerGood else e

/-- POWER_GOOD_FAILURE (R70). -/
def execPowerGoodFailure (periods : Nat) (s : State) : Out :=
  if s.eng.pgFails periods then doneS { s with eng := s.eng.powerGoodFailure }.shoalLost else doneS s

/-- BOOT_COMPLETE (R69, R242). -/
def execBootComplete (s : State) : Out :=
  if s.eng.sys.phase = .boot then doneS { s.evqClear with eng := s.eng.bootComplete } else doneS s

/-- POWER_ON_RESET (R69, R71): VDD_AON rises or RESET_N falls. -/
def execPowerOnReset (s : State) : Out := doneS { s with eng := s.eng.porState }.shoalLost.evqClear

/-- RESET_N_RELEASE (R67, R69, R302): the address straps are sampled, the rails rise. -/
def execResetNRelease (a1 a0 : Bool) (s : State) : Out :=
  done s fun e =>
    if e.sys.phase = .resetHeld then
      { e with i2c := { e.i2c with addr := 0x6C + at1 a1 1 + at1 a0 0 } }.railsUp
    else e

/-- TEST_RESET (R71, R378): TRST_N resets the IEEE 1149.1 port, whose instruction becomes IDCODE
(PRESUMED, assumption 46). -/
def execTestReset (s : State) : Out := done s fun e => { e with tap := { e.tap with reset := true, ir := .idcode } }

/-- BLOCK_WAKE_COMPLETE (R74); a block behind a link in DIE_FAULT cannot finish (R58). -/
def execBlockWakeComplete (b : Blk) (s : State) : Out :=
  done s fun e => if (e.blkP (blkIx b)).st = .waking ∧ !e.behindFault (blkIx b) then e.blockWoken (blkIx b) else e

end Sys2Proof.Machine
end

