-- ==== Sys2Proof/Machine/Ports.lean ====
section
/-! DEFINITION. Register accesses from the three ports (R5 to R18, R275, R305 to R307, R330, R339): reads with their side
effects, writes by access code, accesses to Cliff over Hinge-C. -/

namespace Sys2Proof.Machine

/-! ### Reads -/

namespace Engine

/-- A LO read latches the HI half for the port (R8, R17). -/
def latchHi (e : Engine) (p k : Nat) : Engine :=
  match e.hiHalf k with
  | some (hk, v) => e.setLatch p fun l => { l with hi := (hk, v) :: l.hi.filter fun x => x.1 != hk }
  | none => e

/-- The value of an RL register: a HI half reads what the port latched (R8). -/
def rlValue (e : Engine) (p page slot : Nat) : Word :=
  match e.hiHalf (page * 256 + slot), e.view p page slot with
  | some _, some v => v
  | some _, none => e.rd (page * 256 + slot)
  | none, _ => e.hiLatch p (page * 256 + slot)

/-- The value of a register without a read side effect. -/
def plainValue (e : Engine) (p page slot : Nat) : Word := (e.view p page slot).getD (e.rd (e.keyAt page slot))

end Engine

/-- The port reaches the page (R16). -/
def portHas (p page : Nat) : Bool := (p != 1 || decide (page ≤ 8)) && (pageInfo? page).isSome

/-- A register read by a port that reaches it, with its side effects (R6, R8, R11, R12, R238). -/
def State.readReg (s : State) (p page slot : Nat) : State × Word :=
  let e := s.eng
  match row? page slot with
  | none => (s, 0#32)
  | some r =>
    if page * 256 + slot = R.EVQ_POP_LO then s.evqPop p 0#64
    else match r.acc with
      | .wo => (s, 0#32)
      | .rc => ({ s with eng := e.rcClear (e.keyAt page slot) }, e.rcValue (e.keyAt page slot))
      | .rl => match s.viewEvq p (page * 256 + slot) with
        | some v => (s, v)
        | none => ({ s with eng := e.latchHi p (page * 256 + slot) }, e.rlValue p page slot)
      | _ => (s, (s.viewEvq p (page * 256 + slot)).getD (e.plainValue p page slot))

/-! ### Writes -/

namespace Engine

/-- A write of DIAG_CTL.arm (R334). -/
def diagArm (e : Engine) (arm : Bool) : Engine :=
  if arm then (e.wr R.DIAG_CTL 1#32).injectArm else (e.wr R.DIAG_CTL 0#32).injectStop

/-- What a write to an unshadowed register does beside storing its fields. -/
def afterWrite (e : Engine) (k : Nat) (v : Word) : Engine :=
  if k = R.HOST_BW_CTL then (if bit v 31 then e.bwRelease else e)
  else if k = R.DIAG_CTL then e.diagArm (bit v 0)
  else e

/-- INJ_SEL and INJ_CNT keep their values while an injection is active (R334). -/
def frozenReg (e : Engine) (k : Nat) : Bool := e.hinge.active && (k == R.DIAG_INJ_SEL || k == R.DIAG_INJ_CNT)

/-- The base registers of the job rings, which a write leaves alone while a job is READY, FETCHED or ACTIVE (R246). -/
def ringBase (k : Nat) : Bool := R.JOB_RING_LO ≤ k && k ≤ R.JOB_WB_HI

/-- Stores the enabled bytes of a write in an unshadowed register, and acts on it. v has 0 in the disabled bytes. -/
def storeReg (e : Engine) (r : Row) (k : Nat) (be : BitVec 4) (v : Word) : Engine :=
  let old := e.rd k
  if ringBase k && e.jobsBusy then e.estat 0x24 4
  else
  let e := if e.frozenReg k then e else e.wr k (written r k old (merge (beMask be) old v))
  if k = R.DIAG_CTL ∧ be.getLsbD 0 = false then e else e.afterWrite k v

/-- Whether the sessions that a write has found let fields of a slot through; slot 0 guards nothing (R339). -/
def opens (auth : List Bool) (sl : Nat) : Bool := sl == 0 || auth.getD (sl - 1) false

/-- A write to a register with RWK fields (R339, R340): auth holds the port's sessions at the start of the cycle in which
the write arrived. -/
def guarded (e : Engine) (auth : List Bool) (p : Nat) (r : Row) (page slot : Nat) (be : BitVec 4) (v : Word) (sl : Nat)
    (shadowed : Bool) : Engine :=
  if opens auth sl then
    let e := e.touchSess p sl
    if shadowed then e.shadowWrite r (e.keyAt page slot) be v else e.storeReg r (e.keyAt page slot) be (v &&& beMask be)
  else if r.mask &&& beMask be = 0#32 then e
  else e.guardReject p page slot sl

/-- A write to a WO register, disabled bytes taken as 0 (R275). -/
def commandReg (e : Engine) (p k : Nat) (v : Word) : Engine :=
  if k = R.SEC_CMD then e.secCmd p v
  else if k = R.SEC_BUF then e.secBuf p v
  else if k = R.POD_PWR_CMD then e.podCmd v
  else if k = R.I2CP_CMD then e.censusReq (v.setWidth 4)
  else if k = R.STG_CMD then (if bit v 0 then e.dropRest else e)
  else if k = R.HINGE_CMD then
    let e := if bit v 0 then e.retrainCmd false else e
    if bit v 1 then e.retrainCmd true else e
  else if k = R.REC_USER then e.recUser p (fld v 16 5) (fld v 0 10)
  else e

end Engine

/-- Acknowledges of a transaction on the two-wire port that a core reset abandons: the bytes still to come find none
(R321). -/
def i2cLeft (t : I2cRun) : List Bool :=
  t.acks ++ List.replicate ((if t.pec then 0 else 4 * t.todo.length) + t.rest + (if t.rd.isSome && !t.reading then 1 else 0)) false

/-- Those of a transaction that waits for a write: the byte in progress, the fourth of its register, still finds one. -/
def i2cHeld (t : I2cRun) : List Bool :=
  if t.pec || t.todo.isEmpty then i2cLeft t
  else i2cLeft { t with acks := t.acks ++ [true, true, true, true], todo := t.todo.drop 1 }

/-- A core reset abandons what the two-wire port serves; the requests of the functions wait for its end (R72, R321). -/
def Engine.heldReset (e : Engine) : Engine :=
  let e := e.host.held.foldl (fun e h => match h.work with
    | .i2c t =>
      let e := e.send (.i2cAcks (i2cHeld t))
      if t.reading then e.send (.i2cSent t.got) else e
    | .bus (.write bs) _ => e.send (.i2cAcks (bs.map fun _ => false))
    | .bus (.read bs _ _) _ => e.send (.i2cAcks ((bs.map fun _ => false) ++ [false]))
    | _ => e) e
  let l : List Held := (e.host.held.filter fun h => h.port != .i2c).map fun h => { h with sent := none }
  { e with host.held := l }

/-- A core reset (R71, R242). -/
def State.coreReset (s : State) : State := { s.evqClear with eng := s.eng.heldReset.coreResetState }

/-- A write of SYS_RESET_CTL (R72): core wins over cliff. -/
def State.resetCtl (s : State) (v : Word) : State :=
  if !s.eng.mayReset (fld v 16 16) then s
  else if bit v 0 then s.coreReset
  else if bit v 1 then { s with eng := s.eng.cliffReset } else s

/-- A register write by a port that reaches it, under the access code of the register (R6, R9 to R11, R275, R339). -/
def State.writeAs (s : State) (auth : List Bool) (p page slot : Nat) (be : BitVec 4) (v : Word) : State :=
  let e := s.eng
  match row? page slot with
  | none => s
  | some r =>
    let k := page * 256 + slot
    let m := v &&& beMask be
    if be = 0#4 then s
    else match r.acc with
      | .rw => { s with eng := e.storeReg r (e.keyAt page slot) be m }
      | .rws => { s with eng := e.shadowWrite r (e.keyAt page slot) be v }
      | .rwk sl shadowed => { s with eng := e.guarded auth p r page slot be v sl shadowed }
      | .w1c => { s with eng := e.w1c k (m &&& r.mask) }
      | .wo => if k = R.SYS_RESET_CTL then s.resetCtl (m &&& r.mask) else { s with eng := e.commandReg p k (m &&& r.mask) }
      | .ro | .rc | .rl => s

/-- A write that arrives in this cycle. -/
def State.writeReg (s : State) (p page slot : Nat) (be : BitVec 4) (v : Word) : State :=
  s.writeAs (s.eng.auth p) p page slot be v

/-! ### One access of a port (R12, R16 to R18, R238, R330, R344) -/

/-- How far an access has come: it waits, carried by a frame of Hinge-C or not, or is done, with the value of a read. -/
inductive Access where
  | waits (sent : Option Nat)
  | done (value : Option Word)
  deriving DecidableEq, Repr

namespace Engine

/-- Answers a request with a status and no data, and reports the error (R279, R280). -/
def refuse (e : Engine) (fn : Nat) (x : PciErr) (st : CplStatus) : Engine := (e.hostErr fn x true).complete fn st []

/-- An access outside the implemented pages (R16): Unsupported Request of a function (R279), bad_addr of I²C (R306). -/
def noPage (e : Engine) (a : RegAccess) : Engine :=
  if a.port = .i2c then e.estat 0x07 4
  else if a.data.isSome then e.hostErr (portCode a.port) .ur false
  else e.refuse (portCode a.port) .ur .unsupported

/-- The port's accesses are served now: registers are accepted, its response is not being checked (R344), and no later
port in the order of R12 has been served in this cycle. One that comes after them in the same cycle is served as an
access of the next (DESIGN CHOICE, log entry 15). -/
def portOpen (e : Engine) (p : Port) : Bool :=
  e.access && (e.port (portCode p)).chal != .checking && decide (e.cyc.rank ≤ portCode p)

/-- No access of the port, or of one before it in the order of R12, waits. -/
def portFirst (e : Engine) (p : Port) : Bool := e.host.held.all fun h => decide (portCode p < portCode h.port)

/-- The port's next access is served at once. -/
def portReady (e : Engine) (p : Port) : Bool := e.portOpen p && e.portFirst p

/-- A port has been served. -/
def served (e : Engine) (p : Port) : Engine := { e with cyc.rank := portCode p }

/-- A read of EVQ_POP_HI or EVQ_POP_TAG in the cycle of the port's pop waits for the next (R238). -/
def popWaits (e : Engine) (a : RegAccess) : Bool :=
  a.data.isNone && (a.page * 256 + a.slot == R.EVQ_POP_HI || a.page * 256 + a.slot == R.EVQ_POP_TAG)
    && (e.latch.getD (portCode a.port) {}).pop.fresh

/-- What a port asks for waits. -/
def hold (e : Engine) (h : Held) : Engine := { e with host.held := e.host.held ++ [h] }

end Engine

/-- Performs an access. -/
def State.perform (s : State) (auth : List Bool) (a : RegAccess) : State × Option Word :=
  match a.data with
  | some v => (s.writeAs auth (portCode a.port) a.page a.slot a.be v, none)
  | none =>
    let r := s.readReg (portCode a.port) a.page a.slot
    (r.1, some r.2)

/-- Tries an access. One to Cliff goes out in a frame of Hinge-C once the link takes it (R18, R324, R330), and after a
DIE_FAULT reads 0 and writes nothing. -/
def State.attempt (s : State) (h : Held) (a : RegAccess) : State × Access :=
  let e := s.eng
  if let some v := h.reply then (s, .done v)
  else if a.be = 0#4 then (s, .done (if a.data.isSome then none else some 0#32))
  else if !e.portOpen a.port || e.popWaits a then (s, .waits h.sent)
  else if !portHas (portCode a.port) a.page then ({ s with eng := e.noPage a }, .done none)
  else if isCliff a.page then
    if Engine.linkLost e.hinge.c then ({ s with eng := e.served a.port }, .done (if a.data.isSome then none else some 0#32))
    else if h.sent.isSome || !e.linkFree false then (s, .waits h.sent)
    else ({ s with eng := (e.served a.port).linkPut false true (some (.access a h.auth)) }, .waits (some e.hinge.c.head.next))
  else
    let r := { s with eng := e.served a.port }.perform h.auth a
    (r.1, .done r.2)

/-- A value that a direct read has got goes out on the port. -/
def Engine.answer (e : Engine) (a : RegAccess) (fn : Option Nat) (v : Option Word) : Engine :=
  match fn, v with
  | none, some v => e.send (.portRead a.port (a.page * 256 + a.slot) v)
  | _, _ => e

/-- Register accesses in order, with what the earlier ones have read; at the end the completion, where one is owed. -/
def State.runRegs (s : State) (h : Held) (fn : Option Nat) : List RegAccess → List Word → State × Option Held
  | [], got => (match fn with
    | some f => { s with eng := s.eng.complete f .success got }
    | none => s, none)
  | a :: t, got =>
    match s.attempt h a with
    | (s', .waits sent) => (s', some { h with work := .regs (a :: t) got fn, sent := sent, reply := none })
    | (s', .done v) =>
      { s' with eng := s'.eng.answer a fn v }.runRegs { h with sent := none, reply := none } fn t (got ++ [v.getD 0#32])

end Sys2Proof.Machine
end

