-- ==== Sys2Proof/Machine/HostPort.lean ====
section
/-! DEFINITION. Inbound requests of the PCI Express port: memory requests to the register pages, the aperture and the ROM
window (R275 to R281, R299), configuration requests (R271 to R274, R294), messages (R279). -/

namespace Sys2Proof.Machine

/-! ### Where a request goes (R272, R276, R277) -/

/-- What a memory address reaches: the register pages of a function, the aperture, the ROM window, nothing. -/
inductive Hit where
  | regs (fn off : Nat) | aper (off : Nat) | rom (off : Nat) | none
  deriving DecidableEq, Repr

/-- The function that a request targets; one that reaches nothing counts as function 0 (R296). -/
def Hit.fn : Hit → Nat
  | .regs fn _ => fn
  | _ => 0

namespace Engine

/-- A 64-bit BAR's base. -/
def barBase (e : Engine) (fn off size : Nat) : Nat :=
  (e.cfg fn off).toNat / size * size + 2 ^ 32 * (e.cfg fn (off + 4)).toNat

/-- An address in a window, as an offset. -/
def inWindow (a base size : Nat) : Option Nat := if base ≤ a ∧ a < base + size then some (a - base) else none

/-- What an address reaches. -/
def hit (e : Engine) (a : Nat) : Hit :=
  match inWindow a (e.barBase 0 0x10 65536) 65536, inWindow a (e.barBase 1 0x10 16384) 16384,
      inWindow a (e.barBase 0 0x18 (2 ^ 28)) (2 ^ 28), inWindow a ((e.cfg 0 0x30).toNat / 65536 * 65536) 65536 with
  | some o, _, _, _ => .regs 0 o
  | none, some o, _, _ => .regs 1 o
  | none, none, some o, _ => .aper o
  | none, none, none, some o => if bit (e.cfg 0 0x30) 0 then .rom o else .none
  | _, _, _, _ => .none

/-- The function takes memory requests (R279). -/
def memOn (e : Engine) (fn : Nat) : Bool := e.mse fn && !e.d3 fn

/-- The pages and slots of a register request, one per DW. -/
def slotsAt (off len : Nat) : List (Nat × Nat) := (List.range (max 1 len)).map fun i => ((off + 4 * i) / 256, (off + 4 * i) % 256 / 4 * 4)

/-- Every page of the request is implemented in the function (R16). -/
def pagesOk (fn off len : Nat) : Bool := (slotsAt off len).all fun p => portHas fn p.1

/-- A byte-enable set per DW: the first and, from two DW on, the last. -/
def enables (q : MemReq) : List (BitVec 4) := if q.len ≤ 1 then [if q.len = 0 then 0#4 else q.fbe] else [q.fbe, q.lbe]

/-- The register accesses of a request, in ascending order (R275): one per DW, with its byte enables and data. -/
def accesses (p : Port) (off : Nat) (q : MemReq) (write : Bool) : List RegAccess :=
  ((slotsAt off q.len).zip (enables q)).zipIdx.map fun x =>
    { port := p, page := x.1.1.1, slot := x.1.1.2, be := x.1.2
      data := if write then some (q.data.getD x.2 0#32) else none }

/-- Breakwater holds the request off: the HOST page of function 0 is exempt (R299). -/
def heldOff (e : Engine) (h : Hit) : Bool :=
  e.host.bw == .frozen && match h with
    | .regs fn off => !(fn == 0 && off / 256 == 0x25)
    | _ => true

/-- The request is a read of the aperture that needs Shoal: it lies within the window, asks for bytes, and neither the
policy of MEM nor Hinge-S refuses it (R276, R280). -/
def needsShoal (e : Engine) (q : MemReq) (off : Nat) : Bool :=
  q.data.isEmpty && q.kind == .memory && !q.tlpPrefix && e.memOn 0 && !e.heldOff (.aper off)
    && !(q.len == 0 || (q.len == 1 && q.fbe == 0#4)) && decide (off + 4 * q.len ≤ 2 ^ 28)
    && e.policy 0x22 != 2 && !linkDead e.hinge.s

/-- The requests of the port may be served: one that reads Shoal asks for MEM as well (R64, R72, R74, R344). -/
def servable (e : Engine) (p : Port) (q : MemReq) : Bool :=
  e.portOpen p && match e.hit q.addr with
    | .aper off => !e.needsShoal q off || e.memServes
    | _ => true

/-- One whose turn has come asks for MEM (R74). -/
def wantsMem (e : Engine) (p : Port) (q : MemReq) : Bool :=
  e.portOpen p && match e.hit q.addr with
    | .aper off => e.needsShoal q off
    | _ => false

/-- HOST_APER.base: a request is served under the one of its arrival (R276). -/
def aperBase (e : Engine) : Nat := e.rf R.HOST_APER 0 14

end Engine

/-! ### Reads of the windows (R276 to R278) -/

/-- How n bytes from an offset are cut into completions: at 64-byte boundaries, at most mps bytes each (R278). -/
def cutReads (mps : Nat) : Nat → Nat → Nat → List (Nat × Nat)
  | 0, _, _ => []
  | fuel + 1, a, n =>
    if n = 0 then []
    else if n ≤ mps then [(a, n)]
    else
      let k := max ((a + mps) / 64 * 64) ((a / 64 + 1) * 64) - a
      (a, k) :: cutReads mps fuel (a + k) (n - k)

/-- Bytes as DW. -/
def wordsOfBytes (bs : List Byte) : List Word := (List.range (bs.length / 4)).map fun i => w32 (natOfBytes ((bs.drop (4 * i)).take 4))

/-- An aperture read of n bytes under a base (R276, R280): checked words, poisoned completions. -/
def State.aperture (s : State) (off n : Nat) (us : List Upset) (base : Nat) : State :=
  let e := s.eng
  if 2 ^ 28 < off + n ∨ e.policy 0x22 = 2 ∨ Engine.linkDead e.hinge.s = true then { s with eng := e.refuse 0 .ca .abort }
  else
    let a := base * 65536 + off
    let sh := s.shoal.disturb us
    let bs := sh.bytes a n
    let bad := sh.badIn a n
    let e := ((e.demand 13).linkSend true).shoalErrors 2 bad
    let out := (cutReads e.maxPayload (n + 1) off n).map fun p =>
      let ep := bad.any fun w => w.2 == .double && decide (w.1 * 8 < a + (p.1 - off) + p.2) && decide (a + (p.1 - off) < w.1 * 8 + 8)
      (wordsOfBytes ((bs.drop (p.1 - off)).take p.2), ep)
    let e := out.foldl (fun e p => e.complete 0 .success p.1 p.2) e
    { s with eng := if out.any (·.2) then e.estat 0x25 32 else e, shoal := { sh with reads := sh.reads + 1 } }

/-- A read of the ROM window: the chart, then 0 (R277, R352). -/
def Engine.romRead (e : Engine) (off n : Nat) : Engine :=
  if 65536 < off + n then e.refuse 0 .ca .abort
  else (cutReads e.maxPayload (n + 1) off n).foldl (fun e p =>
    e.complete 0 .success (wordsOfBytes ((List.range p.2).map fun i => chartBytes.getD (p.1 + i) 0#8))) e

/-! ### Memory requests -/

/-- A request kind that the engine does not support, by itself (R279). -/
def badKind (k : ReqKind) : Bool := k != .memory

/-- A memory or I/O read is served (R275 to R280, R299): a read of registers goes on as its accesses. -/
def State.serveRead (s : State) (p : Port) (q : MemReq) (base : Nat) : State × List RegAccess :=
  let e := s.eng
  let h := e.hit q.addr
  if q.tlpPrefix then ({ s with eng := e.hostErr h.fn .malformed false }, [])
  else if badKind q.kind || h == .none || !e.memOn h.fn then ({ s with eng := e.refuse h.fn .ur .unsupported }, [])
  else if e.heldOff h then ({ s with eng := (e.frozenAbort h.fn).complete h.fn .abort [] }, [])
  else match h with
    | .regs fn off =>
      if 2 < q.len then ({ s with eng := e.refuse fn .ca .abort }, [])
      else if !Engine.pagesOk fn off q.len then ({ s with eng := e.refuse fn .ur .unsupported }, [])
      else (s, Engine.accesses p off q false)
    | .aper off =>
      if q.len = 0 ∨ (q.len = 1 ∧ q.fbe = 0#4) then ({ s with eng := e.complete 0 .success [0#32] }, [])
      else (s.aperture off (4 * q.len) [] base, [])
    | .rom off =>
      if q.len = 0 ∨ (q.len = 1 ∧ q.fbe = 0#4) then ({ s with eng := e.complete 0 .success [0#32] }, [])
      else ({ s with eng := e.romRead off (4 * q.len) }, [])
    | .none => (s, [])

/-- A memory or I/O write is served: a posted one has no completion (R275, R279, R280, R296, R299). -/
def State.serveWrite (s : State) (p : Port) (q : MemReq) : State × List RegAccess :=
  let e := s.eng
  let h := e.hit q.addr
  if q.tlpPrefix then ({ s with eng := e.hostErr h.fn .malformed false }, [])
  else if badKind q.kind then ({ s with eng := e.refuse h.fn .ur .unsupported }, [])
  else
    let off := e.heldOff h
    if q.ep && h != .none then ({ s with eng := (if off then e.count R.HOST_BW_DISC else e).hostErr h.fn .poison false }, [])
    else if h == .none || !e.memOn h.fn then ({ s with eng := e.hostErr h.fn .ur false }, [])
    else if off then ({ s with eng := e.count R.HOST_BW_DISC }, [])
    else match h with
      | .regs fn o =>
        if 2 < q.len then ({ s with eng := e.hostErr fn .ca false }, [])
        else if !Engine.pagesOk fn o q.len then ({ s with eng := e.hostErr fn .ur false }, [])
        else (s, Engine.accesses p o q true)
      | _ => ({ s with eng := e.hostErr 0 .ur false }, [])

/-- A memory request whose turn has come. One that carries data is a write. Its registers are accessed one after the other,
and a read of them is completed as one (R275). -/
def State.runMem (s : State) (h : Held) (q : MemReq) (base : Nat) : State × Option Held :=
  if !s.eng.servable h.port q then ({ s with eng := if s.eng.wantsMem h.port q then s.eng.demand 13 else s.eng }, some h)
  else
    let r := if q.data.isEmpty then s.serveRead h.port q base else s.serveWrite h.port q
    if r.2.isEmpty then (r.1, none)
    else r.1.runRegs h (if q.data.isEmpty then some (portCode h.port) else none) r.2 []

/-- The function whose order a request keeps: the one it targets (R284, R296). -/
def Engine.reqPort (e : Engine) (q : MemReq) : Port := if (e.hit q.addr).fn = 1 then .f1 else .f0

/-! ### Configuration space (R271 to R274, R286, R294) -/

namespace Engine

/-- Margining Lane Status: No Command is answered with itself, any other command with a free value (R269; log entry 64). -/
def marginAnswer (lane : Nat) (ctl : BitVec 16) : BitVec 16 := if ctl = 0x9C38#16 then ctl else Config.marginStatus lane ctl

/-- A configuration register as read: Interrupt Status, Transactions Pending, the link's state and the margining status are
computed. -/
def cfgView (e : Engine) (fn off : Nat) : Word :=
  let v := e.cfg fn off
  if off = 0x04 then v ||| w32 (at1 (e.intxCond fn) 19)
  else if off = 0x58 then v ||| w32 (at1 (fn == 0 && !e.job.reads.isEmpty) 21)
  else if off = 0x60 then v ||| w32 (e.host.speed * 65536 + e.host.width * 2 ^ 20)
  else if fn = 0 ∧ (off = 0x1B0 ∨ off = 0x1B4) then marginAnswer ((off - 0x1B0) / 4) (v.setWidth 16) ++ v.setWidth 16
  else v

/-- Fields of a write that hold values the function does not support keep theirs (R10, R274). -/
def cfgSanitize (off : Nat) (old v : Word) : Word :=
  if off = 0x58 then
    let v := if 2 < fld v 5 3 then putf v 5 3 (fld old 5 3) else v
    if 5 < fld v 12 3 then putf v 12 3 (fld old 12 3) else v
  else if off = 0x44 then (if fld v 0 2 = 1 ∨ fld v 0 2 = 2 then putf v 0 2 (fld old 0 2) else v)
  else v

/-- A configuration write. Bit 15 of Device Control starts a Function Level Reset (R294). With PME_Status clear no PM_PME
counts as sent (R290). -/
def cfgWrite (e : Engine) (fn off : Nat) (be : BitVec 4) (v : Word) : Engine :=
  match cfgRow? fn off with
  | none => e
  | some r =>
    let k := cfgKey fn off
    let old := e.rd k
    let m := beMask be
    let new := cfgSanitize off old (merge (r.mask &&& m) old v)
    let e := (e.wr k new).w1c k (v &&& m &&& r.w1c)
    let e := if off = 0x44 ∧ bit (e.rd k) 15 = false then { e with host.pmeAt := upd e.host.pmeAt fn fun _ => none } else e
    if off = 0x58 ∧ bit (v &&& m) 15 = true then e.flr fn else e

/-- A configuration request (R279): one for a function that exists, or not. -/
def configRequest (e : Engine) (q : CfgReq) : Engine :=
  if q.tlpPrefix then e.hostErr (if 2 ≤ q.fn then 0 else q.fn) .malformed false
  else if q.type1 || 2 ≤ q.fn then e.refuse 0 .ur .unsupported
  else match q.data with
    | some v => (e.cfgWrite q.fn (q.off % 4096 / 4 * 4) q.be v).complete q.fn .success []
    | none => e.complete q.fn .success [e.cfgView q.fn (q.off % 4096 / 4 * 4)]

/-- A message (R279, R296). -/
def message (e : Engine) (fn : Nat) (m : Msg) : Engine :=
  match m with
  | .vendorType0 => e.hostErr fn .ur false
  | .prefixed => e.hostErr fn .malformed false
  | .error x => e.rxErr fn x
  | .vendorType1 | .other => e

/-- A TLP reaches the engine: the link returns to L0, and in DOZE or on the way there that is a wake source (R63). -/
def arrives (e : Engine) : Engine :=
  let e := e.linkWake
  if e.sys.mode == .doze || e.sys.trans.isSome then e.wakeSource 6 else e

/-- The core reset ends in MEASURE (R72, R353). -/
def coreResetEnd (e : Engine) : Engine :=
  ((({ e with sys := { e.sys with phase := .run } }).powerFresh .measure).entered .measure).chartReport

end Engine

/-- APERTURE_READ as a request: a read of the aperture that the function takes, with what its check finds (R276). -/
def State.runAper (s : State) (h : Held) (off len : Nat) (us : List Upset) (base : Nat) : State × Option Held :=
  let e := s.eng
  if !e.portOpen h.port then (s, some h)
  else if !e.memOn 0 then ({ s with eng := e.refuse 0 .ur .unsupported }, none)
  else if e.heldOff (.aper off) then ({ s with eng := (e.frozenAbort 0).complete 0 .abort [] }, none)
  else if len = 0 then ({ s with eng := e.complete 0 .success [0#32] }, none)
  else if e.policy 0x22 = 2 ∨ Engine.linkDead e.hinge.s = true ∨ 2 ^ 28 < off + len ∨ e.memServes = true then
    (s.aperture off len us base, none)
  else ({ s with eng := e.demand 13 }, some h)

/-- EXPANSION_ROM_READ as a request (R277): it reaches the window while both enables are 1. -/
def Engine.runRom (e : Engine) (off len : Nat) : Engine :=
  if !(e.memOn 0 && bit (e.cfg 0 0x30) 0) then e.refuse 0 .ur .unsupported
  else if e.heldOff (.rom off) then (e.frozenAbort 0).complete 0 .abort []
  else if len = 0 then e.complete 0 .success [0#32]
  else e.romRead off len

end Sys2Proof.Machine
end

