-- ==== Sys2Proof/Machine/TwoWire.lean ====
section
/-! DEFINITION. The two-wire port (R302 to R321): register transactions with and without PEC, wake by address, bus
timeouts, attempts at notices. -/

namespace Sys2Proof.Machine

namespace Engine

/-- I2CT_CTL.pec. -/
def pec (e : Engine) : Bool := e.rb R.I2CT_CTL 0

/-- The pointer moves to the next slot of its page (R308). -/
def ptrNext (e : Engine) : Engine :=
  let p := e.i2c.ptr
  { e with i2c := { e.i2c with ptr := p / 256 * 256 + (p % 256 + 4) % 256 } }

def setPtr (e : Engine) (p : Nat) : Engine := { e with i2c := { e.i2c with ptr := p } }
def setBusy (e : Engine) (b : Bool) : Engine := { e with i2c := { e.i2c with busy := b } }

/-- The engine's address byte (R302). -/
def addrByte (e : Engine) (read : Bool) : Byte := BitVec.ofNat 8 (2 * e.i2c.addr + at1 read 0)

/-- Error bits of the I2CT page: 0 pec, 1 timeout, 2 bad_addr, 3 partial, 4 notice_fail. -/
def i2cErr (e : Engine) (b : Nat) : Engine := e.estat 0x07 (2 ^ b)

/-- A PEC mismatch on a write (R310). -/
def pecFail (e : Engine) (page : Nat) : Engine :=
  (((e.count R.I2CT_PEC_CNT).i2cErr 0).istat 0x07 16).push 0xC 0x02 2 page

end Engine

/-! ### The write part (R304, R306, R309, R310) -/

namespace Engine

/-- Data bytes without PEC: whole registers, and what is left of one (R309). -/
def i2cPlain (e : Engine) (acks : List Bool) (d : List Byte) : Engine × I2cRun :=
  (e, { acks := acks, todo := wordsOfBytes (d.take (d.length / 4 * 4)), rest := d.length % 4 })

/-- Data bytes with PEC: whole registers and the PEC byte, at most 16 of them (R310); head has the bytes before. -/
def i2cPec (e : Engine) (acks : List Bool) (head d : List Byte) : Engine × I2cRun :=
  let n := d.length - 1
  let all := acks ++ d.map fun _ => true
  if 65 < d.length then (e.i2cErr 3, { acks := acks ++ List.replicate 65 true ++ List.replicate (d.length - 65) false })
  else if d.length = 0 then (e, { acks := acks })
  else if n % 4 ≠ 0 ∨ n = 0 then (e.i2cErr 3, { acks := all })
  else if crc8 (head ++ d.take n) = d.getLastD 0#8 then (e, { acks := all, todo := wordsOfBytes (d.take n), pec := true })
  else (e.pecFail (e.i2c.ptr / 256), { acks := acks ++ List.replicate n true ++ [false] })

/-- The bytes of a write part after the address byte (R304, R306). -/
def i2cBody (e : Engine) (addr : Byte) : List Byte → Engine × I2cRun
  | [] => (e, { acks := [true] })
  | p :: t =>
    if (pageInfo? p.toNat).isNone then (e.i2cErr 2, { acks := true :: (p :: t).map fun _ => false })
    else match t with
      | [] => (e, { acks := [true, true] })
      | o :: d =>
        if o.toNat % 4 ≠ 0 then (e.i2cErr 2, { acks := true :: true :: (o :: d).map fun _ => false })
        else
          let e := e.setPtr (p.toNat * 256 + o.toNat)
          if e.pec then e.i2cPec [true, true, true] [addr, p, o] d else e.i2cPlain [true, true, true] d

/-- A write part: the address is NACKed while registers are not accepted (R306, R320, R321). -/
def i2cWrite (e : Engine) : List Byte → Engine × I2cRun
  | [] => (e, {})
  | a :: t => if a = e.addrByte false ∧ e.access = true then e.i2cBody a t else (e, { acks := (a :: t).map fun _ => false })

/-! ### The read part (R305, R307, R310) -/

/-- Registers that a read of count bytes performs: the first at the address, each further one after a fourth byte. -/
def regsRead (count : Nat) : Nat := max 1 ((count + 3) / 4)

/-- The read part's address byte. Under PEC at most rd_len + 1 registers are read, and the PEC byte follows where the
controller takes them all. -/
def i2cRead (e : Engine) (t : I2cRun) (addr : Byte) (count : Nat) : I2cRun :=
  if addr = e.addrByte true ∧ e.access = true then
    let n := e.rf R.I2CT_CTL 4 4 + 1
    let k := if e.pec then min n (regsRead count) else regsRead count
    { t with acks := t.acks ++ [true], reading := true, left := k, head := if e.pec && k == n then t.head else [] }
  else { t with acks := t.acks ++ [false] }

/-- The bytes that the engine sends: the registers, the PEC byte, then 0xFF. -/
def i2cBytes (t : I2cRun) (count : Nat) : List Byte :=
  ((t.got ++ if t.head.isEmpty then [] else [crc8 (t.head ++ t.got)]) ++ List.replicate count 0xFF#8).take count

/-- The transaction is over; after a lost arbitration ISTAT bit 2 says so (R319). -/
def i2cEnd (e : Engine) (t : I2cRun) : Engine :=
  let e := (e.setBusy false).send (.i2cAcks t.acks)
  let e := if t.reading then e.send (.i2cSent (i2cBytes t ((t.rd.map (·.2)).getD 0))) else e
  if t.lost then e.istat 0x07 4 else e

end Engine

/-! ### A transaction (R307, R309, R311) -/

/-- The port's access at the pointer. -/
def Engine.atPtr (e : Engine) (data : Option Word) : RegAccess :=
  { port := .i2c, page := e.i2c.ptr / 256, slot := e.i2c.ptr % 256, be := 15#4, data := data }

/-- The registers of the read part, one after the other; SCL is stretched while one waits (R311). -/
def State.i2cReads (s : State) (h : Held) (t : I2cRun) : Nat → State × Option Held
  | 0 => ({ s with eng := s.eng.i2cEnd t }, none)
  | n + 1 =>
    match s.attempt h (s.eng.atPtr none) with
    | (s', .waits sent) => (s', some { h with work := .i2c { t with left := n + 1 }, sent := sent, reply := none })
    | (s', .done v) =>
      { s' with eng := s'.eng.ptrNext }.i2cReads { h with sent := none, reply := none } { t with got := t.got ++ bytesOfWord (v.getD 0#32) } n

/-- What follows the registers of the write part: the bytes of an unfinished one, the read part. -/
def State.i2cTail (s : State) (h : Held) (t : I2cRun) : State × Option Held :=
  let e := if t.rest = 0 then s.eng else s.eng.i2cErr 3
  let t := { t with acks := t.acks ++ List.replicate t.rest true, rest := 0 }
  match t.rd with
  | none => ({ s with eng := e.i2cEnd t }, none)
  | some (a, n) =>
    let t := if t.reading then t else e.i2cRead t a n
    { s with eng := e }.i2cReads h t t.left

/-- The registers of the write part, one after the other: each is a write of its own, those under PEC in consecutive cycles
(R309, R310). A write that resets the core ends the transaction after its ACK (R321). -/
def State.i2cWrites (s : State) (h : Held) (t : I2cRun) : List Word → State × Option Held
  | [] => s.i2cTail h { t with todo := [] }
  | w :: ws =>
    match s.attempt h (s.eng.atPtr (some w)) with
    | (s', .waits sent) => (s', some { h with work := .i2c { t with todo := w :: ws }, sent := sent, reply := none })
    | (s', .done _) =>
      let t := { t with todo := ws, acks := if t.pec then t.acks else t.acks ++ [true, true, true, true] }
      if !s'.eng.access then ({ s' with eng := s'.eng.i2cEnd { t with acks := i2cLeft t, reading := false } }, none)
      else
        let s' := { s' with eng := s'.eng.ptrNext }
        let h : Held := { h with sent := none, reply := none, auth := s'.eng.auth 2 }
        if t.pec && !ws.isEmpty then (s', some { h with work := .i2c t, after := s'.eng.time.now + 1 })
        else s'.i2cWrites h t ws

/-- A transaction to the engine counts as a wake source (R63, R320), while it sleeps or enters sleep. -/
def Engine.addressed (e : Engine) (a : Byte) : Engine :=
  if a.toNat / 2 = e.i2c.addr ∧ (e.sys.mode.isSleep || e.sys.trans.isSome) = true ∧ (e.pwr.vddIo = true) then e.wakeSource 0 else e

/-- The address byte that a transaction starts with. -/
def firstByte : I2cTx → Byte
  | .write bs => bs.headD 0#8
  | .read [] a _ => a
  | .read (b :: _) _ _ => b

/-- A transaction starts: its write part as far as its registers, with the read part to come. -/
def Engine.i2cStart (e : Engine) (x : I2cTx) (lost : Bool) : Engine × I2cRun :=
  let e := e.setBusy true
  match x with
  | .write bs =>
    let r := (e.addressed (firstByte x)).i2cWrite bs
    (r.1, { r.2 with lost := lost })
  | .read wr a n =>
    let r := (e.addressed a).i2cWrite wr
    (r.1, { r.2 with lost := lost, rd := some (a, n), head := wr ++ [a] })

/-- A transaction of the port is served as far as it goes. -/
def State.runI2c (s : State) (h : Held) (t : I2cRun) : State × Option Held :=
  if t.todo.isEmpty then s.i2cTail h t else s.i2cWrites h t t.todo

/-! ### Notices (R317 to R319) -/

namespace Engine

/-- The bytes of a notice. -/
def noticeBytes (e : Engine) : List Byte :=
  let b := [BitVec.ofNat 8 (2 * e.rf R.I2CT_NOTICE 0 7), e.addrByte false] ++ bytesOfWord (e.irqSum &&& e.rd R.SYS_IRQ_I2C)
  if e.pec then b ++ [crc8 b] else b

/-- No notice is sent in DOZE or HIBERNATE, nor before a wake completes. -/
def mayNotice (e : Engine) : Bool := e.i2c.due && e.sys.phase == .run && !e.sys.mode.isSleep && e.sys.wake.isNone

/-- A bus timeout (R315). -/
def busTimeout (e : Engine) (controller : Bool) : Engine :=
  (((e.count R.I2CT_TMO_CNT).i2cErr 1).istat 0x07 8).push 0xC 0x01 1 (at1 controller 0)

/-- An attempt has failed (R318). -/
def noticeFailed (e : Engine) : Engine :=
  let n := e.i2c.attempts + 1
  if e.rf R.I2CT_NOTICE 8 4 < n then
    let e := { e with i2c := { e.i2c with due := false, attempts := 0, waiting := false } }
    ((e.i2cErr 4).istat 0x07 2).push 0xC 0x03 1 n
  else { e with i2c := { e.i2c with attempts := n, waiting := true, failAt := e.time.now } }

/-- The next attempt may start: after a failure the bus has been free for 1 ms (R318). -/
def noticeStart (e : Engine) (retry : Bool) : Bool :=
  e.mayNotice && e.i2c.waiting == retry && (!retry || decide (e.i2c.failAt + 625000 ≤ e.time.now))

/-- Another controller has won arbitration in the address byte: where they differ first it has a 0 (R319). -/
def lostInAddress (e : Engine) (x : I2cTx) : Bool := decide ((firstByte x).toNat < 2 * e.rf R.I2CT_NOTICE 0 7)

/-- Or in a later byte, after the same address byte. -/
def lostLater (e : Engine) (x : I2cTx) : Bool := decide ((firstByte x).toNat = 2 * e.rf R.I2CT_NOTICE 0 7)

/-- The winner's transaction names the engine. -/
def namesUs (e : Engine) (x : I2cTx) : Bool := decide ((firstByte x).toNat / 2 = e.i2c.addr)

/-- An attempt at a notice: it is withdrawn where the condition is zero. The answer: the transaction that won arbitration
and names the engine, which serves it as target (R319). -/
def notice (e : Engine) (r : NoticeResult) : Engine × Option I2cTx :=
  if !e.i2cCond then ({ e with i2c := { e.i2c with due := false, attempts := 0, waiting := false } }, none)
  else match r with
    | .sent =>
      let e := (e.send (.noticeSent e.noticeBytes)).istat 0x07 1
      ({ e with i2c := { e.i2c with due := false, attempts := 0, waiting := false } }, none)
    | .nacked => (e.noticeFailed, none)
    | .timeout => (if e.rb R.I2CT_CTL 12 then (e.busTimeout true).noticeFailed else e, none)
    | .lostArbitration x =>
      if e.lostInAddress x || e.lostLater x then
        let e := e.count R.I2CT_ARB_CNT
        ({ e with i2c := { e.i2c with waiting := false } }, if e.lostInAddress x && e.namesUs x then some x else none)
      else (e, none)

/-- A bus timeout ends the port's transaction as target (R315): what it has not written is discarded. -/
def targetAbort (e : Engine) : Engine :=
  let e := e.host.held.foldl (fun e h => match h.work with
    | .i2c t => e.i2cEnd { t with rd := t.rd.map fun x => (x.1, t.got.length), head := [] }
    | _ => e) e
  (e.heldDrop .i2c).busTimeout false

end Engine

/-! ### The commands -/

/-- AON_ADDRESS_MATCH (R63, R320): a START and an address byte in DOZE, HIBERNATE or on the way there; no ACK in sleep. -/
def execAonAddressMatch (addr : Byte) (s : State) : Out :=
  done s fun e =>
    let e := e.addressed addr
    if e.access then e else e.send (.i2cAcks [false])

/-- I2C_BUS_TIMEOUT (R315, R318): SCL low for 25 ms or more in a transaction of the port, as controller or target. -/
def execI2cBusTimeout (controller : Bool) (ms : Nat) (s : State) : Out :=
  done s fun e =>
    if !(e.access && e.rb R.I2CT_CTL 12 && decide (25 ≤ ms)) then e
    else if !controller then e.targetAbort
    else if e.noticeStart e.i2c.waiting then (e.notice .timeout).1 else e

end Sys2Proof.Machine
end

