-- ==== Sys2Proof/Machine/Access.lean ====
section
/-! DEFINITION. The three ports at work: what they ask for is served in the order of R12 and R284, or held (R17, R18, R72,
R330, R344). The commands of the ports, and the exchange of frames that carries their accesses to Cliff (R324 to R330). -/

namespace Sys2Proof.Machine

/-! ### Service -/

/-- EVQ_POP of a port whose turn has come (R238, R241). -/
def State.runPop (s : State) (h : Held) (flips : BitVec 64) : State × Option Held :=
  let a : RegAccess := { port := h.port, page := R.EVQ_POP_LO / 256, slot := R.EVQ_POP_LO % 256, be := 15#4, data := none }
  if !s.eng.portOpen h.port then (s, some h)
  else if !portHas (portCode h.port) a.page then ({ s with eng := s.eng.noPage a }, none)
  else
    let r := { s with eng := s.eng.served h.port }.evqPop (portCode h.port) flips
    ({ r.1 with eng := r.1.eng.answer a none (some r.2) }, none)

/-- What a port has asked for is served as far as it goes. A write that comes in a cycle of its own is checked against the
sessions at the start of that cycle (R310, R339). -/
def State.run (s : State) (h : Held) : State × Option Held :=
  let now := s.eng.time.now
  if now < h.after then (s, some h)
  else
    let h := if h.after = now then { h with auth := s.eng.auth (portCode h.port), after := 0 } else h
    match h.work with
    | .regs todo got fn => s.runRegs h fn todo got
    | .pop flips => s.runPop h flips
    | .mem q base => s.runMem h q base
    | .aper off len us base => s.runAper h off len us base
    | .rom off len => if s.eng.portOpen h.port then ({ s with eng := s.eng.runRom off len }, none) else (s, some h)
    | .cfg q => ({ s with eng := s.eng.configRequest q }, none)
    | .msg fn m => ({ s with eng := s.eng.message fn m }, none)
    | .bus x lost =>
      let r := s.eng.i2cStart x lost
      { s with eng := r.1 }.runI2c { h with work := .i2c r.2 } r.2
    | .i2c t => s.runI2c h t

/-- Takes what a port has waiting out of the list and serves it; what is left of it goes back to its place. -/
def State.serveHeld (s : State) (h : Held) : State × Bool :=
  match { s with eng.host.held := s.eng.host.held.erase h }.run h with
  | (s', none) => (s', true)
  | (s', some h') => ({ s' with eng.host.held := h' :: s'.eng.host.held }, false)

/-- What a port has waiting is served in order, as far as it may be. -/
def State.servePort (s : State) (p : Port) : Nat → State
  | 0 => s
  | n + 1 =>
    match s.eng.host.held.find? fun h => h.port == p with
    | none => s
    | some h =>
      match s.serveHeld h with
      | (s', true) => s'.servePort p n
      | (s', false) => s'

/-- The ports up to one in the order of R12. -/
def State.serveUpto (s : State) (p : Port) : State :=
  [Port.f0, .f1, .i2c].foldl (fun s q => if portCode q ≤ portCode p then s.servePort q s.eng.host.held.length else s) s

/-- Every port. -/
def State.serveAll (s : State) : State := s.serveUpto .i2c

/-- A port asks for something in this cycle: it is served at once where nothing that comes before it waits. -/
def State.submit (s : State) (p : Port) (w : Work) : State :=
  let h : Held := { port := p, auth := s.eng.auth (portCode p), work := w }
  if s.eng.portFirst p then
    match s.run h with
    | (s', none) => s'
    | (s', some h') => { s' with eng := s'.eng.hold h' }
  else { s with eng := s.eng.hold h }.serveUpto p

/-! ### Direct accesses -/

/-- A port speaks to the engine: a TLP arrives, or a transaction on the two-wire bus names the engine (R63, R291, R320). -/
def Engine.arrivesAt (e : Engine) (p : Port) : Engine :=
  match p with
  | .i2c => e.addressed (e.addrByte false)
  | .f0 | .f1 => if e.host.up then e.arrives else e

/-- A port asks for a register access. While registers are not accepted a function's request waits (R64, R72), and the
two-wire port's address is not acknowledged (R306). -/
def State.ask (s : State) (p : Port) (w : Work) : State :=
  if !s.eng.access && (p == .i2c || !s.eng.host.up) then s else s.submit p w

/-- A register access by a command of its own. -/
def State.access (s : State) (a : RegAccess) : State :=
  { s with eng := s.eng.arrivesAt a.port }.ask a.port (.regs [a] [] none)

/-- A command that is a register access: f is the effect of that access, where it is served at once. -/
def State.command (s : State) (a : RegAccess) (f : State → State) : State :=
  let s' : State := { s with eng := s.eng.arrivesAt a.port }
  if s'.eng.portReady a.port && portHas (portCode a.port) a.page then f { s' with eng := s'.eng.served a.port }
  else s'.ask a.port (.regs [a] [] none)

/-- A write of all four bytes of a register, by its key. -/
def wrAccess (p : Port) (k : Nat) (v : Word) : RegAccess :=
  { port := p, page := k / 256, slot := k % 256, be := 15#4, data := some v }

/-- A read of a register by a command for an access code: a slot of that code, one without a register, or one outside the
implemented pages (R11, R16). -/
def State.readIf (s : State) (port : Port) (page slot : Nat) (acc : Acc) : State :=
  let a : RegAccess := { port := port, page := page, slot := slot, be := 15#4, data := none }
  match row? page slot with
  | some r => if r.acc = acc then s.access a else s
  | none => s.access a

/-! ### Frames of Hinge-C that carry accesses (R324, R326, R330) -/

/-- The access that a frame has carried is done: what waits for it goes on. -/
def State.cliffDone (s : State) (p : Port) (seq : Nat) (v : Option Word) : State :=
  match s.eng.host.held.find? fun h => h.port == p && h.sent == some seq with
  | none => s
  | some h =>
    let s := { s with eng.host.held := s.eng.host.held.erase h }
    match s.run { h with sent := none, reply := some v } with
    | (s', none) => s'
    | (s', some h') => { s' with eng.host.held := h' :: s'.eng.host.held }

/-- The receiver of a frame executes what it carries: an access at Cliff, whose value returns in a frame of its own. -/
def State.linkExec (s : State) (seq : Nat) (op : HingeOp) : State :=
  match op with
  | .access a auth =>
    let r := s.perform auth a
    match r.2 with
    | some v => { r.1 with eng := r.1.eng.linkPut false false (some (.reply a.port seq v)) }
    | none => r.1.cliffDone a.port seq none
  | .reply p of v => s.cliffDone p of (some v)

/-- The oldest frame of an end of Hinge-C arrives intact, and its acknowledgement returns. -/
def State.exchange (s : State) (atHead : Bool) : State :=
  match (s.eng.linkEnd false atHead).out with
  | [] => s
  | f :: _ =>
    let r := s.eng.linkReceive false (!atHead) f.seq
    let s := { s with eng := r.1.linkAck false atHead f.seq }
    match f.op with
    | some op => if r.2 then s.linkExec f.seq op else s
    | none => s

/-- Several of them, in order. -/
def State.exchanges (s : State) (atHead : Bool) : Nat → State
  | 0 => s
  | n + 1 => (s.exchange atHead).exchanges atHead n

/-- Error injection would meet a frame or an acknowledgement of Hinge-C (R334): the exchange comes frame by frame. -/
def Engine.framesInjected (e : Engine) : Bool := e.hinge.active && (e.hinge.kind == 0 || e.hinge.kind == 1)

/-- The accesses to Cliff that wait complete as far as they can (R18, R330): those that may be sent are, the frames of
Headland arrive, then those of Cliff that answer them. -/
def State.cliffComplete (s : State) : State :=
  let s := s.serveAll
  if s.eng.linkOpen false && !s.eng.framesInjected then
    let s := s.exchanges true (s.eng.linkEnd false true).out.length
    (s.exchanges false (s.eng.linkEnd false false).out.length).serveAll
  else s

/-! ### The commands: registers -/

/-- REGISTER_WRITE (R6). -/
def execRegisterWrite (port : Port) (page slot : Nat) (be : BitVec 4) (v : Word) (s : State) : Out :=
  doneS (s.access { port := port, page := page, slot := slot, be := be, data := some v })

/-- RC_READ (R6, R12). -/
def execRcRead (port : Port) (page slot : Nat) (s : State) : Out := doneS (s.readIf port page slot .rc)

/-- RL_LO_READ (R8). -/
def execRlLoRead (port : Port) (page slot : Nat) (s : State) : Out := doneS (s.readIf port page slot .rl)

/-- EVQ_POP (R238, R241): a read of EVQ_POP_LO, with the bits of the entry's halves that have been disturbed. -/
def execEvqPop (port : Port) (flipHi flipLo : Word) (s : State) : Out :=
  doneS ({ s with eng := s.eng.arrivesAt port }.ask port (.pop (flipHi ++ flipLo)))

/-- INJECTION_ARM (R334): a write of 1 to DIAG_CTL.arm. -/
def execInjectionArm (port : Port) (s : State) : Out := doneS (s.access (wrAccess port R.DIAG_CTL 1#32))

/-- INJECTION_STOP (R334): a write of 0 to DIAG_CTL.arm. -/
def execInjectionStop (port : Port) (s : State) : Out := doneS (s.access (wrAccess port R.DIAG_CTL 0#32))

/-- REC_USER (R184). -/
def execRecUser (p : Port) (streams : BitVec 5) (arg : BitVec 10) (s : State) : Out :=
  doneS (s.command (wrAccess p R.REC_USER (w32 (streams.toNat * 2 ^ 16 + arg.toNat)))
    fun s => { s with eng := s.eng.recUser (portCode p) streams.toNat arg.toNat })

/-- CORE_RESET (R71, R72). -/
def execCoreReset (p : Port) (confirm : BitVec 16) (s : State) : Out :=
  doneS (s.command (wrAccess p R.SYS_RESET_CTL (w32 (confirm.toNat * 2 ^ 16 + 1)))
    fun s => if s.eng.mayReset confirm.toNat then s.coreReset else s)

/-- CLIFF_RESET (R71, R72). -/
def execCliffReset (p : Port) (confirm : BitVec 16) (s : State) : Out :=
  doneS (s.command (wrAccess p R.SYS_RESET_CTL (w32 (confirm.toNat * 2 ^ 16 + 2)))
    fun s => if s.eng.mayReset confirm.toNat then { s with eng := s.eng.cliffReset } else s)

/-- CORE_RESET_END (R72): held requests are served. -/
def execCoreResetEnd (s : State) : Out :=
  if s.eng.sys.phase = .coreReset then doneS ({ s with eng := s.eng.coreResetEnd }).serveAll else doneS s

/-! ### The commands: sessions -/

/-- A write of SEC_CMD with an op for a slot; f is its effect while the port programs no key. -/
def State.secCommand (s : State) (p : Port) (op slot confirm : Nat) (f : Engine → Engine) : State :=
  s.command (wrAccess p R.SEC_CMD (w32 (confirm * 2 ^ 16 + slot * 2 ^ 8 + op))) fun s =>
    { s with eng := if s.eng.secFree (portCode p) then f (s.eng.secCmdTouch (portCode p) slot) else s.eng }

/-- CHALLENGE (R343). -/
def execChallenge (p : Port) (slot : BitVec 2) (s : State) : Out :=
  doneS (s.secCommand p 1 slot.toNat 0 fun e => e.challenge (portCode p) slot.toNat)

/-- RESPOND (R344). -/
def execRespond (p : Port) (slot : BitVec 2) (s : State) : Out :=
  doneS (s.secCommand p 2 slot.toNat 0 fun e => e.respond (portCode p) slot.toNat)

/-- CLOSE (R349). -/
def execClose (p : Port) (slot : BitVec 2) (s : State) : Out :=
  doneS (s.secCommand p 3 slot.toNat 0 fun e => e.secClose (portCode p) slot.toNat)

/-- PROGRAM (R351). -/
def execProgram (p : Port) (slot : BitVec 2) (confirm : BitVec 16) (s : State) : Out :=
  doneS (s.secCommand p 4 slot.toNat confirm.toNat fun e => e.program (portCode p) slot.toNat confirm.toNat)

/-- CLEAR (R355). -/
def execClear (p : Port) (s : State) : Out := doneS (s.secCommand p 5 0 0 fun e => e.clearBuf (portCode p))

/-- SEC_BUF_WRITE (R342). -/
def execSecBufWrite (p : Port) (v : Word) (s : State) : Out :=
  doneS (s.command (wrAccess p R.SEC_BUF v) fun s => { s with eng := s.eng.secBuf (portCode p) v })

/-! ### The commands: PCI Express -/

/-- A TLP of a function reaches the engine over the link: it keeps the function's order (R284). -/
def State.tlp (s : State) (p : Port) (w : Work) : State :=
  if s.eng.host.up then { s with eng := s.eng.arrives }.submit p w else s

/-- MEMORY_READ_REQUEST (R275 to R280). -/
def execMemoryReadRequest (q : MemReq) (s : State) : Out :=
  doneS (s.tlp (s.eng.reqPort q) (.mem { q with data := [] } s.eng.aperBase))

/-- MEMORY_WRITE_REQUEST (R275, R279, R280): a write carries its data. -/
def execMemoryWriteRequest (q : MemReq) (s : State) : Out :=
  doneS (if q.data.isEmpty then s else s.tlp (s.eng.reqPort q) (.mem q s.eng.aperBase))

/-- APERTURE_READ (R276): a read of the aperture, with the disturbances that its check finds. -/
def execApertureRead (off len : Nat) (us : List Upset) (s : State) : Out :=
  doneS (s.tlp .f0 (.aper off len us s.eng.aperBase))

/-- EXPANSION_ROM_READ (R277, R278). -/
def execExpansionRomRead (off len : Nat) (s : State) : Out := doneS (s.tlp .f0 (.rom off len))

/-- A function by its port. -/
def fnPort (fn : Nat) : Port := if fn = 0 then .f0 else .f1

/-- CONFIGURATION_REQUEST (R271, R279): one that reaches no function has no order to keep. -/
def execConfigurationRequest (q : CfgReq) (s : State) : Out :=
  doneS (if q.type1 || 2 ≤ q.fn then (if s.eng.host.up then { s with eng := s.eng.arrives.configRequest q } else s)
    else s.tlp (fnPort q.fn) (.cfg q))

/-- MESSAGE_RECEIVED (R279, R296): what is no TLP has no order to keep. -/
def execMessageReceived (fn : Fin 2) (m : Msg) (s : State) : Out :=
  doneS (match m with
    | .error x => if s.eng.host.up then { s with eng := s.eng.rxErr fn.val x } else s
    | m => s.tlp (fnPort fn.val) (.msg fn.val m))

/-! ### The commands: the two-wire bus -/

/-- I2C_WRITE_TRANSACTION (R304, R309, R310): the bytes from the address byte on. -/
def execI2cWriteTransaction (bytes : List Byte) (s : State) : Out := doneS (s.submit .i2c (.bus (.write bytes) false))

/-- I2C_READ_TRANSACTION (R305, R307, R310): a write part, possibly none, the address byte of the read part, the bytes
that the controller takes. -/
def execI2cReadTransaction (wr : List Byte) (addr : Byte) (count : Nat) (s : State) : Out :=
  doneS (s.submit .i2c (.bus (.read wr addr count) false))

/-- An attempt at a notice, and the transaction that the engine serves after a lost arbitration (R319). -/
def State.attemptNotice (s : State) (r : NoticeResult) : State :=
  let x := s.eng.notice r
  let s := { s with eng := x.1 }
  match x.2 with
  | some t => s.submit .i2c (.bus t true)
  | none => s

/-- NOTICE (R317 to R319). -/
def execNotice (r : NoticeResult) (s : State) : Out := doneS (if s.eng.noticeStart false then s.attemptNotice r else s)

/-- NOTICE_RETRY (R318): the bus has been free for 1 ms after a failure. -/
def execNoticeRetry (r : NoticeResult) (s : State) : Out := doneS (if s.eng.noticeStart true then s.attemptNotice r else s)

/-! ### The commands: Hinge-C -/

/-- CLIFF_ACCESS_COMPLETE (R18, R330). -/
def execCliffAccessComplete (s : State) : Out := doneS s.cliffComplete

/-- HINGE_DATA_FRAME (R325, R326): what the receiver of a frame of Hinge-C executes is an access to Cliff or its answer. -/
def execHingeDataFrame (l : Link) (f : LinkFrame) (s : State) : Out :=
  let r := s.eng.dataFrame (isS l) f
  let s := { s with eng := r.1 }
  match l, r.2 with
  | .c, some op => doneS (s.linkExec (frameSeq f) op)
  | _, _ => doneS s

end Sys2Proof.Machine
end

