-- ==== Sys2Proof/Machine/Boundary.lean ====
section
/-! DEFINITION. The tide boundary (R29 to R38): snapshots, shadow commits and what each of them sets off, the mode request,
the blocks' tide work. With it the ends of a Hinge retrain (R328, R329). -/

namespace Sys2Proof.Machine

namespace Engine

/-! ### Overruns (R32) -/

/-- A block has not finished its tide work. -/
def overrun (e : Engine) (page : Nat) : Engine :=
  let e := (e.hwSet R.TIDE_STAT (w32 (2 ^ 30))).istat 0x03 4
  ((e.count R.TIDE_OVR_CNT).wr R.TIDE_OVR_SRC (w32 page)).push 0x1 0x06 1 page

/-- Cliff blocks whose commits, or whose fold, still wait for Hinge-C: one overrun each, and the fold's hits are discarded
(R31, R32). -/
def lateOverrun (e : Engine) : Engine :=
  let fold := e.tdc.fold.isSome
  let e := { e with tdc := { e.tdc with fold := none } }
  [0x10, 0x11, 0x12, 0x13, 0x14, 0x15].foldl (fun e p =>
    if (p == 0x15 && fold) || e.tide.late.any fun x => x.key % 65536 / 256 == p then e.overrun p else e) e

/-! ### Snapshots (R30 step 1, R40, R136, R150, R151) -/

def snapshots (e : Engine) : Engine :=
  let e := e.wr R.TB_SNAP_EP (w32 (e.rf R.TB_EPOCH 0 16))
  let tm : List Word := (List.range 4).map fun k => w32 (e.tmElapsed k)
  ({ e with tide := { e.tide with snapTb := e.time.tb, snapCn := e.seq.cn, snapTm := tm } }.tdcSnap).twSettle

/-! ### What a commit sets off -/

/-- TB compare windows and enables (R37, R43). -/
def chanCommit (e : Engine) (k i : Nat) (old new : Word) : Engine :=
  let set (f : Chan → Chan) : Engine := { e with time := { e.time with chans := upd e.time.chans i f } }
  let fresh (e : Engine) (m : BitVec 16) : Engine := { e with cyc := { e.cyc with fresh := e.cyc.fresh ||| m } }
  if k = R.TB_CMP_LO then set fun c => { c with hold := new }
  else if k = R.TB_CMP_HI then
    fresh (set fun c => { c with val := BitVec.ofNat 56 (fld new 0 24 * 2 ^ 32 + c.hold.toNat), catching := false })
      (BitVec.ofNat 16 (2 ^ i))
  else if k = R.TB_CMP_EN then fresh e ((new &&& ~~~old).setWidth 16)
  else e

/-- TDC and TDCCAL (R125, R130, R137). Every commit of TDCCAL_CTL commits its depth field, and clears the histograms though
depth stays as it was: R130 does not ask for a change as R137 does (DESIGN CHOICE, log entry 49). -/
def tdcCommit (e : Engine) (k i : Nat) (old new : Word) : Engine :=
  if k = R.TDC_D_CFG ∨ k = R.TDC_D_TMO then
    if old = new then e else e.setUnit i fun u => { u with start := none, lost := false }
  else if R.TDC_TIN0 ≤ k ∧ k ≤ R.TDC_TIN3 then
    if bit new 27 then e.setTin ((k - R.TDC_TIN0) / 4) fun t => { t with trip := false } else e
  else if k = R.TDCCAL_CTL then
    { e with tdc := { e.tdc with hist := List.replicate 4 (List.replicate 256 0) } }
  else e

/-- SEQL and PAT (R163, R165): the branches of the current level that an entry belongs to start afresh. -/
def seqCommit (e : Engine) (k i : Nat) : Engine :=
  let clear (bs : List Nat) : Engine :=
    if i = e.seq.level then
      bs.foldl (fun e b => { e with seq := { e.seq with
        cnt := upd e.seq.cnt b fun _ => 0, xprev := upd e.seq.xprev b fun _ => false } }) e
    else e
  if R.SEQL_COND_A ≤ k ∧ k < R.SEQL_COND_A + 16 then clear [(k - R.SEQL_COND_A) / 4]
  else if R.SEQL_ACT_A ≤ k ∧ k < R.SEQL_ACT_A + 16 then clear [(k - R.SEQL_ACT_A) / 4]
  else if k = R.SEQL_OCC_AB then clear [0, 1]
  else if k = R.SEQL_OCC_CD then clear [2, 3]
  else if R.PAT0_CFG ≤ k ∧ k < R.PAT0_CFG + 128 then
    { e with seq := { e.seq with pats := upd e.seq.pats ((k - R.PAT0_CFG) / 16) fun m => { m with run := 0 } } }
  else e

/-- _PWRCTL (R73, R379). -/
def pwrCommit (e : Engine) (k : Nat) (old : Word) : Engine :=
  match blkPages.findIdx? (· == k / 256) with
  | some i => e.policyCommit i (fld old 16 2)
  | none => e

/-- What the commit of one entry sets off beside its register. -/
def committed (e : Engine) (key : Nat) (old new raw : Word) : Engine :=
  let k := key % 65536
  let i := key / 65536
  if k % 256 = 0x08 then e.pwrCommit k old
  else if k = R.SYS_MODE_REQ then
    if fld raw 0 3 < 6 then e.requestCommit (fld new 8 8) (Mode.ofCode (fld raw 0 3)) else e
  else if k = R.CLK_CTL then (if fld old 0 1 = fld new 0 1 ∧ fld old 4 2 = fld new 4 2 then e else e.refChange)
  else if k / 256 = 0x05 then e.chanCommit k i old new
  else if k / 256 = 0x14 ∨ k / 256 = 0x15 then e.tdcCommit k i old new
  else if k / 256 = 0x19 ∨ k / 256 = 0x1A then e.seqCommit k i
  else e

/-- Commits one entry (R9, R10, R35). -/
def commit (e : Engine) (p : Pend) : Engine :=
  match row? (p.key % 65536 / 256) (p.key % 256) with
  | none => e
  | some r =>
    let old := e.rd p.key
    let new := written r p.key old p.val
    (e.wr p.key new).committed p.key old new p.val

/-- The entry can commit at this boundary (R34, R36). -/
def ripe (e : Engine) (p : Pend) : Bool :=
  if isCliff (p.key % 65536 / 256) then decide (p.at' + 1024 ≤ e.time.now) else decide (p.at' < e.time.now)

/-- What a Cliff entry does at its boundary: it waits for a retrain of Hinge-C, or is lost after a DIE_FAULT (R18, R31).
Values are carried to Cliff ahead of the boundary (R36), so a replay at the boundary itself defers nothing. -/
def commitOne (e : Engine) (p : Pend) : Engine :=
  if isCliff (p.key % 65536 / 256) then
    if linkLost e.hinge.c then e
    else if e.hinge.c.st == .retrain then { e with tide := { e.tide with late := e.tide.late ++ [p] } }
    else e.commit p
  else e.commit p

/-- The lanes whose pages entries reach. -/
def lanesOf (ps : List Pend) : List Nat := (List.range 4).filter fun m => ps.any fun p => p.key % 65536 / 256 == 0x10 + m

/-- The lanes' own checks after their commits (R83, R88, R89). -/
def lanesCommitted (e : Engine) (ps : List Pend) : Engine := (lanesOf ps).foldl feCommitted e

/-- The tail, then the cancels, of the entries that commit together (R253). -/
def jobCommits (e : Engine) (ps : List Pend) : Engine :=
  let e := (ps.filter fun p => p.key == R.JOB_TAIL).foldl (fun e p =>
    (e.wr R.JOB_TAIL (w32 (fld p.val 0 7))).tailCommit (fld p.val 0 7)) e
  (ps.filter fun p => p.key == R.JOB_CANCEL && bit p.val 31).foldl (fun e p => e.cancelCommit (fld p.val 0 6)) e

/-- Commits to Cliff are traffic of Hinge-C (R324): one frame for those of a boundary. The spec gives no count (DESIGN CHOICE,
log entry 34). -/
def commitFrame (e : Engine) (ps : List Pend) : Engine :=
  if ps.any fun p => isCliff (p.key % 65536 / 256) then e.linkSend false else e

/-- The captures of a calibration that runs are too: one frame from Cliff at each boundary. -/
def calFrame (e : Engine) : Engine :=
  if e.rb R.TDCCAL_CTL 0 && e.isOn 5 && e.isOn 6 then e.linkPut false false none else e

/-- The shadow commit (R30 step 2, R35, R38). -/
def shadowCommit (e : Engine) : Engine :=
  let ps := (e.tide.store.take 64).takeWhile e.ripe
  let rest := e.tide.store.drop ps.length
  let was := e.tide.backlog
  let e := { e with tide := { e.tide with store := rest, backlog := !rest.isEmpty } }
  let e := e.hwUpd R.TIDE_COMMITS fun w => putf w 16 7 ps.length
  let e := if !was && !rest.isEmpty then e.istat 0x03 2 else e
  let e := e.commitFrame ps
  (((ps.foldl commitOne e).lanesCommitted (if e.hinge.c.st = .retrain ∨ linkLost e.hinge.c then [] else ps)).jobCommits ps).tinSync.measLive

/-! ### Marks of the boundary cycle (R185, R213) -/

/-- Close-on-tide that has not reached a stream since the last boundary is an overrun (R31, R32). -/
def closeOverrun (e : Engine) : Engine :=
  let left := (List.range 5).any fun s => e.recb.closeLeft.getLsbD s && (e.stream s).on
  let e := { e with recb.closeLeft := 0#5 }
  if left then e.overrun 0x1D else e

/-- MARK.TIDE and close-on-tide. When the work does not reach a stream in its tide the spec does not say: that is free
(log entry 62); the stream's block stays open. -/
def boundaryMarks (e : Engine) : Engine :=
  (List.range 5).foldl (fun e s =>
    if !(e.recb.tideClose.testBit s && (e.stream s).on) then e
    else if Config.closeLate e.time.tides s then
      { e with recb.closeLeft := e.recb.closeLeft ||| BitVec.ofNat 5 (2 ^ s) }
    else e.inCyc s e.time.now fun c => { c with close := true }) e.tideMarks

/-! ### The blocks' tide work (R30 step 4, R31) -/

/-- CLK: tides of holdover, clean tides (R26). The boundary whose own commit enters a planned holdover (R27) is counted in
CLK_HOLD_TIDES, since the holdover is current when the clock system does its tide work (R30 step 4; DESIGN CHOICE, log
entry 22). -/
def clockTide (e : Engine) : Engine :=
  let e := if e.clk.pll = .holdover then e.wr R.CLK_HOLD_TIDES (w32 (stick 32 ((e.rd R.CLK_HOLD_TIDES).toNat + 1))) else e
  { e with clk := { e.clk with good := if e.clk.clean && e.clk.refPresent then e.clk.good + 1 else 0, clean := true } }

/-- HOST_PM_RES. -/
def hostTide (e : Engine) : Engine :=
  match e.host.pm with
  | .l1 | .l11 | .l12 => { e with host := { e.host with pmRes := e.host.pmRes + 1 } }
  | _ => e

/-- What counts once per tide starts afresh (R198, R332). -/
def tideClear (e : Engine) : Engine :=
  let ls : List Lane := e.lanes.map fun l => { l with dmgTide := false }
  { e with lanes := ls, tdc := { e.tdc with dmgTide := false }, mem := { e.mem with scrubUsed := 0 }
           time := { e.time with tides := e.time.tides + 1 } }

/-- The job engine's tide work; what the last tide left undone is an overrun. -/
def jobsTide (e : Engine) (left : Bool) : Engine :=
  ((if left then e.overrun 0x24 else e).stallTide).jobTide

/-- The work of the boundary cycle in the order of R30. -/
def boundary (e : Engine) (hits : List CalHit) : Engine :=
  let left := e.jobLeft
  let woke := e.sys.wake.isSome
  let e := { e with cyc := { e.cyc with boundary := true } }.istat 0x03 1
  let e := ((((e.lateOverrun.closeOverrun).snapshots).shadowCommit).startRun).boundaryMarks
  let e := (e.modeTide).podBoundary
  let e := if woke && e.sys.wake.isNone then e.podWake else e
  ((((((e.secTide.calFrame.calFold hits).powerTide).tdcLost).jobsTide left).clockTide).hostTide).tideClear

/-- This cycle's boundary is still to be taken: the engine counts, and it does not sleep unless its wake completes here
(R29, R33). During a core reset no boundary is taken, though the time base and the clock system run on: the blocks whose
tide work a boundary starts are in reset, so CLK_HOLD_TIDES and the count of good tides stand still until it ends (R71
and R72 do not say; DESIGN CHOICE, log entry 22). -/
def boundaryDue (e : Engine) : Bool :=
  e.atBoundary && !e.cyc.boundary && (e.sys.phase == .run || e.sys.phase == .waking)
    && (!e.sys.mode.isSleep || (match e.sys.wake with
      | some w => w.resumed
      | none => false))

/-! ### The ends of a retrain (R328, R329) -/

/-- Cliff commits that waited are applied in order (R31). -/
def lateCommit (e : Engine) : Engine :=
  let ps := e.tide.late
  let e := { e with tide := { e.tide with late := [] } }
  (((ps.foldl commit e).lanesCommitted ps).tinSync).foldLate

/-- A retrain completes. -/
def retrainDone (e : Engine) (s : Bool) : Engine :=
  let e := e.retrained s
  if s then e else e.lateCommit

/-- DIE_FAULT: held accesses to Cliff read 0 and write nothing, commits that wait are lost (R18); Shoal jobs end (R258),
and what a run that has ended still had for Shoal is lost (R58). -/
def linkFails (e : Engine) (s : Bool) : Engine :=
  let e := e.dieFault s
  if s then
    let e := e.jobsHingeDown
    if e.recb.running then e else e.dropShoal
  else { e with tide := { e.tide with late := [] } }

end Engine

/-! ### The commands -/

/-- TIDE_BOUNDARY (R30). -/
def execTideBoundary (hits : List CalHit) (s : State) : Out :=
  done s fun e => if e.boundaryDue then e.boundary hits else e

/-- RETRAIN_COMPLETE (R328, R329). -/
def execRetrainComplete (l : Link) (s : State) : Out :=
  done s fun e => if e.canTrain (isS l) then e.retrainDone (isS l) else e

/-- HINGE_DIE_FAULT (R329). -/
def execHingeDieFault (l : Link) (s : State) : Out :=
  if s.eng.trainFailed (isS l) then
    let s := { s with eng := s.eng.linkFails (isS l) }
    doneS s.serveAll
  else doneS s

end Sys2Proof.Machine
end

