-- ==== Sys2Proof/Machine/Tick.lean ====
section
/-! DEFINITION. The tick: the end of one coarse cycle and the beginning of the next (R1, R12, R39, R210, R239, R243). It is
what a step does on an empty queue (log entry 3). -/

namespace Sys2Proof.Machine

namespace Engine

/-! ### The end of a cycle -/

/-- Formatting of the cycles whose decision has been made: word c is decided in cycle c + 6 (R145, R174); in MEASURE
stream 4 has no sequencer to wait for (R188). -/
def formatStep (e : Engine) : Engine :=
  if e.recb.measLive then e.storeRest.formatUpto 4 (e.time.now + 1) 64 else e.formatAll (e.time.now + 1 - 6)

/-- What the blocks complete in a cycle without a command. -/
def cycleEnd (e : Engine) : Engine :=
  ((((((((((e.startRun).framesMissed).endByRequest).twSettle).routeStep).serveStep).formatStep).liveArrival).liveWords).runEnd).soleEnd

/-! ### The beginning of a cycle -/

/-- The AON count of a cycle: 32 768 Hz against 625 MHz. -/
def aonOf (n : Nat) : Nat := n * 512 / 9765625

/-- The settle counts of the slots that are POWERING advance at an AON edge (R102). -/
def settleEdge (e : Engine) : Engine :=
  { e with pods := e.pods.map fun p => if p.st == .powering then { p with settle := p.settle + 1 } else p }

/-- The next cycle recognises an AON edge; in slack water edges are commands of their own. -/
def aonEdge (e : Engine) : Bool := !e.time.coasting && aonOf (e.time.now + 1) != aonOf e.time.now

/-- The cycle count, the time base (R39), the count of AON periods, the settle counts. -/
def advance (e : Engine) : Engine :=
  let t := e.time
  let tb := if t.counting then t.tb + 1#56 else t.tb
  let edge := e.aonEdge
  let e := if edge then e.settleEdge else e
  { e with
    time := { t with now := t.now + 1, tb := tb, wrapDue := t.wrapDue || (t.counting && tb == 0#56) }
    pwr := { e.pwr with aon := if edge then (e.pwr.aon + 1) % 32768 else e.pwr.aon } }

/-- A re-armed run begins in its first cycle (R60); where that is a boundary cycle, with the boundary's commits. -/
def openRun (e : Engine) : Engine := if e.atBoundary then e else e.startRun

/-- The peaks that a read has cleared take the level that still holds. -/
def peaks (e : Engine) : Engine :=
  let e := if (e.rd R.STG_PEAK).toNat < e.stgWords then e.wr R.STG_PEAK (w32 e.stgWords) else e
  let n := e.tide.store.length
  if e.rf R.TIDE_COMMITS 0 9 < n then e.wr R.TIDE_COMMITS (putf (e.rd R.TIDE_COMMITS) 0 9 n) else e

/-- The next cycle begins. -/
def cycleBegin (e : Engine) : Engine :=
  let edge := e.aonEdge
  let e := e.advance.placeUsers
  let e := { e with cyc := { edge := edge }, mem := { e.mem with scrubAct := false } }
  let e := (e.openRun.countEnded).peaks
  (if e.time.counting then e.catchAll else e).dozeAccess

end Engine

/-- One coarse cycle passes. -/
def State.tick (s : State) : State :=
  let s := s.serveAll
  let s := { s with eng := s.eng.cycleEnd }.evqEnd
  { s with eng := s.eng.cycleBegin }.settled

end Sys2Proof.Machine
end

