-- ==== Sys2Proof/Machine/Dispatch.lean ====
section
/-! DEFINITION. The dispatch: one arm per row of the opcode table, each a direct call of the meaning of the command. -/

namespace Sys2Proof.Machine

def exec (i : Instr) (s : State) : Host.Outcome State Fault Refusal :=
  match i with
  | .registerWrite port page slot be value => Sys2Proof.Machine.execRegisterWrite port page slot be value s
  | .rcRead port page slot => Sys2Proof.Machine.execRcRead port page slot s
  | .rlLoRead port page slot => Sys2Proof.Machine.execRlLoRead port page slot s
  | .cliffAccessComplete => Sys2Proof.Machine.execCliffAccessComplete s
  | .tideBoundary hits => Sys2Proof.Machine.execTideBoundary hits s
  | .monitorWindow edges altEdges => Sys2Proof.Machine.execMonitorWindow edges altEdges s
  | .pllLock => Sys2Proof.Machine.execPllLock s
  | .timeBaseWrap => Sys2Proof.Machine.execTimeBaseWrap s
  | .slackWaterStep => Sys2Proof.Machine.execSlackWaterStep s
  | .coarseCountResume => Sys2Proof.Machine.execCoarseCountResume s
  | .x32Measurement ppb => Sys2Proof.Machine.execX32Measurement ppb s
  | .x32Fail => Sys2Proof.Machine.execX32Fail s
  | .timeCmpFire ch => Sys2Proof.Machine.execTimeCmpFire ch s
  | .modeTransitionComplete => Sys2Proof.Machine.execModeTransitionComplete s
  | .railSequenceStep periods => Sys2Proof.Machine.execRailSequenceStep periods s
  | .wakeIn rising => Sys2Proof.Machine.execWakeIn rising s
  | .aonAlarm => Sys2Proof.Machine.execAonAlarm s
  | .pllLockTimeout => Sys2Proof.Machine.execPllLockTimeout s
  | .powerGood => Sys2Proof.Machine.execPowerGood s
  | .bootComplete => Sys2Proof.Machine.execBootComplete s
  | .powerGoodFailure periods => Sys2Proof.Machine.execPowerGoodFailure periods s
  | .powerOnReset => Sys2Proof.Machine.execPowerOnReset s
  | .coreReset port confirm => Sys2Proof.Machine.execCoreReset port confirm s
  | .cliffReset port confirm => Sys2Proof.Machine.execCliffReset port confirm s
  | .testReset => Sys2Proof.Machine.execTestReset s
  | .blockWakeComplete block => Sys2Proof.Machine.execBlockWakeComplete block s
  | .rangeEntry lane ch => Sys2Proof.Machine.execRangeEntry lane ch s
  | .rangeExit lane ch => Sys2Proof.Machine.execRangeExit lane ch s
  | .ambigBegin lane ch => Sys2Proof.Machine.execAmbigBegin lane ch s
  | .ambigEnd lane ch => Sys2Proof.Machine.execAmbigEnd lane ch s
  | .podPresenceChange slot seated samples => Sys2Proof.Machine.execPodPresenceChange slot seated samples s
  | .podAttentionChange slot pressed samples => Sys2Proof.Machine.execPodAttentionChange slot pressed samples s
  | .podPowerOn slot => Sys2Proof.Machine.execPodPowerOn slot s
  | .podPowerOff slot => Sys2Proof.Machine.execPodPowerOff slot s
  | .podReady slot => Sys2Proof.Machine.execPodReady slot s
  | .fastDrop slot samples => Sys2Proof.Machine.execFastDrop slot samples s
  | .podGlitch slot samples => Sys2Proof.Machine.execPodGlitch slot samples s
  | .podFault slot samples => Sys2Proof.Machine.execPodFault slot samples s
  | .census slots => Sys2Proof.Machine.execCensus slots s
  | .censusTransaction reply => Sys2Proof.Machine.execCensusTransaction reply s
  | .censusRetry reply => Sys2Proof.Machine.execCensusRetry reply s
  | .busStuck cause freed => Sys2Proof.Machine.execBusStuck cause freed s
  | .podBusStuck => Sys2Proof.Machine.execPodBusStuck s
  | .tinEdge caps => Sys2Proof.Machine.execTinEdge caps s
  | .tdcTimeout unit => Sys2Proof.Machine.execTdcTimeout unit s
  | .tdcTermTrip input nv cycles => Sys2Proof.Machine.execTdcTermTrip input nv cycles s
  | .sequencerDecision => Sys2Proof.Machine.execSequencerDecision s
  | .timerLimit timer => Sys2Proof.Machine.execTimerLimit timer s
  | .preTriggerMet => Sys2Proof.Machine.execPreTriggerMet s
  | .postTriggerStop => Sys2Proof.Machine.execPostTriggerStop s
  | .trigOutPulseEnd => Sys2Proof.Machine.execTrigOutPulseEnd s
  | .trigInEdge level => Sys2Proof.Machine.execTrigInEdge level s
  | .sampleFrame frame => Sys2Proof.Machine.execSampleFrame frame s
  | .recUser port streams arg => Sys2Proof.Machine.execRecUser port streams arg s
  | .blockArrival => Sys2Proof.Machine.execBlockArrival s
  | .bankSwap => Sys2Proof.Machine.execBankSwap s
  | .stagingWordDelivery upset => Sys2Proof.Machine.execStagingWordDelivery upset s
  | .dropRest => Sys2Proof.Machine.execDropRest s
  | .blockPlacement => Sys2Proof.Machine.execBlockPlacement s
  | .scrubRead upsets => Sys2Proof.Machine.execScrubRead upsets s
  | .evqPop port flipHi flipLo => Sys2Proof.Machine.execEvqPop port flipHi flipLo s
  | .evqOverrun => Sys2Proof.Machine.execEvqOverrun s
  | .completion tag status poisoned data => Sys2Proof.Machine.execCompletion tag status poisoned data s
  | .entryRead slot upsets => Sys2Proof.Machine.execEntryRead slot upsets s
  | .blockRead slot upsets => Sys2Proof.Machine.execBlockRead slot upsets s
  | .decodeBlock => Sys2Proof.Machine.execDecodeBlock s
  | .jobWriteback ring => Sys2Proof.Machine.execJobWriteback ring s
  | .memoryReadRequest req => Sys2Proof.Machine.execMemoryReadRequest req s
  | .memoryWriteRequest req => Sys2Proof.Machine.execMemoryWriteRequest req s
  | .apertureRead off len upsets => Sys2Proof.Machine.execApertureRead off len upsets s
  | .expansionRomRead off len => Sys2Proof.Machine.execExpansionRomRead off len s
  | .configurationRequest req => Sys2Proof.Machine.execConfigurationRequest req s
  | .messageReceived fn msg => Sys2Proof.Machine.execMessageReceived fn msg s
  | .hostLinkUp speed width => Sys2Proof.Machine.execHostLinkUp speed width s
  | .hostLinkDown => Sys2Proof.Machine.execHostLinkDown s
  | .linkRecovery requested => Sys2Proof.Machine.execLinkRecovery requested s
  | .pciExpressReset cause => Sys2Proof.Machine.execPciExpressReset cause s
  | .flr fn => Sys2Proof.Machine.execFlr fn s
  | .pmPme fn => Sys2Proof.Machine.execPmPme fn s
  | .l0sEntry idle => Sys2Proof.Machine.execL0sEntry idle s
  | .l1Entry idleUs => Sys2Proof.Machine.execL1Entry idleUs s
  | .completionTimeout tag => Sys2Proof.Machine.execCompletionTimeout tag s
  | .breakwaterRelease => Sys2Proof.Machine.execBreakwaterRelease s
  | .i2cWriteTransaction bytes => Sys2Proof.Machine.execI2cWriteTransaction bytes s
  | .i2cReadTransaction wr addr count => Sys2Proof.Machine.execI2cReadTransaction wr addr count s
  | .aonAddressMatch addr => Sys2Proof.Machine.execAonAddressMatch addr s
  | .i2cBusTimeout controller ms => Sys2Proof.Machine.execI2cBusTimeout controller ms s
  | .notice result => Sys2Proof.Machine.execNotice result s
  | .noticeRetry result => Sys2Proof.Machine.execNoticeRetry result s
  | .hingeDataFrame link frame => Sys2Proof.Machine.execHingeDataFrame link frame s
  | .hingeAck link frame => Sys2Proof.Machine.execHingeAck link frame s
  | .hingeNak link frame => Sys2Proof.Machine.execHingeNak link frame s
  | .replayTimeout sender => Sys2Proof.Machine.execReplayTimeout sender s
  | .retrainC => Sys2Proof.Machine.execRetrainC s
  | .retrainS => Sys2Proof.Machine.execRetrainS s
  | .retrainComplete link => Sys2Proof.Machine.execRetrainComplete link s
  | .hingeDieFault link => Sys2Proof.Machine.execHingeDieFault link s
  | .shoalSelfRefresh => Sys2Proof.Machine.execShoalSelfRefresh s
  | .injectionArm port => Sys2Proof.Machine.execInjectionArm port s
  | .injectionStop port => Sys2Proof.Machine.execInjectionStop port s
  | .challenge port slot => Sys2Proof.Machine.execChallenge port slot s
  | .respond port slot => Sys2Proof.Machine.execRespond port slot s
  | .responseCheckComplete port => Sys2Proof.Machine.execResponseCheckComplete port s
  | .close port slot => Sys2Proof.Machine.execClose port slot s
  | .program port slot confirm => Sys2Proof.Machine.execProgram port slot confirm s
  | .programComplete port burned => Sys2Proof.Machine.execProgramComplete port burned s
  | .clear port => Sys2Proof.Machine.execClear port s
  | .secBufWrite port data => Sys2Proof.Machine.execSecBufWrite port data s
  | .challengeExpired port => Sys2Proof.Machine.execChallengeExpired port s
  | .secTimeout port slot => Sys2Proof.Machine.execSecTimeout port slot s
  | .lockoutEnd slot => Sys2Proof.Machine.execLockoutEnd slot s
  | .x32OkRise => Sys2Proof.Machine.execX32OkRise s
  | .clkreqNAsserted => Sys2Proof.Machine.execClkreqNAsserted s
  | .perstNRelease => Sys2Proof.Machine.execPerstNRelease s
  | .resetNRelease a1 a0 => Sys2Proof.Machine.execResetNRelease a1 a0 s
  | .vddIoLoss => Sys2Proof.Machine.execVddIoLoss s
  | .vddIoReturn => Sys2Proof.Machine.execVddIoReturn s
  | .coreResetEnd => Sys2Proof.Machine.execCoreResetEnd s
  | .postedCreditsReturn credits => Sys2Proof.Machine.execPostedCreditsReturn credits s

end Sys2Proof.Machine
end

