-- ==== Sys2Proof/Safety.lean ====
section
/-! DEFINITION. What counts as a sound state and as a safe step, in the terms that the statements use. -/

namespace Sys2Proof.Machine

/-- Shoal is in canonical form, all its bytes lie below 1 GiB (R190), and every word marked bad is one of its 2^27 words
(R197). -/
def Shoal.ok (s : Shoal) : Prop := s.mem.wf = true ∧ ∀ p ∈ s.bad, p.1 < 2 ^ 27

/-- The event queue holds at most its capacity, and pops see no more than it holds (R237, R243). -/
def EvQueue.ok (q : EvQueue) : Prop := q.entries.length ≤ evqSize ∧ q.visible ≤ q.entries.length

/-- The invariant of every step. -/
def State.Inv (s : State) : Prop := s.shoal.ok ∧ s.evq.ok

/-- The command leaves the engine e and what follows from it at once in the same cycle (Engine.settle); the event queue,
Shoal and the waiting commands stay. -/
def Leaves (c : Instr) (s : State) (e : Engine) : Prop := exec c s = .next { s with eng := e.settle }

/-- The command answers a next state: the engine it leaves, up to what follows from it at once, has the property; the event
queue, Shoal and the waiting commands stay. -/
def Does (c : Instr) (s : State) (p : Engine → Prop) : Prop := ∃ e, Leaves c s e ∧ p e

/-- The command changes nothing, but for what follows at once. -/
def Idles (c : Instr) (s : State) : Prop := Leaves c s s.eng

/-- Registers other than those listed hold in b what they held in a. -/
def RegsKept (ks : List Nat) (a b : Engine) : Prop := ∀ k, k ∉ ks → b.rd k = a.rd k

/-- a with b's registers, and with what hardware has set and counted in this cycle as b has it. -/
def Engine.marked (a b : Engine) : Engine :=
  { a with regs := b.regs, cyc := { a.cyc with sets := b.cyc.sets, rc := b.cyc.rc } }

/-- The event that a push in this cycle makes (R237). -/
def Engine.event (e : Engine) (source code prio arg : Nat) : Event :=
  { source := source, code := code, prio := prio, arg := arg % 4096, time := e.time.tb.toNat % 2 ^ 40 }

/-- f is e in DOZE after the recognition of wake source i (R63, R64): the source, the target, the PLL's start, the rails. -/
def Woken (e : Engine) (i : Nat) (f : Engine) : Prop :=
  f.rd R.SYS_WAKE_SRC = w32 (2 ^ i) ∧ RegsKept [R.SYS_WAKE_SRC] e f ∧
  f.sys = { e.sys with
    wake := some { src := .doze, tgt := if e.rf R.SYS_WAKE_EN 8 2 = 1 then .unload else .measure, at' := e.time.now, fromHib := false }
    target := if e.rf R.SYS_WAKE_EN 8 2 = 1 then .unload else .measure, transTides := 0, phase := .waking } ∧
  f.clk = { e.clk with pll := .acquiring, start := e.time.now, good := 0, since := e.time.now, x32Valid := false } ∧
  f = { e.marked f with sys := f.sys, clk := f.clk, pwr := f.pwr }

/-- What port p finds where its access is served at once: it has been heard, and its turn in the cycle has come (R12, R17). -/
def Engine.serving (e : Engine) (p : Port) : Engine := (e.arrivesAt p).served p

/-- An access of port p is served at once: registers are accepted, and nothing that comes before it waits (R17, R72, R344). -/
def State.ready (s : State) (p : Port) : Bool := (s.eng.arrivesAt p).portReady p

/-- Where something that comes before it waits, what port p asks for takes its place behind, and as much of what waits as
can be served is (R12, R17, R284). e is the engine that has heard the port. -/
def Queues (c : Instr) (s : State) (e : Engine) (p : Port) (w : Work) : Prop :=
  e.portFirst p = false →
    exec c s = .next ({ s with eng := e.hold { port := p, auth := e.auth (portCode p), work := w } }.serveUpto p).settled

/-- The command is an access of port p of its own: where it cannot be served at once it waits, behind what the port has
waiting (R17, R18, R72, R344); while registers are not accepted, an access that no link has brought is lost (R64, R306). -/
def WaitsItsTurn (c : Instr) (s : State) (p : Port) (w : Work) : Prop :=
  let e := s.eng.arrivesAt p
  let h : Held := { port := p, auth := e.auth (portCode p), work := w }
  let lost : Prop := e.access = false ∧ (p = .i2c ∨ e.host.up = false)
  (lost → Leaves c s e) ∧
  (¬lost → e.portFirst p = true → e.portOpen p = false → Leaves c s (e.hold h)) ∧
  (¬lost → Queues c s e p w)

/-- What function fn is sent last: t stands at the end of what has been transmitted or, where posted writes wait for
credit, behind them (R284, R285). e is the engine before, f after. -/
def Answers (e f : Engine) (t : Tx) : Prop :=
  if e.waits t then (f.job.outQ.getLast?).bind (·.tlp) = some t else f.tx.getLast? = some t

/-- f is e after function fn has found an Unsupported Request (R279, R296): counted, kept as the last error, told by the
interrupt; registers of its configuration space and the error counters aside, no register changes, nor what the function
has not to do with. -/
def Unsupported (fn : Nat) (e f : Engine) : Prop :=
  f.rd R.HOST_UR_CNT = bump16 (e.rd R.HOST_UR_CNT) ∧ f.rd (istatKey 0x25) = e.rd (istatKey 0x25) ||| 32#32 ∧
  f.host.lastErr = w32 (2 ^ 31 + fn * 2 ^ 28 + 2 ^ 24 + e.time.tb.toNat % 2 ^ 24) ∧
  (∀ k, k ∉ [R.HOST_UR_CNT, R.HOST_CORR_CNT, estatKey 0x25, istatKey 0x25] → (∀ off, off < 0x1000 → k ≠ cfgKey fn off) → f.rd k = e.rd k) ∧
  f = { e.marked f with tx := f.tx, host := f.host, job := { e.job with outQ := f.job.outQ } }

/-- An access of port p to a page that it has not (R16): Unsupported Request of a function, bad_addr of the two-wire port. -/
def PageMissing (p : Port) (e f : Engine) : Prop :=
  match p with
  | .i2c => f.rd (estatKey 0x07) = e.rd (estatKey 0x07) ||| 4#32 ∧ RegsKept [estatKey 0x07] e f ∧ f = e.marked f
  | _ => Unsupported (portCode p) e f

/-- The commands of the three ports, and those that let what the ports have waiting be served. -/
def servesPorts : Instr → Bool
  | .registerWrite .. | .rcRead .. | .rlLoRead .. | .cliffAccessComplete | .evqPop .. | .recUser .. | .coreReset ..
  | .cliffReset .. | .injectionArm .. | .injectionStop .. | .challenge .. | .respond .. | .close .. | .program ..
  | .clear .. | .secBufWrite .. | .memoryReadRequest .. | .memoryWriteRequest .. | .apertureRead ..
  | .expansionRomRead .. | .configurationRequest .. | .messageReceived .. | .i2cWriteTransaction ..
  | .i2cReadTransaction .. | .notice .. | .noticeRetry .. | .hingeDataFrame .. | .hingeDieFault .. | .coreResetEnd => true
  | _ => false

/-- The commands that can change a byte of Shoal, or mark a word bad: those that serve an aperture read among them. -/
def writesShoal (c : Instr) : Bool :=
  servesPorts c || match c with
    | .entryRead .. | .blockRead .. | .scrubRead .. | .blockPlacement | .modeTransitionComplete | .powerGoodFailure ..
    | .powerOnReset => true
    | _ => false

/-- The commands that can take entries from the event queue, add one, or empty it: those that serve register accesses,
EVQ_OVERRUN, the resets and the boot. -/
def reachesQueue (c : Instr) : Bool :=
  servesPorts c || match c with
    | .evqOverrun | .bootComplete | .powerOnReset => true
    | _ => false

/-- A step is safe where it answers a next state. -/
def State.safe (s : State) : Prop := ∃ t, step s = .next t

end Sys2Proof.Machine
end

