-- ==== Sys2Proof/Certificates/Slice0/Obligations.lean ====
section
/-! DEFINITION. The obligations: what the provers prove of this model. A statement about a command says under which
hypotheses on the state and the operands it completes, what it leaves, and that it leaves the rest. -/


open Sys2Proof Sys2Proof.Machine

/-! ### The machine as a whole -/

/-- A step with a command in front of the queue runs that command on the state with the queue's rest. -/
def Obligations.StepRunsFrontCommand : Prop :=
  ∀ (c : Instr) (rest : List Instr) (s : State),
    step { s with pending := c :: rest } = exec c { s with pending := rest }

/-- A step on an empty queue is one coarse cycle (the model's choice: log entry 3): where no port's request waits, the
cycle count moves on by one, the time base by 1 while it counts (R39), and neither the count of tides, the snapshot of the
time base nor the shadow store changes. -/
def Obligations.IdleStepPassesACycle : Prop :=
  ∀ s : State, s.pending = [] → s.eng.host.held = [] →
    ∃ t, step s = .next t ∧ t.pending = [] ∧ t.eng.time.now = s.eng.time.now + 1 ∧
      t.eng.time.tb = (if s.eng.time.counting then s.eng.time.tb + 1#56 else s.eng.time.tb) ∧
      t.eng.time.counting = s.eng.time.counting ∧ t.eng.time.tides = s.eng.time.tides ∧
      t.eng.tide.snapTb = s.eng.tide.snapTb ∧ t.eng.tide.store = s.eng.tide.store

/-- Reset leaves Shoal in canonical form and the event queue within its capacity. -/
def Obligations.InvAtReset : Prop := State.reset.Inv

/-- Every step keeps Shoal in canonical form, its addresses below 1 GiB and its bad words among its words (R190, R197), and
the event queue within its 256 entries, its pops within what it holds (R237, R243). -/
def Obligations.InvKeptByStep : Prop := ∀ s t : State, s.Inv → step s = .next t → t.Inv

/-- No command is refused; only the three commands that address Shoal by stored pointers can fault, and then because an
address lies beyond Shoal (R190). -/
def Obligations.CommandsAreModelled : Prop :=
  ∀ (c : Instr) (s : State), (∃ t, exec c s = .next t) ∨
    (exec c s = .fault .shoalRange ∧ ((∃ k us, c = .entryRead k us) ∨ (∃ k us, c = .blockRead k us) ∨ c = .blockPlacement))

/-- No command touches the queue of the commands that wait behind it. -/
def Obligations.CommandsKeepTheWaiting : Prop :=
  ∀ (c : Instr) (s t : State), exec c s = .next t → t.pending = s.pending

/-- Every command but those that address it, check it or take its power, and those with which a port's aperture read may be
served, leaves every byte of Shoal, and which words are bad, as they were; none of the others than those with which a port's
register access may be served, the queue's own commands, the resets and the boot touches the event queue. -/
def Obligations.OtherCommandsKeepShoalAndQueue : Prop :=
  ∀ (c : Instr) (s t : State), exec c s = .next t →
    (writesShoal c = false → t.shoal.mem = s.shoal.mem ∧ t.shoal.bad = s.shoal.bad) ∧
    (reachesQueue c = false → t.evq = s.evq)

/-- What follows from a command at once (INTx and LTR messages, a notice that becomes due: R286, R288, R293, R317) changes
no register and no part of the engine but what the host port has said, what it transmits, or has waiting behind posted
writes (R284), and the notice. -/
def Obligations.SettleKeepsTheRest : Prop :=
  ∀ e : Engine, ∃ out wait : List Tx, e.settle = { e with
      tx := e.tx ++ out
      job := { e.job with outQ := e.job.outQ ++
        (wait.map fun t => { ring := 64, addr := 0, bytes := [], upTo := 0, tlp := some t }) }
      host := { e.host with pm := e.settle.host.pm, clkreq := e.settle.host.clkreq, inta := e.settle.host.inta,
                            intb := e.settle.host.intb, msgs := e.settle.host.msgs, ltrOn := e.settle.host.ltrOn,
                            ltrAct := e.settle.host.ltrAct }
      i2c := { e.i2c with cond := e.settle.i2c.cond, due := e.settle.i2c.due } } ∧
    (e.job.outQ = [] → wait = []) ∧
    (∀ x ∈ out ++ wait, (∃ fn, x = .assertIntx fn) ∨ (∃ fn, x = .deassertIntx fn) ∨ ∃ w, x = .ltr w)

/-! ### Clocks and the time base -/

/-- MONITOR_WINDOW (R25), while the sample clock runs: the window's verdict alone; where it is the second failing one in
sequence and the PLL is locked, the reference is lost. -/
def Obligations.MonitorWindowJudgesTheReference : Prop :=
  ∀ (s : State) (n alt : Nat), s.eng.pwr.enCore = true → (s.eng.time.counting = true ∨ s.eng.sys.phase = .waking) →
    let sel := s.eng.rb R.CLK_CTL 0
    let bad := decide (s.eng.expectEdges sel < 8 * (max n (s.eng.expectEdges sel) - min n (s.eng.expectEdges sel)))
    let altBad := decide (s.eng.expectEdges (!sel) < 8 * (max alt (s.eng.expectEdges (!sel)) - min alt (s.eng.expectEdges (!sel))))
    let clk := { s.eng.clk with
      refPresent := !bad, altPresent := !altBad, failed := bad
      good := if bad then 0 else s.eng.clk.good, clean := if bad then false else s.eng.clk.clean
      since := if bad then s.eng.time.now else s.eng.clk.since }
    if bad = true ∧ s.eng.clk.failed = true ∧ s.eng.clk.pll = .locked then
      Does (.monitorWindow n alt) s fun e =>
        e.rd R.CLK_LOSS_CNT = bump16 (s.eng.rd R.CLK_LOSS_CNT) ∧ e.rd R.CLK_HOLD_TIDES = 0#32 ∧
        e.rd (istatKey 0x02) = s.eng.rd (istatKey 0x02) ||| 1#32 ∧
        RegsKept [R.CLK_LOSS_CNT, R.CLK_HOLD_TIDES, istatKey 0x02] s.eng e ∧
        e = { s.eng.marked e with
          clk := { clk with pll := .holdover, start := s.eng.time.now, good := 0, clean := false, x32Valid := false }
          recb := (s.eng.anchorAll 0x001).recb
          arriving := s.eng.arriving ++ [s.eng.event 0x1 0x03 0 (if s.eng.clk.srcActive then 1 else 0)] }
    else Leaves (.monitorWindow n alt) s { s.eng with clk := clk }

/-- PLL_LOCK (R26), where the reference has passed its windows for CLK_MON.good_tides tides, or, while the engine does not
count, for as long as they last (the model's reading: log entry 26): the latency; out of holdover also the interrupt, the
anchors in the records and the event.
PLL_LOCK_TIMEOUT (R65): 10 ms after the recognition of a wake with the PLL still acquiring, it runs in holdover. -/
def Obligations.PllLocksOrTimesOut : Prop :=
  (∀ s : State, s.eng.clk.pll ≠ .locked → s.eng.clk.refPresent = true →
     (if s.eng.time.counting then s.eng.rf R.CLK_MON 0 8 ≤ s.eng.clk.good
       else s.eng.clk.since + s.eng.rf R.CLK_MON 0 8 * 2 ^ s.eng.tideN ≤ s.eng.time.now) →
     let src := s.eng.rb R.CLK_CTL 0
     let lat := w32 (stick 24 (s.eng.time.now - s.eng.clk.start))
     let clk := { s.eng.clk with pll := .locked, everLocked := true, srcActive := src }
     Does .pllLock s fun e =>
       e.rd R.CLK_LOCK_LAT = lat ∧
       (s.eng.clk.pll = .acquiring → RegsKept [R.CLK_LOCK_LAT] s.eng e ∧ e = { s.eng.marked e with clk := clk }) ∧
       (s.eng.clk.pll = .holdover →
         e.rd (istatKey 0x02) = s.eng.rd (istatKey 0x02) ||| 2#32 ∧ RegsKept [R.CLK_LOCK_LAT, istatKey 0x02] s.eng e ∧
         e = { s.eng.marked e with
           clk := clk, recb := (s.eng.anchorAll 0x002).recb
           arriving := s.eng.arriving ++ [s.eng.event 0x1 0x04 2 (if src then 1 else 0)] })) ∧
  (∀ (s : State) (w : Wake), s.eng.sys.wake = some w → s.eng.sys.phase = .waking → s.eng.clk.pll = .acquiring →
     w.at' + 6250000 ≤ s.eng.time.now →
     Does .pllLockTimeout s fun e =>
       e.rd R.CLK_LOSS_CNT = bump16 (s.eng.rd R.CLK_LOSS_CNT) ∧ e.rd R.CLK_HOLD_TIDES = 0#32 ∧
       RegsKept [R.CLK_LOSS_CNT, R.CLK_HOLD_TIDES] s.eng e ∧
       e = { s.eng.marked e with
         clk := { s.eng.clk with
           pll := .holdover, start := s.eng.time.now, good := 0, clean := false, since := s.eng.time.now, x32Valid := false }
         arriving := s.eng.arriving ++ [s.eng.event 0x1 0x03 0 (if s.eng.clk.srcActive then 1 else 0)] })

/-- X32_MEASUREMENT, X32_FAIL and X32_OK_RISE (R42, R49): the AON clock against the sample clock. -/
def Obligations.AonClockIsMeasured : Prop :=
  (∀ (s : State) (ppb : Word), s.eng.clk.pll = .locked → s.eng.clk.x32Ok = true →
    Does (.x32Measurement ppb) s fun e => e.rd R.TB_X32_ERR = ppb ∧ RegsKept [R.TB_X32_ERR] s.eng e ∧
      e = { s.eng.marked e with clk := { s.eng.clk with x32Valid := true } }) ∧
  (∀ s : State, Does .x32Fail s fun e =>
    e.rd (estatKey 0x02) = s.eng.rd (estatKey 0x02) ||| 1#32 ∧ RegsKept [estatKey 0x02] s.eng e ∧
    e = { s.eng.marked e with clk := { s.eng.clk with x32Valid := false, x32Ok := false } }) ∧
  (∀ s : State, s.eng.clk.x32Ok = false → Does .x32OkRise s fun e =>
    e.rd (istatKey 0x02) = s.eng.rd (istatKey 0x02) ||| 4#32 ∧ RegsKept [istatKey 0x02] s.eng e ∧
    e = { s.eng.marked e with clk := { s.eng.clk with x32Ok := true } })

/-- TIME_BASE_WRAP (R39): the epoch counts the wrap, or its overflow bit sets at 65 535; the interrupt, the event where
it is enabled, and a counting engine closes the open block of every stream. -/
def Obligations.TimeBaseWrapCountsTheEpoch : Prop :=
  ∀ s : State, s.eng.time.wrapDue = true → Does .timeBaseWrap s fun e =>
    e.rd R.TB_EPOCH = (if s.eng.rf R.TB_EPOCH 0 16 = 65535 then s.eng.rd R.TB_EPOCH ||| 0x80000000#32
      else s.eng.rd R.TB_EPOCH + 1#32) ∧
    e.rd (istatKey 0x05) = s.eng.rd (istatKey 0x05) ||| 0x10000#32 ∧ RegsKept [R.TB_EPOCH, istatKey 0x05] s.eng e ∧
    e = { s.eng.marked e with
      time := { s.eng.time with wrapDue := false }
      recb := if s.eng.time.counting then (s.eng.inAll s.eng.time.now fun c => { c with close := true }).recb else s.eng.recb
      arriving := s.eng.arriving ++ if s.eng.rb R.TB_CTL 2 then
        [s.eng.event 0x1 0x02 (s.eng.rf R.TB_CTL 0 2) (e.rf R.TB_EPOCH 0 12)] else [] }

/-- SLACK_WATER_STEP (R41): the first edge of the AON clock stops the coarse count; each further one adds 19 073 and
249/512, the sum's fraction kept. In DOZE the compare channels then catch up. -/
def Obligations.SlackWaterStepAdvancesTheTimeBase : Prop :=
  (∀ s : State, s.eng.time.coasting = true → s.eng.time.counting = true →
    Leaves .slackWaterStep s { s.eng with
      time := { s.eng.time with counting := false, acc := 0 }, pwr := { s.eng.pwr with aon := (s.eng.pwr.aon + 1) % 32768 } }) ∧
  (∀ s : State, s.eng.time.coasting = true → s.eng.time.counting = false →
    let t := s.eng.time
    let inc := if 512 ≤ t.acc + 249 then 19074 else 19073
    let e' := { s.eng with
      time := { t with
        acc := (t.acc + 249) % 512, tb := t.tb + BitVec.ofNat 56 inc, slackLen := t.slackLen + 1, advance := t.advance + inc
        wrapDue := t.wrapDue || decide ((t.tb + BitVec.ofNat 56 inc).toNat < inc) }
      pwr := { s.eng.pwr with aon := (s.eng.pwr.aon + 1) % 32768 } }
    (s.eng.sys.mode ≠ .doze → Leaves .slackWaterStep s e') ∧
    (s.eng.sys.mode = .doze → Leaves .slackWaterStep s e'.catchAll))

/-- COARSE_COUNT_RESUME (R41, R42): the length of slack water, its estimated error where a measurement was valid at its
beginning, the interrupt and the event; counting goes on, and every stream owes an anchor. -/
def Obligations.CoarseCountResumes : Prop :=
  ∀ (s : State) (w : Wake), s.eng.sys.wake = some w → s.eng.sys.phase = .waking → w.resumed = false →
    s.eng.clk.pll ≠ .acquiring →
    let t := s.eng.time
    let v := roundDiv ((t.advance : Int) * t.errEntry.toInt) 1000000000
    let fits := -(2 ^ 31 : Int) ≤ v ∧ v < (2 ^ 31 : Int)
    Does .coarseCountResume s fun e =>
      e.rd R.TB_SLACK_LEN = w32 (stick 32 t.slackLen) ∧
      (t.validEntry = true → fits → e.rd R.TB_SLACK_ERR = BitVec.ofInt 32 v ∧ e.clk.slackValid = true) ∧
      (t.validEntry = true → ¬fits →
        e.rd R.TB_SLACK_ERR = (if v < 0 then 0x80000000#32 else 0x7FFFFFFF#32) ∧ e.clk.slackValid = false) ∧
      (t.validEntry = false → e.rd R.TB_SLACK_ERR = 0#32 ∧ e.clk.slackValid = false) ∧
      e.rd (istatKey 0x05) = s.eng.rd (istatKey 0x05) ||| 0x20000#32 ∧
      RegsKept [R.TB_SLACK_LEN, R.TB_SLACK_ERR, istatKey 0x05] s.eng e ∧
      e = { s.eng.marked e with
        clk := { s.eng.clk with slackValid := e.clk.slackValid }
        time := { t with coasting := false, counting := true, owed := 31#5, slackLen := 0, advance := 0, acc := 0 }
        sys := { s.eng.sys with wake := some { w with resumed := true } }
        arriving := s.eng.arriving ++ [s.eng.event 0x1 0x05 2 0] }

/-- TIME_CMP_FIRE (R44, R45): an enabled channel whose value is due fires: the fire time, the interrupt, the event where
it is enabled; a periodic channel moves on by its reload, and catches up where the new value is due already, another is
disabled; a fire past its value is late. -/
def Obligations.CompareChannelFires : Prop :=
  ∀ (s : State) (k : Fin 16) (c : Chan), s.eng.time.chans[k.val]? = some c → c.catching = false →
    s.eng.time.counting = true → s.eng.sys.mode.isSleep = false → s.eng.sys.trans = none →
    s.eng.rb R.TB_CMP_EN k = true → (s.eng.time.tb - c.val).toNat < 2 ^ 55 →
    s.eng.cyc.fires.getLsbD k = false → s.eng.cyc.fresh.getLsbD k = false →
    let periodic := s.eng.rb (win R.TB_CMP_HI k) 31
    let val := c.val + (s.eng.rd (win R.TB_CMP_RLD k)).setWidth 56
    let next := { c with val := val, catching := decide ((s.eng.time.tb - val).toNat < 2 ^ 55) }
    Does (.timeCmpFire k) s fun e =>
      e.rd (R.TB_FT0 + 4 * k) = s.eng.time.tb.setWidth 32 ∧
      e.rd (istatKey 0x05) = s.eng.rd (istatKey 0x05) ||| w32 (2 ^ k.val) ∧
      e.rd R.TB_CMP_LATE = (if s.eng.time.tb = c.val then s.eng.rd R.TB_CMP_LATE
        else s.eng.rd R.TB_CMP_LATE ||| w32 (2 ^ k.val)) ∧
      e.rd R.TB_CMP_EN = (if periodic then s.eng.rd R.TB_CMP_EN else s.eng.rd R.TB_CMP_EN &&& ~~~w32 (2 ^ k.val)) ∧
      RegsKept [R.TB_FT0 + 4 * k, istatKey 0x05, R.TB_CMP_LATE, R.TB_CMP_EN] s.eng e ∧
      e = { s.eng.marked e with
        cyc := { (s.eng.marked e).cyc with fires := s.eng.cyc.fires ||| BitVec.ofNat 16 (2 ^ k.val) }
        time := { s.eng.time with chans := if periodic then s.eng.time.chans.set k next else s.eng.time.chans }
        seq := (s.eng.setSeen s.eng.time.now fun x => { x with fires := x.fires ||| BitVec.ofNat 16 (2 ^ k.val) }).seq
        arriving := s.eng.arriving ++ if s.eng.rb R.TB_EVT_EN k then
          [s.eng.event 0x1 0x01 (s.eng.rf R.TB_EVT_PRIO (2 * k) 2) k] else [] }

/-- TIDE_BOUNDARY (R29, R30, R35, R40): in a boundary cycle whose work has not been done, the time base's snapshot is
taken, at most 64 of the oldest pending writes that arrived in time leave the shadow store in order, the tide is counted;
the time base and its counting go on undisturbed. -/
def Obligations.TideBoundaryTakesTheStore : Prop :=
  ∀ (s : State) (hits : List CalHit), s.eng.time.counting = true → s.eng.time.tb.toNat % 2 ^ s.eng.tideN = 0 →
    s.eng.cyc.boundary = false → s.eng.sys.phase = .run → s.eng.sys.mode.isSleep = false →
    Does (.tideBoundary hits) s fun e =>
      e.time.now = s.eng.time.now ∧ e.time.tb = s.eng.time.tb ∧ e.time.counting = true ∧
      e.time.tides = s.eng.time.tides + 1 ∧ e.tide.snapTb = s.eng.time.tb ∧
      e.tide.store = s.eng.tide.store.drop ((s.eng.tide.store.take 64).takeWhile s.eng.ripe).length

/-! ### Modes, power and resets -/

/-- The transition table of R56: which requests are forbidden, and that a request for the current mode is none of them. -/
def Obligations.TransitionTable : Prop :=
  (∀ src tgt : Mode, transTable src tgt = .forbidden ↔
    src.isSleep = true ∨ (src = .armed ∧ tgt.isSleep = true) ∨ (src = .capture ∧ (tgt.isSleep = true ∨ tgt = .armed)) ∨
    ((src = .measure ∨ src = .unload) ∧ tgt = .capture)) ∧
  ∀ m : Mode, m.isSleep = false → transTable m m = .same

/-- The evaluation of a request that fails a check of R57: SYS_MODE_STAT's tag and reason, the rejection counter, the
interrupt and the event; the mode and all else stay. -/
def Obligations.RejectedRequestChangesNoMode : Prop :=
  ∀ (e : Engine) (tag : Nat) (tgt : Mode), e.sys.req = some (tag, tgt) → e.modeReason e.sys.mode tgt ≠ 0 →
    let r := e.evalRequest
    let why := e.modeReason e.sys.mode tgt
    r.rd R.SYS_REJ_CNT = bump16 (e.rd R.SYS_REJ_CNT) ∧ r.rd (istatKey 0x00) = e.rd (istatKey 0x00) ||| 2#32 ∧
    RegsKept [R.SYS_REJ_CNT, istatKey 0x00] e r ∧
    r = { e.marked r with
      sys := { e.sys with req := none, lastTag := tag, lastReason := why }
      arriving := e.arriving ++ [e.event 0x0 0x02 1 (tag * 16 + why)] }

/-- MODE_TRANSITION_COMPLETE (R58, R53): in a boundary cycle after the boundary's work, at least a tide into a transition
that is ready, the target mode is entered and reported; Shoal keeps its contents except where EN_MEM falls. -/
def Obligations.ModeTransitionCompletes : Prop :=
  ∀ (s : State) (t : Trans), s.eng.sys.trans = some t → s.eng.atBoundary = true → s.eng.cyc.boundary = true →
    1 ≤ s.eng.sys.transTides → s.eng.transReady t = true →
    ∃ u, exec .modeTransitionComplete s = .next u ∧ u.evq = s.evq ∧ u.eng.sys.trans = none ∧
      u.eng.sys.mode = (if t.tgt = .capture then s.eng.sys.mode else t.tgt) ∧
      u.eng.sys.modeReg = (if t.tgt = .capture then s.eng.sys.mode else t.tgt) ∧
      u.shoal = if t.tgt = .hibernate ∨ (t.tgt = .doze ∧ s.eng.rb R.PWR_CTL 2 = false) then
        { mem := [], bad := [], reads := s.shoal.reads + 1 } else s.shoal

/-- RAIL_SEQUENCE_STEP (R66, R67): once the delay of the next step has passed its rail switches; PG_IN is low until the rail
is good; the last rail of the way up is followed by the wait for PG_IN; before the delay nothing happens. POWER_GOOD (R69):
with all rails up and no step left PG_IN rises; where it was awaited boot begins and the PLL starts to acquire (R26). -/
def Obligations.RailsRiseAndPowerGood : Prop :=
  (∀ (s : State) (a : RailStep) (l : List RailStep) (n : Nat), s.eng.pwr.steps = a :: l →
     (n < a.delay → Idles (.railSequenceStep n) s) ∧
     (a.delay ≤ n → Leaves (.railSequenceStep n) s { s.eng with
       pwr := { s.eng.pwr with
         enCore := if a.rail = .core then a.level else s.eng.pwr.enCore
         enMem := if a.rail = .mem then a.level else s.eng.pwr.enMem
         enAna := if a.rail = .ana then a.level else s.eng.pwr.enAna
         pgIn := false, pgRisen := s.eng.pwr.pgRisen && !a.level, steps := l }
       sys := { s.eng.sys with
         phase := if l = [] ∧ s.eng.sys.phase = .railsUp then .waitPg else s.eng.sys.phase } })) ∧
  (∀ s : State, s.eng.pwr.enCore = true → s.eng.pwr.enMem = true → s.eng.pwr.enAna = true → s.eng.pwr.steps = [] →
     s.eng.pwr.pgIn = false →
     Leaves .powerGood s { s.eng with
       pwr := { s.eng.pwr with pgIn := true, pgRisen := true }
       sys := { s.eng.sys with phase := if s.eng.sys.phase = .waitPg then .boot else s.eng.sys.phase }
       clk := { s.eng.clk with
         pll := if s.eng.sys.phase = .waitPg then .acquiring else s.eng.clk.pll
         start := if s.eng.sys.phase = .waitPg then s.eng.time.now else s.eng.clk.start
         since := if s.eng.sys.phase = .waitPg then s.eng.time.now else s.eng.clk.since } })

/-- BOOT_COMPLETE (R69, R242): after power-on reset the engine runs in MEASURE and counts; after a hibernate exit register
access begins and its latency is recorded (R64). The event queue is empty. -/
def Obligations.BootCompletes : Prop :=
  ∀ s : State, s.eng.sys.phase = .boot →
    ∃ u, exec .bootComplete s = .next u ∧ u.evq = {} ∧ u.shoal = s.shoal ∧
      (s.eng.sys.wake = none → u.eng.sys.phase = .run ∧ u.eng.sys.mode = .measure ∧ u.eng.sys.modeReg = .measure ∧
        u.eng.sys.target = .measure ∧ u.eng.time = { s.eng.time with counting := true } ∧
        s.eng.event 0x0 0x03 2 7 ∈ u.eng.arriving) ∧
      (∀ w, s.eng.sys.wake = some w →
        u.eng.sys = { s.eng.sys with phase := .waking, wake := some { w with access := true } } ∧
        u.eng.rd R.PWR_WAKE_LAT = w32 ((if w.fromHib then 2 else 1) * 2 ^ 30 + stick 24 ((s.eng.time.now - w.at' + 624) / 625)) ∧
        u.eng.time = s.eng.time)

/-- POWER_GOOD_FAILURE (R70): PG_IN low for two AON periods after it has risen, or not risen by the deadline: every
transition, wake and request is dropped, Shoal's contents are lost, the engine goes to HIBERNATE and owes the next wake
an event. -/
def Obligations.PowerGoodFails : Prop :=
  ∀ (s : State) (n : Nat), s.eng.pwr.enCore = true → s.eng.pwr.enMem = true → s.eng.pwr.enAna = true →
    s.eng.pwr.steps = [] →
    (if s.eng.pwr.pgRisen then 2 ≤ n else s.eng.pwr.pgIn = false ∧ s.eng.rf R.PWR_SEQ 24 8 ≤ n) →
    ∃ u, exec (.powerGoodFailure n) s = .next u ∧ u.evq = s.evq ∧
      u.shoal = { mem := [], bad := [], reads := s.shoal.reads + 1 } ∧
      u.eng.sys.trans = none ∧ u.eng.sys.wake = none ∧ u.eng.sys.req = none ∧ u.eng.sys.pgFailOwed = true ∧
      u.eng.sys.phase = .railsDown ∧ u.eng.sys.mode = .hibernate ∧ u.eng.sys.modeReg = .hibernate ∧
      u.eng.pwr.pgIn = false ∧ u.eng.pwr.enAna = false

/-- POWER_ON_RESET (R69, R71): every register has its reset value, RESET_N is low, nothing counts, the queues and Shoal
are empty; the pins keep their levels, and programmed key slots keep their keys and start in lockout (R347). -/
def Obligations.PowerOnResetState : Prop :=
  ∀ s : State, ∃ u, exec .powerOnReset s = .next u ∧ u.evq = {} ∧ u.shoal.mem = [] ∧ u.shoal.bad = [] ∧
    (∀ k, u.eng.rd k = resetOf k) ∧ u.eng.sys.phase = .resetHeld ∧ u.eng.time = { now := s.eng.time.now } ∧
    u.eng.clk = {} ∧ u.eng.tide = {} ∧ u.eng.arriving = [] ∧ u.eng.host.up = false ∧
    u.eng.sys.wakeIn = s.eng.sys.wakeIn ∧ u.eng.pwr.vddIo = s.eng.pwr.vddIo ∧ u.eng.pwr.perst = s.eng.pwr.perst ∧
    u.eng.sec.slots = s.eng.sec.slots.map fun k =>
      { prog := k.prog, key := k.key, lock := if k.prog then some 1024 else none }

/-- RESET_N_RELEASE (R67, R69, R302): the two address straps give the port's address, the rails start to rise with
EN_CORE. TEST_RESET (R71, R378) resets the IEEE 1149.1 port alone; that its instruction is then IDCODE and that its cells
stay is the model's choice (assumption 46). VDD_IO_LOSS and VDD_IO_RETURN change what the inputs can show and nothing
else. -/
def Obligations.ResetPins : Prop :=
  (∀ (s : State) (a1 a0 : Bool), s.eng.sys.phase = .resetHeld →
    Leaves (.resetNRelease a1 a0) s { s.eng with
      i2c := { s.eng.i2c with addr := 0x6C + (if a1 then 2 else 0) + if a0 then 1 else 0 }
      pwr := { s.eng.pwr with
        enCore := true, pgIn := false, pgRisen := false
        steps := [⟨.mem, true, s.eng.rf R.PWR_SEQ 0 8⟩, ⟨.ana, true, s.eng.rf R.PWR_SEQ 8 8⟩] }
      sys := { s.eng.sys with phase := .railsUp } }) ∧
  (∀ s : State, Leaves .testReset s { s.eng with tap := { s.eng.tap with reset := true, ir := .idcode } }) ∧
  (∀ s : State, Leaves .vddIoLoss s { s.eng with pwr := { s.eng.pwr with vddIo := false } }) ∧
  (∀ s : State, Leaves .vddIoReturn s { s.eng with pwr := { s.eng.pwr with vddIo := true } })

/-- WAKE_IN and AON_ALARM (R63, R64): an edge of the pin is seen whatever it selects; in DOZE, where the source is enabled
and no wake is in progress, either recognises the wake: its source, its target, the PLL's start, the rails. -/
def Obligations.WakeSourcesAreRecognised : Prop :=
  (∀ (s : State) (b : Bool), s.eng.sys.wakeIn ≠ b → b = s.eng.rb R.SYS_WAKE_EN 7 →
    Leaves (.wakeIn b) s { s.eng with sys := { s.eng.sys with wakeIn := b } }) ∧
  (∀ (s : State) (b : Bool), s.eng.sys.wakeIn ≠ b → b ≠ s.eng.rb R.SYS_WAKE_EN 7 → s.eng.sys.mode = .doze →
    s.eng.rb R.SYS_WAKE_EN 3 = true → s.eng.sys.wake = none →
    Does (.wakeIn b) s (Woken { s.eng with sys := { s.eng.sys with wakeIn := b } } 3)) ∧
  (∀ s : State, s.eng.time.coasting = true → s.eng.rd R.SYS_AON_ALARM ≠ 0#32 →
    (s.eng.rd R.SYS_AON_ALARM).toNat ≤ s.eng.time.slackLen → s.eng.sys.mode = .doze →
    s.eng.rb R.SYS_WAKE_EN 4 = true → s.eng.sys.wake = none → Does .aonAlarm s (Woken s.eng 4))

/-- CORE_RESET and CLIFF_RESET (R71, R72): accesses of a port; with the confirming value, no transition, and MEASURE or
UNLOAD shown: a core reset keeps the AON set, the CLK page and configuration space, empties the event queue and holds the
engine until it ends; a Cliff reset puts back the registers of Cliff alone and retrains Hinge-C. Without these conditions
nothing but the port's turn changes. -/
def Obligations.SoftwareResets : Prop :=
  (∀ (s : State) (p : Port), s.ready p = true → s.eng.sys.trans = none → s.eng.sys.wake = none →
     (s.eng.sys.modeReg = .measure ∨ s.eng.sys.modeReg = .unload) →
     (∃ u, exec (.coreReset p 0xA55A#16) s = .next u ∧ u.evq = {} ∧ u.shoal = s.shoal ∧
       u.eng.sys.phase = .coreReset ∧ u.eng.rd R.SYS_RESET_CAUSE = s.eng.rd R.SYS_RESET_CAUSE ||| 2#32 ∧
       (∀ k, coreKeeps k = true → k ≠ R.SYS_RESET_CAUSE → u.eng.rd k = s.eng.rd k) ∧
       (∀ k, coreKeeps k = false → k ≠ R.STG_DROP_CNT → u.eng.rd k = resetOf k) ∧
       u.eng.time = { s.eng.time with chans := List.replicate 16 {} } ∧ u.eng.tide = {} ∧ u.eng.hinge = {} ∧
       u.eng.job = {} ∧ u.eng.host.up = s.eng.host.up) ∧
     Does (.cliffReset p 0xA55A#16) s fun e =>
       e.rd R.SYS_RESET_CAUSE = s.eng.rd R.SYS_RESET_CAUSE ||| 8#32 ∧
       (∀ k, cliffResets k = true → e.rd k = resetOf k) ∧
       e.tide.store = s.eng.tide.store.filter (fun x => !cliffResets x.key) ∧ e.tide.late = [] ∧
       e.hinge.c.st ≠ .trained ∧ e.hinge.c.faulted = false ∧ e.hinge.s = s.eng.hinge.s ∧
       (∀ m, (e.lane m).swap = 0#14) ∧ e.job = s.eng.job ∧ e.mem = s.eng.mem) ∧
  (∀ (s : State) (p : Port) (c : BitVec 16), s.ready p = true →
     (c ≠ 0xA55A#16 ∨ (s.eng.arrivesAt p).busy = true ∨ (s.eng.sys.modeReg ≠ .measure ∧ s.eng.sys.modeReg ≠ .unload)) →
     Leaves (.coreReset p c) s (s.eng.serving p) ∧ Leaves (.cliffReset p c) s (s.eng.serving p)) ∧
  (∀ (s : State) (p : Port) (c : BitVec 16),
     WaitsItsTurn (.coreReset p c) s p (.regs [wrAccess p R.SYS_RESET_CTL (w32 (c.toNat * 2 ^ 16 + 1))] [] none) ∧
     WaitsItsTurn (.cliffReset p c) s p (.regs [wrAccess p R.SYS_RESET_CTL (w32 (c.toNat * 2 ^ 16 + 2))] [] none))

/-- CORE_RESET_END (R72): the engine runs in MEASURE again. BLOCK_WAKE_COMPLETE (R58, R74): a block that wakes is ON
and its latency is known; one behind a link in DIE_FAULT cannot finish. -/
def Obligations.ResetsAndWakesEnd : Prop :=
  (∀ s : State, s.eng.sys.phase = .coreReset → s.eng.host.held = [] →
    ∃ u, exec .coreResetEnd s = .next u ∧ u.evq = s.evq ∧ u.shoal = s.shoal ∧
      u.eng.sys = { s.eng.sys with phase := .run, mode := .measure }) ∧
  (∀ (s : State) (b : Blk) (x : BlkPwr), s.eng.pwr.blks[blkIx b]? = some x →
    (x.st ≠ .waking ∨ s.eng.behindFault (blkIx b) = true → Idles (.blockWakeComplete b) s) ∧
    (x.st = .waking → s.eng.behindFault (blkIx b) = false → Does (.blockWakeComplete b) s fun e =>
      (b ≠ .job → e.pwr =
        { s.eng.pwr with blks := s.eng.pwr.blks.set (blkIx b) { x with st := .on, wakeLat := s.eng.time.now - x.start } }) ∧
      e.isOn (blkIx b) = true ∧ e.sys = s.eng.sys ∧ e.time = s.eng.time ∧ e.clk = s.eng.clk ∧ e.seq = s.eng.seq ∧ e.sec = s.eng.sec ∧
      (blkIx b = 13 → s.eng.hinge.s.st ≠ .fault → e.mem = { s.eng.mem with selfRef := false })))


/-! ### Logic lanes -/

/-- The glitch filter (R85): at a start its output is its input, and so it stays with g = 0; else a new level that holds
leaves it after g cu and not before, and a pulse shorter than g cu leaves no trace. -/
def Obligations.GlitchFilterDelays : Prop :=
  (∀ (g n : Nat) (filt : Bool), n ≤ g →
    (List.replicate n (!filt)).foldl (fun a x => filterStep g false a.1 a.2 x) (filt, 0) = (filt, n) ∧
    filterStep g false filt g (!filt) = (!filt, 0) ∧ (n < g → filterStep g false filt n filt = (filt, 0))) ∧
  ∀ (g cnt : Nat) (start filt x : Bool), start = true ∨ g = 0 → filterStep g start filt cnt x = (x, 0)

/-- RANGE_ENTRY and RANGE_EXIT (R88), AMBIG_BEGIN and AMBIG_END (R89): a condition's begin is told by the fault bit, the
interrupt, the counter, a mark and the event where it is enabled, an episode also by FEn_AMBIG_LAST; its end by a mark alone. -/
def Obligations.RangeAndAmbiguityConditions : Prop :=
  ((∀ (s : State) (m : Fin 4) (b : Fin 14), s.eng.chanLive m b = true → (s.eng.chan m b).rg = false →
     4 ≤ (s.eng.chan m b).beyond → (s.eng.lane m).evalTo ≤ s.eng.time.now →
     let x := (s.eng.setChan m b fun c => { c with rg := true }).vecs m
     Does (.rangeEntry m b) s fun e =>
       e.rd (R.FEn_FLT m) = s.eng.rd (R.FEn_FLT m) ||| w32 (2 ^ b.val) ∧
       e.rd (istatKey (0x10 + m)) = s.eng.rd (istatKey (0x10 + m)) ||| 1#32 ∧
       e.rd (R.FEn_RANGE_CNT m) = bump16 (s.eng.rd (R.FEn_RANGE_CNT m)) ∧
       RegsKept [R.FEn_FLT m, istatKey (0x10 + m), R.FEn_RANGE_CNT m] s.eng e ∧
       e = { s.eng.marked e with
         lanes := x.lanes, seq := x.seq, recb := (s.eng.chanMark m b s.eng.time.now true false).recb
         arriving := s.eng.arriving ++ if s.eng.rb (R.FEn_CTL m) 7 then [s.eng.event 0x3 0x01 1 (m * 1024 + 14 * m + b)] else [] }) ∧
   (∀ (s : State) (m : Fin 4) (b : Fin 14), (s.eng.chan m b).rg = true → 16 ≤ (s.eng.chan m b).within →
     (s.eng.lane m).evalTo ≤ s.eng.time.now →
     let x := (s.eng.setChan m b fun c => { c with rg := false }).vecs m
     Leaves (.rangeExit m b) s
       { s.eng with lanes := x.lanes, seq := x.seq, recb := (s.eng.chanMark m b s.eng.time.now false false).recb })) ∧
  ((∀ (s : State) (m : Fin 4) (b : Fin 14), s.eng.chanLive m b = true → (s.eng.chan m b).ep = false →
     (s.eng.chanCfg m b).len ≠ 0 → (s.eng.chanCfg m b).swap = false → (s.eng.chanCfg m b).len < (s.eng.chan m b).t →
     (s.eng.chan m b).rep = 1 → (s.eng.lane m).evalTo = s.eng.time.now + 1 →
     let x := (s.eng.setChan m b fun c => { c with ep := true }).vecs m
     Does (.ambigBegin m b) s fun e =>
       e.rd (R.FEn_FLT m) = s.eng.rd (R.FEn_FLT m) ||| w32 (2 ^ (16 + b.val)) ∧
       e.rd (istatKey (0x10 + m)) = s.eng.rd (istatKey (0x10 + m)) ||| 2#32 ∧
       e.rd (R.FEn_AMBIG_CNT m) = bump16 (s.eng.rd (R.FEn_AMBIG_CNT m)) ∧
       e.rd (R.FEn_AMBIG_LAST m) = w32 (2 ^ 31 + (14 * m + b) * 2 ^ 24 + s.eng.time.tb.toNat % 2 ^ 24) ∧
       RegsKept [R.FEn_FLT m, istatKey (0x10 + m), R.FEn_AMBIG_CNT m, R.FEn_AMBIG_LAST m] s.eng e ∧
       e = { s.eng.marked e with
         lanes := x.lanes, seq := x.seq, recb := (s.eng.chanMark m b s.eng.time.now true true).recb
         arriving := s.eng.arriving ++ if s.eng.rb (R.FEn_CTL m) 6 then [s.eng.event 0x3 0x02 2 (m * 1024 + 14 * m + b)] else [] }) ∧
   (∀ (s : State) (m : Fin 4) (b : Fin 14), (s.eng.chan m b).ep = true → (s.eng.chan m b).rep ≠ 1 →
     (s.eng.lane m).evalTo = s.eng.time.now + 1 →
     let x := (s.eng.setChan m b fun c => { c with ep := false }).vecs m
     Leaves (.ambigEnd m b) s
       { s.eng with lanes := x.lanes, seq := x.seq, recb := (s.eng.chanMark m b s.eng.time.now false true).recb }))

/-- SAMPLE_FRAME without an injection (R324, R331 to R333), once a cycle for a source that samples: an intact frame gives a
lane's words to the sequencer and to its stream; a damaged one is counted, recorded and reported, and the sequencer keeps
the last word in every position. An intact frame of the timing stream ends a span of damaged ones. -/
def Obligations.LaneFrames : Prop :=
  (∀ (s : State) (f : Frame), (∃ m pins, f.body = .lane m pins ∧ s.eng.laneDue m = false) ∨
    (f.body = .timing ∧ s.eng.timingDue = false) → Idles (.sampleFrame f) s) ∧
  ∀ (s : State) (f : Frame), s.eng.hinge.active = false ∨ s.eng.hinge.kind ≠ 2 →
    let now := s.eng.time.now
    let intact := f.arrived = true ∧ s.eng.hinge.c.st ≠ .retrain ∧ Engine.linkDead s.eng.hinge.c = false ∧ f.crcOk = true ∧
      f.cyc = s.eng.time.tb.setWidth 4
    (f.body = .timing → s.eng.timingDue = true → intact → Leaves (.sampleFrame f) s { s.eng with
      tdc := { s.eng.tdc with frameTo := now + 1, damaged := 0 }
      recb := if s.eng.tdc.damaged = 0 then s.eng.recb
        else (s.eng.inCyc 4 now fun c => { c with integ := some s.eng.tdc.damaged }).recb }) ∧
    ∀ (m : Fin 4) (pins : List (List Int)), f.body = .lane m pins →
      (s.eng.lane m).running = true → s.eng.seq.arm ≤ now → (s.eng.lane m).evalTo ≤ now →
      let l := s.eng.lane m
      let r := s.eng.laneStep m pins
      let pwr := (s.eng.setBlk (1 + m) fun b => { b with worked := true }).pwr
      (intact →
        let x := ((r.1.setLane m fun l => { l with words := r.2, intactTo := now + 1, damaged := 0 }).setSeen now
          fun q => { q with words := upd q.words m fun _ => r.2 }).vecs m
        Leaves (.sampleFrame f) s { s.eng with
          lanes := x.lanes, seq := x.seq, pwr := pwr
          recb := (s.eng.inCyc m now fun c => { c with
            words := r.2, got := true, integ := if l.damaged = 0 then none else some l.damaged }).recb }) ∧
      (¬intact → Does (.sampleFrame f) s fun e =>
        e.rd R.HINGE_C_SMP_CNT = bump16 (s.eng.rd R.HINGE_C_SMP_CNT) ∧
        e.rd (estatKey 0x23) = s.eng.rd (estatKey 0x23) ||| 4#32 ∧ e.rd (istatKey 0x23) = s.eng.rd (istatKey 0x23) ||| 16#32 ∧
        e.rd R.HINGE_C_LAST = w32 (6 * 2 ^ 28 + m * 2 ^ 20 + s.eng.time.tb.toNat % 2 ^ 20) ∧
        RegsKept [R.HINGE_C_SMP_CNT, estatKey 0x23, istatKey 0x23, R.HINGE_C_LAST] s.eng e ∧
        e = { s.eng.marked e with
          lanes := (r.1.setLane m fun l => { l with damaged := l.damaged + 1, dmgTide := true }).lanes, pwr := pwr
          seq := (s.eng.setSeen now fun q => { q with
            words := upd q.words m fun _ => List.replicate l.words.length (l.words.getLastD 0#14)
            rg := q.rg ||| BitVec.ofNat 4 (at1 (l.rgVec != 0#14) m), am := q.am ||| BitVec.ofNat 4 (at1 (l.amVec != 0#14) m) }).seq
          recb := (s.eng.inCyc m now fun c => { c with damaged := true }).recb
          arriving := s.eng.arriving ++ if !l.dmgTide && s.eng.rb R.HINGE_CTL 0 then [s.eng.event 0xD 0x04 2 m] else [] })

/-! ### Pod slots and the pod bus -/

/-- POD_PRESENCE_CHANGE and POD_ATTENTION_CHANGE (R100, R110): after the samples of the debouncer that disagree the state
changes and the change is latched for the next boundary, presence before an attention change of the same edge; where the slot
may wake the engine it is a wake source. -/
def Obligations.PodSwitchesAreDebounced : Prop :=
  (∀ (s : State) (n : Fin 4) (v : Bool) (c : Nat), s.eng.pwr.vddIo = true → 66 ≤ c → (s.eng.pod n).pres ≠ v →
    let x := s.eng.setPod n fun p => { p with
      pres := v
      flags := if p.attnAt = some s.eng.time.now then p.flags.dropLast ++ [.pres v] ++ p.flags.drop (p.flags.length - 1)
        else p.flags ++ [.pres v] }
    (s.eng.rb R.POD_CTL (8 + n) = false → Leaves (.podPresenceChange n v c) s { s.eng with pods := x.pods }) ∧
    (s.eng.rb R.POD_CTL (8 + n) = true → s.eng.sys.mode = .doze → s.eng.rb R.SYS_WAKE_EN 1 = true → s.eng.sys.wake = none →
      Does (.podPresenceChange n v c) s (Woken { s.eng with pods := x.pods } 1))) ∧
  (∀ (s : State) (n : Fin 4) (v : Bool) (c : Nat), s.eng.pwr.vddIo = true → s.eng.rf R.POD_TIM 16 16 ≤ c → (s.eng.pod n).attn ≠ v →
    let x := s.eng.setPod n fun p => { p with attn := v, flags := p.flags ++ [.attn v], attnAt := some s.eng.time.now }
    (v = false ∨ s.eng.rb R.POD_CTL (12 + n) = false → Leaves (.podAttentionChange n v c) s { s.eng with pods := x.pods }) ∧
    (v = true → s.eng.rb R.POD_CTL (12 + n) = true → s.eng.sys.mode = .doze → s.eng.rb R.SYS_WAKE_EN 2 = true →
      s.eng.sys.wake = none → Does (.podAttentionChange n v c) s (Woken { s.eng with pods := x.pods } 2))) ∧
  (∀ (s : State) (n : Fin 4) (v : Bool) (c : Nat),
    (s.eng.pwr.vddIo = false ∨ c < 66 ∨ (s.eng.pod n).pres = v → Idles (.podPresenceChange n v c) s) ∧
    (s.eng.pwr.vddIo = false ∨ c < s.eng.rf R.POD_TIM 16 16 ∨ (s.eng.pod n).attn = v → Idles (.podAttentionChange n v c) s))

/-- POD_POWER_ON, POD_POWER_OFF and POD_READY (R102, R105, R107, R108, R120): on takes an attached or failed slot to
POWERING, off a powered one to ATTACHED; leaving READY closes every open condition of its lane, tells the walk and stands as
a mark. At the AON edge at which the settle time has passed a powering slot is READY: the interrupt, POD_LAST, the
event, a mark; with auto_census its census is requested. -/
def Obligations.PodPowerAndReady : Prop :=
  (∀ (s : State) (n : Fin 4),
     (s.eng.access = true → (s.eng.pod n).st = .attached ∨ (s.eng.pod n).st = .fault →
       Leaves (.podPowerOn n) s { s.eng with
         pods := (s.eng.setPod n fun p => { p with st := .powering, settle := 0, glitched := false }).pods }) ∧
     (s.eng.access = false ∨ ((s.eng.pod n).st ≠ .attached ∧ (s.eng.pod n).st ≠ .fault) → Idles (.podPowerOn n) s) ∧
     (s.eng.access = true → (s.eng.pod n).st = .powering ∨ (s.eng.pod n).st = .lost →
       Leaves (.podPowerOff n) s { s.eng with
         pods := (s.eng.setPod n fun p => { p with st := .attached, settle := 0 }).pods }) ∧
     (s.eng.access = true → (s.eng.pod n).st = .ready → Does (.podPowerOff n) s fun e =>
       (∀ b, (e.chan n b).rg = false ∧ (e.chan n b).ep = false) ∧ (∀ m, m ≠ n.val → e.lane m = s.eng.lane m) ∧
       e = { s.eng with
         pods := (s.eng.setPod n fun p => { p with st := .attached }).pods
         lanes := e.lanes, seq := e.seq, recb := e.recb, bus := (s.eng.podAffect n).bus }) ∧
     (s.eng.access = false ∨ s.eng.pen n = false → Idles (.podPowerOff n) s)) ∧
  (∀ (s : State) (n : Fin 4), s.eng.sys.phase = .run → s.eng.sys.mode.isSleep = false → s.eng.cyc.edge = true →
     (s.eng.pod n).st = .powering → max 1 (s.eng.rf R.POD_TIM 0 16) ≤ (s.eng.pod n).settle →
     Does (.podReady n) s fun e =>
       e.rd (istatKey 0x06) = s.eng.rd (istatKey 0x06) ||| w32 (2 ^ (16 + n.val)) ∧
       e.rd R.POD_LAST = w32 (6 * 2 ^ 28 + n * 2 ^ 26 + s.eng.time.tb.toNat % 2 ^ 24) ∧ (e.pod n).st = .ready ∧
       (s.eng.rb R.I2CP_CTL 8 = true → e.bus.refused = decide (s.eng.policy 0x08 = 2)) ∧
       (s.eng.rb R.I2CP_CTL 8 = false → RegsKept [istatKey 0x06, R.POD_LAST] s.eng e ∧
         e = { s.eng.marked e with
           pods := (s.eng.setPod n fun p => { p with st := .ready, glitched := false }).pods
           lanes := (s.eng.setLane n fun l => { l with chans := l.chans.map fun c => { past := c.past } }).lanes
           recb := (s.eng.podMark n 0 (0x200 + 16 * n + if (s.eng.pod n).glitched then 1 else 0)).recb
           arriving := s.eng.arriving ++ [s.eng.event 0x2 0x06 3 n] }))

/-- FAST_DROP, POD_GLITCH and POD_FAULT (R103, R104): after 1 µs of samples a READY slot whose pod has gone is LOST, a LOST
one whose pod is back powers again and is told as a glitch; a switch's fault takes a powered slot to FAULT. -/
def Obligations.PodLossAndFault : Prop :=
  ∀ (s : State) (n : Fin 4) (c : Nat), s.eng.sys.phase = .run → s.eng.sys.mode.isSleep = false → 625 ≤ c →
    ((s.eng.pod n).st = .ready → Does (.fastDrop n c) s fun e =>
      (∀ b, (e.chan n b).rg = false ∧ (e.chan n b).ep = false) ∧ (∀ m, m ≠ n.val → e.lane m = s.eng.lane m) ∧
      e = { s.eng with
        pods := (s.eng.setPod n fun p => { p with st := .lost }).pods
        lanes := e.lanes, seq := e.seq, recb := e.recb, bus := (s.eng.podAffect n).bus }) ∧
    ((s.eng.pod n).st = .lost → Does (.podGlitch n c) s fun e =>
      e.rd R.POD_GLITCH_CNT = bump16 (s.eng.rd R.POD_GLITCH_CNT) ∧
      e.rd (estatKey 0x06) = s.eng.rd (estatKey 0x06) ||| 2#32 ∧
      e.rd R.POD_LAST = w32 (5 * 2 ^ 28 + n * 2 ^ 26 + s.eng.time.tb.toNat % 2 ^ 24) ∧
      RegsKept ([R.POD_GLITCH_CNT, estatKey 0x06, R.POD_LAST, istatKey 0x08] ++ (List.range 4).map R.FEn_GAIN) s.eng e ∧
      (e.pod n).st = .powering ∧ (e.pod n).glitched = true ∧
      (s.eng.arriving ++ [s.eng.event 0x2 0x05 2 n]) <+: e.arriving ∧
      e.time = s.eng.time ∧ e.lanes = s.eng.lanes ∧ e.seq = s.eng.seq ∧ e.recb = s.eng.recb ∧ e.sys = s.eng.sys) ∧
    (s.eng.pen n = true → Does (.podFault n c) s fun e =>
      e.rd R.POD_FAULT_CNT = bump16 (s.eng.rd R.POD_FAULT_CNT) ∧
      e.rd (estatKey 0x06) = s.eng.rd (estatKey 0x06) ||| 1#32 ∧
      e.rd (istatKey 0x06) = s.eng.rd (istatKey 0x06) ||| w32 (2 ^ (8 + n.val)) ∧
      e.rd R.POD_LAST = w32 (3 * 2 ^ 28 + n * 2 ^ 26 + s.eng.time.tb.toNat % 2 ^ 24) ∧
      RegsKept [R.POD_FAULT_CNT, estatKey 0x06, istatKey 0x06, R.POD_LAST] s.eng e ∧
      (e.pod n).st = .fault ∧ (∀ k, k ≠ n.val → e.pod k = s.eng.pod k) ∧ (∀ m, m ≠ n.val → e.lane m = s.eng.lane m) ∧
      e = { s.eng.marked e with
        pods := e.pods, lanes := e.lanes, seq := e.seq, recb := e.recb, bus := e.bus
        arriving := s.eng.arriving ++ [s.eng.event 0x2 0x03 1 n] })

/-- CENSUS (R114, R119, R120): slots are queued and the pod-bus controller is woken, or the request is refused where the
controller's policy is OFF; a controller that runs and has no walk begins one: at its first slot or, where a stuck bus has
ended the last walk, with the recovery sequence. -/
def Obligations.CensusRequests : Prop :=
  (∀ (s : State) (m : BitVec 4), s.eng.access = false ∨ m = 0#4 → Idles (.census m) s) ∧
  (∀ (s : State) (m : BitVec 4), s.eng.access = true → m ≠ 0#4 →
    (s.eng.policy 0x08 = 2 → Leaves (.census m) s { s.eng with bus := { s.eng.bus with refused := true, queued := 0#4 } }) ∧
    (s.eng.policy 0x08 ≠ 2 → s.eng.bus.walk.isSome = true ∨ s.eng.isOn 0 = false →
      Leaves (.census m) s { s.eng with
        pwr := (s.eng.demand 0).pwr, bus := { s.eng.bus with refused := false, queued := s.eng.bus.queued ||| m } })) ∧
  (∀ (s : State) (n : Fin 4), s.eng.access = true → s.eng.policy 0x08 ≠ 2 → s.eng.bus.walk = none → s.eng.isOn 0 = true →
    s.eng.bus.queued = 0#4 →
    (s.eng.bus.needRecover = false → s.eng.podOk n = true →
      Leaves (.census (BitVec.ofNat 4 (2 ^ n.val))) s { s.eng with
        pwr := (s.eng.demand 0).pwr
        bus := { s.eng.bus with
          refused := false, queued := 0#4, recovering := false
          walk := some { todo := [], slot := n, item := none, retry := false, visited := BitVec.ofNat 4 (2 ^ n.val), affected := 0#4 } } }) ∧
    (s.eng.bus.needRecover = true →
      Leaves (.census (BitVec.ofNat 4 (2 ^ n.val))) s { s.eng with
        pwr := (s.eng.demand 0).pwr, tx := s.eng.tx ++ [.podRecover false]
        bus := { s.eng.bus with
          refused := false, queued := 0#4, recovering := true, needRecover := false, stuckAt := s.eng.time.now, stuckScl := false
          walk := some { todo := [n], slot := n, item := none, retry := false, visited := 0#4, affected := 0#4, starting := true } } }))

/-- CENSUS_TRANSACTION, CENSUS_RETRY, BUS_STUCK and POD_BUS_STUCK (R112 to R119): a transaction is driven as the walk has
it; a refused one is counted and tried again after 1 ms; what a list entry reads stands in its result; a valid ID gives the
gain and the identity; a second refusal of an entry is its status; in each case the walk goes on. A stuck SDA is recovered,
and a recovery that frees it within 25 ms is counted and gives up the slot under way; SCL that is released goes on; a bus
that is not free in time ends the walk with an error, an event and a recovery owed. -/
def Obligations.CensusTransactionsAndBusFaults : Prop :=
  (∀ (s : State) (w : Walk), s.eng.bus.walk = some w → s.eng.isOn 0 = true → s.eng.bus.recovering = false →
     let said (e : Engine) : Prop := e.tx = s.eng.tx ++ [match w.item with
       | none => .podRead (0x50 + w.slot) 0 32
       | some i => .podRead (s.eng.rf (win R.I2CP_LIST i) 16 7) (s.eng.rf (win R.I2CP_LIST i) 0 8) (s.eng.rf (win R.I2CP_LIST i) 24 2 + 1)]
     (w.retry = false → Does (.censusTransaction .nack) s fun e =>
       e.rd R.I2CP_NACK_CNT = bump16 (s.eng.rd R.I2CP_NACK_CNT) ∧ RegsKept [R.I2CP_NACK_CNT] s.eng e ∧ said e ∧
       e = { s.eng.marked e with
         tx := e.tx, pwr := (s.eng.demand 0).pwr
         bus := { s.eng.bus with walk := some { w with retry := true }, nackAt := s.eng.time.now } }) ∧
     (∀ (d : List Byte) (i j : Nat), w.retry = false → w.item = some i → d.length = s.eng.rf (win R.I2CP_LIST i) 24 2 + 1 →
       s.eng.nextEntry w.slot (i + 1) = some j → Does (.censusTransaction (.bytes d)) s fun e =>
         e.rd (win R.I2CP_RES i) = w32 (natOfBytes d) ∧ RegsKept [win R.I2CP_RES i] s.eng e ∧ said e ∧
         e = { s.eng.marked e with
           tx := e.tx, pwr := (s.eng.demand 0).pwr
           bus := { s.eng.bus with
             entries := upd s.eng.bus.entries i fun _ => 1, walk := some { w with item := some j, retry := false } } }) ∧
     (∀ (d : List Byte) (j : Nat), w.retry = false → w.item = none → Engine.headerOk d = true → s.eng.nextEntry w.slot 0 = some j →
       Does (.censusTransaction (.bytes d)) s fun e =>
         e.rd (R.FEn_GAIN w.slot) = w32 (2 ^ 30 + natOfBytes ((d.drop 4).take 2)) ∧
         e.rd (R.POD_ID0 + 4 * w.slot) = w32 (natOfBytes ((d.drop 6).take 2) * 65536 + natOfBytes ((d.drop 12).take 1) * 256 +
           natOfBytes ((d.drop 3).take 1)) ∧
         e.rd (R.POD_SER0 + 4 * w.slot) = w32 (natOfBytes ((d.drop 8).take 4)) ∧
         RegsKept [R.FEn_GAIN w.slot, R.POD_ID0 + 4 * w.slot, R.POD_SER0 + 4 * w.slot] s.eng e ∧ said e ∧
         e = { s.eng.marked e with
           tx := e.tx, pods := (s.eng.setPod w.slot fun p => { p with census := 1 }).pods, pwr := (s.eng.demand 0).pwr
           bus := { s.eng.bus with walk := some { w with item := some j, retry := false } } }) ∧
     (∀ i j : Nat, w.retry = true → s.eng.bus.nackAt + 625000 ≤ s.eng.time.now → w.item = some i →
       s.eng.nextEntry w.slot (i + 1) = some j → Does (.censusRetry .nack) s fun e =>
         e.rd R.I2CP_NACK_CNT = bump16 (s.eng.rd R.I2CP_NACK_CNT) ∧ RegsKept [R.I2CP_NACK_CNT] s.eng e ∧ said e ∧
         e = { s.eng.marked e with
           tx := e.tx, pwr := (s.eng.demand 0).pwr
           bus := { s.eng.bus with
             entries := upd s.eng.bus.entries i fun _ => 2, walk := some { w with item := some j, retry := false } } })) ∧
  (∀ (s : State) (w : Walk), s.eng.bus.walk = some w → s.eng.isOn 0 = true →
     let now := s.eng.time.now
     (s.eng.bus.recovering = false →
       (Leaves (.busStuck .sda false) s { s.eng with
         tx := s.eng.tx ++ [.podRecover false]
         bus := { s.eng.bus with recovering := true, stuckAt := now, stuckScl := false } }) ∧
       (Leaves (.busStuck .scl false) s { s.eng with
         bus := { s.eng.bus with recovering := true, stuckAt := now, stuckScl := true } }) ∧
       Idles (.busStuck .scl true) s) ∧
     (s.eng.bus.recovering = true →
       (s.eng.bus.stuckScl = true → Leaves (.busStuck .scl true) s { s.eng with bus := { s.eng.bus with recovering := false } }) ∧
       (s.eng.bus.stuckScl = true ∨ s.eng.bus.stuckAt + 15625000 < now → Idles (.busStuck .sda true) s)) ∧
     (∀ (n : Nat) (t : List Nat), w.todo = n :: t → s.eng.podOk n = true → w.starting = false →
       s.eng.bus.recovering = false ∨ (s.eng.bus.stuckScl = false ∧ now ≤ s.eng.bus.stuckAt + 15625000) →
       Does (.busStuck .sda true) s fun e =>
         e.rd R.I2CP_RECOV_CNT = bump16 (s.eng.rd R.I2CP_RECOV_CNT) ∧
         e.rd (istatKey 0x08) = s.eng.rd (istatKey 0x08) ||| 2#32 ∧ e.rd (R.FEn_GAIN w.slot) = 0#32 ∧
         RegsKept [R.I2CP_RECOV_CNT, istatKey 0x08, R.FEn_GAIN w.slot] s.eng e ∧
         e = { s.eng.marked e with
           tx := s.eng.tx ++ [.podRecover true], pods := (s.eng.censusTo w.slot 4).pods
           bus := { s.eng.bus with
             recovering := false, entries := (s.eng.entriesTo w.slot 0).bus.entries
             walk := some { w with
               todo := t, slot := n, item := none, retry := false, visited := w.visited ||| BitVec.ofNat 4 (2 ^ n) } } }) ∧
     (let hopeless := s.eng.bus.recovering = true ∧ s.eng.bus.stuckAt + (if s.eng.bus.stuckScl then 6250000 else 15625000) ≤ now
      (¬hopeless → Idles .podBusStuck s) ∧
      (hopeless → Does .podBusStuck s fun e =>
       e.rd (estatKey 0x08) = s.eng.rd (estatKey 0x08) ||| 1#32 ∧ e.rd (istatKey 0x08) = s.eng.rd (istatKey 0x08) ||| 1#32 ∧
       RegsKept ([estatKey 0x08, istatKey 0x08] ++ (w.slot :: w.todo ++ Engine.slotsOf w.affected).map R.FEn_GAIN) s.eng e ∧
       e.bus.walk = none ∧ e.bus.recovering = false ∧ e.bus.needRecover = true ∧
       e = { s.eng.marked e with
         pods := e.pods, bus := e.bus, arriving := s.eng.arriving ++ [s.eng.event 0x2 0x08 1 w.slot] }))) ∧
  (∀ (s : State) (c : BusStuckCause) (b : Bool), s.eng.bus.walk = none ∨ s.eng.isOn 0 = false →
     Idles (.busStuck c b) s ∧ Idles .podBusStuck s)

/-! ### Timing inputs -/

/-- TIN_EDGE of one crossing (R124, R126, R127), TDC_TIMEOUT (R133) and TDC_TERM_TRIP (R125). A pin that does not leave the
hysteresis, or an input that does not run, changes its level alone; while the TDC does not stamp, its comparator's output
follows too. -/
def Obligations.TimingInputs : Prop :=
  (∀ s : State, Idles (.tinEdge []) s) ∧
  (∀ (s : State) (c : TinCap),
    let half := tinHalf (s.eng.rf (R.TDC_TIN0 + 4 * c.input) 24 2)
    s.eng.tinRuns c.input = false ∨ (if (s.eng.tin c.input).level then s.eng.tinThr c.input - half ≤ c.nv
      else c.nv ≤ s.eng.tinThr c.input + half) →
    Leaves (.tinEdge [c]) s { s.eng with tdc := { s.eng.tdc with tins := (s.eng.setTin c.input fun t => { t with volt := c.nv }).tdc.tins } }) ∧
  (∀ (s : State) (c : TinCap) (t : Tin), s.eng.tdc.tins[c.input.val]? = some t → s.eng.tinRuns c.input = true → s.eng.isOn 5 = false →
    (if t.level then c.nv < s.eng.tinThr c.input - tinHalf (s.eng.rf (R.TDC_TIN0 + 4 * c.input) 24 2)
      else s.eng.tinThr c.input + tinHalf (s.eng.rf (R.TDC_TIN0 + 4 * c.input) 24 2) < c.nv) →
    Leaves (.tinEdge [c]) s { s.eng with tdc := { s.eng.tdc with
      tins := s.eng.tdc.tins.set c.input { t with volt := c.nv, level := !t.level } } }) ∧
  (∀ (s : State) (c : TinCap) (t : Tin), s.eng.tdc.tins[c.input.val]? = some t → s.eng.tinRuns c.input = true → s.eng.isOn 5 = true →
    (if t.level then c.nv < s.eng.tinThr c.input - tinHalf (s.eng.rf (R.TDC_TIN0 + 4 * c.input) 24 2)
      else s.eng.tinThr c.input + tinHalf (s.eng.rf (R.TDC_TIN0 + 4 * c.input) 24 2) < c.nv) →
    s.eng.slopeHas c.input (!t.level) = true → s.eng.rb R.TDC_CTL (8 + c.input) = false →
    (∀ k, k < 4 → s.eng.unitCfg k 31 1 = 0 ∧ (s.eng.unit k).start = none) →
    let st := stampOf c.cr (s.eng.center c.input c.tap.toNat) (s.eng.tinOfs c.input (!t.level))
    ((∀ l, t.last = some l → 400 ≤ (st - l).toNat) →
      Leaves (.tinEdge [c]) s { s.eng with tdc := { s.eng.tdc with
        tins := s.eng.tdc.tins.set c.input { t with
          volt := c.nv, level := !t.level, last := some st, lostFlag := false, stamp := st, stampLost := t.lostFlag } } }) ∧
    (∀ l, t.last = some l → (st - l).toNat < 400 → Does (.tinEdge [c]) s fun e =>
      e.rd R.TDC_LOST = bump16 (s.eng.rd R.TDC_LOST) ∧
      e.rd (estatKey 0x14) = s.eng.rd (estatKey 0x14) ||| w32 (2 ^ c.input.val) ∧
      e.rd (istatKey 0x14) = s.eng.rd (istatKey 0x14) ||| 1#32 ∧
      RegsKept [R.TDC_LOST, estatKey 0x14, istatKey 0x14] s.eng e ∧
      e = { s.eng.marked e with tdc := { s.eng.tdc with
        tins := s.eng.tdc.tins.set c.input { t with volt := c.nv, level := !t.level, lostFlag := true, lostTide := true } } })) ∧
  (∀ (s : State) (k : Fin 4) (st : BitVec 64), (s.eng.unit k).start = some st →
    (s.eng.rd (win R.TDC_D_TMO k)).toNat ≤ (s.eng.time.tb - Engine.coarseOf st).toNat → (s.eng.time.tb - Engine.coarseOf st).toNat < 2 ^ 55 →
    Does (.tdcTimeout k) s fun e =>
      e.rd (istatKey 0x14) = s.eng.rd (istatKey 0x14) ||| 2#32 ∧ RegsKept [istatKey 0x14] s.eng e ∧
      e = { s.eng.marked e with
        tdc := { s.eng.tdc with
          units := (s.eng.setUnit k fun u => { u with start := none, lost := false }).tdc.units
          res := s.eng.tdc.res ++ [{ due := s.eng.time.now + 3, unit := k, ival := none }] }
        recb := if s.eng.rb R.TDC_CTL (4 + k) then (s.eng.inCyc 4 s.eng.time.now fun c =>
          { c with diffs := c.diffs ++ Engine.diffItems k true (s.eng.unit k).lost 0 }).recb else s.eng.recb
        arriving := s.eng.arriving ++ if s.eng.rb R.TDC_EVT 4 then [s.eng.event 0x4 0x02 3 k] else [] }) ∧
  (∀ (s : State) (i : Fin 4) (v : Int) (n : Nat), s.eng.rb (R.TDC_TIN0 + 4 * i) 27 = true → (s.eng.tin i).trip = false →
    s.eng.pwr.enAna = true → s.eng.sys.phase = .run → 16 ≤ n → v < -3000000000 ∨ 3000000000 < v →
    Does (.tdcTermTrip i v n) s fun e =>
      e.rd (estatKey 0x14) = s.eng.rd (estatKey 0x14) ||| 16#32 ∧ e.rd (istatKey 0x14) = s.eng.rd (istatKey 0x14) ||| 1024#32 ∧
      RegsKept [estatKey 0x14, istatKey 0x14] s.eng e ∧
      e = { s.eng.marked e with
        tdc := { s.eng.tdc with tins := (s.eng.setTin i fun t => { t with trip := true }).tdc.tins }
        arriving := s.eng.arriving ++ [s.eng.event 0x4 0x05 0 i] })


/-! ### The trigger sequencer and the recorder -/

/-- SEQUENCER_DECISION (R145 to R148, R153): each word is decided once, in order. The trigger is the one way in which a
decision moves the mode; a level with no branch enabled changes nothing; a first branch without a condition whose action
fires triggers at once where no pre-trigger hold applies. -/
def Obligations.SequencerDecides : Prop :=
  ∀ s : State, s.eng.seq.running = true → s.eng.isOn 7 = true → s.eng.seq.arm + 6 ≤ s.eng.time.now →
    s.eng.seq.next ≤ s.eng.time.now - 6 → s.eng.sys.ending = none →
    let c := s.eng.time.now - 6
    Does .sequencerDecision s fun e =>
      e.seq.next = c + 1 ∧ e.seq.held = s.eng.seenAt c ∧ e.seq.running = true ∧ e.seq.arm = s.eng.seq.arm ∧
      RegsKept [istatKey 0x18, istatKey 0x1A, R.SEQ_SAT, R.SEQ_LAST] s.eng e ∧ e.time = s.eng.time ∧ e.lanes = s.eng.lanes ∧
      e.pods = s.eng.pods ∧ e.stg = s.eng.stg ∧ e.job = s.eng.job ∧
      ((e.seq.fired = s.eng.seq.fired ∧ e.sys = s.eng.sys) ∨
        (s.eng.seq.fired = false ∧ e.seq.fired = true ∧ e.seq.trigAt = some c ∧ e.sys.mode = .capture)) ∧
      ((∀ b, b < 4 → s.eng.rb (s.eng.condKey b) 31 = false) →
        RegsKept [istatKey 0x1A] s.eng e ∧ e.seq.level = s.eng.seq.level ∧ e.seq.cnt = s.eng.seq.cnt ∧
        e.seq.fired = s.eng.seq.fired ∧ e.arriving = s.eng.arriving ∧ e.sys = s.eng.sys) ∧
      (s.eng.rb (s.eng.condKey 0) 31 = true → s.eng.rb (s.eng.condKey 0) 29 = false →
        (∀ k, k < 4 → s.eng.rf (s.eng.condKey 0) (7 * k) 6 = 0x3F) → s.eng.occOf 0 = 1 → s.eng.seq.cnt[0]? = some 0 →
        s.eng.rb (s.eng.actKey 0) 27 = true → s.eng.seq.preHold = false → s.eng.seq.fired = false →
        e.seq.fired = true ∧ e.seq.trigAt = some c ∧ e.sys.mode = .capture ∧ bit (e.rd (istatKey 0x18)) 0 = true)

/-- TIMER_LIMIT (R151), PRE_TRIGGER_MET (R152), TRIG_OUT_PULSE_END (R159), TRIG_IN_EDGE (R160). REC_USER (R184), an access of its
port: the marks stand in the next cycle of the streams named that record; where none does, the drop counter, the error bit and
the event. -/
def Obligations.SequencerTimersPinsAndUserMarks : Prop :=
  ((∀ (s : State) (k : Fin 4), s.eng.seq.running = true → s.eng.seq.tmSeen.getLsbD k = false →
     (max (s.eng.rd (R.SEQ_TMLIM0 + 4 * k)).toNat 1 : Nat) ≤ (s.eng.seq.next : Int) - s.eng.seq.tm.getD k 0 →
     Leaves (.timerLimit k) s
       { s.eng with seq := { s.eng.seq with tmSeen := s.eng.seq.tmSeen ||| BitVec.ofNat 4 (2 ^ k.val) } }) ∧
   (∀ s : State, s.eng.seq.running = true → s.eng.seq.arm + s.eng.seq.pre ≤ s.eng.time.now →
     Leaves .preTriggerMet s { s.eng with seq := { s.eng.seq with preMet := true } }) ∧
   (∀ s : State, Leaves .trigOutPulseEnd s { s.eng with seq := { s.eng.seq with
     pulses := s.eng.seq.pulses.filter fun p => decide (s.eng.time.now < p.2) } }) ∧
   (∀ (s : State) (v : Bool),
     let cyc := { s.eng.cyc with
       trigRise := s.eng.cyc.trigRise || (v && !s.eng.seq.trigIn), trigFall := s.eng.cyc.trigFall || (!v && s.eng.seq.trigIn) }
     (s.eng.seq.running = false →
       Leaves (.trigInEdge v) s { s.eng with seq := { s.eng.seq with trigIn := v }, cyc := cyc }) ∧
     (s.eng.seq.running = true → Does (.trigInEdge v) s fun e =>
       e.seq = { s.eng.seq with trigIn := v, seen := e.seq.seen } ∧ e = { s.eng with seq := e.seq, cyc := cyc } ∧
       ∃ x ∈ e.seq.seen, x.n = s.eng.time.now ∧ x.lvl = v ∧ (v = true → s.eng.seq.trigIn = false → x.rise = true) ∧
         (v = false → s.eng.seq.trigIn = true → x.fall = true)))) ∧
  ((∀ (s : State) (p : Port) (m : BitVec 5) (a : BitVec 10),
     WaitsItsTurn (.recUser p m a) s p (.regs [wrAccess p R.REC_USER (w32 (m.toNat * 2 ^ 16 + a.toNat))] [] none)) ∧
   (∀ (s : State) (m : BitVec 5) (a : BitVec 10), s.ready .f1 = true → Does (.recUser .f1 m a) s (Unsupported 1 (s.eng.arrivesAt .f1))) ∧
   (∀ (s : State) (p : Port) (m : BitVec 5) (a : BitVec 10), p ≠ .f1 → s.ready p = true →
     let f := s.eng.serving p
     let on := mapBits 5 fun i => m.toNat.testBit i && (s.eng.stream i).on
     (on ≠ 0 → Leaves (.recUser p m a) s { f with cyc := { f.cyc with users := s.eng.cyc.users ++ [(portCode p, on, a.toNat)] } }) ∧
     (on = 0 → Does (.recUser p m a) s fun e =>
       e.rd R.REC_USER_DROP = bump16 (s.eng.rd R.REC_USER_DROP) ∧ e.rd (estatKey 0x1C) = s.eng.rd (estatKey 0x1C) ||| 1#32 ∧
       RegsKept [R.REC_USER_DROP, estatKey 0x1C] f e ∧
       e = { f.marked e with arriving := f.arriving ++ [s.eng.event 0x6 0x03 3 m.toNat] })))

/-- POST_TRIGGER_STOP (R60, R156): once the word after the post-trigger count has been decided, lanes, sequencer and
recording stop, and CAPTURE moves to the mode that SYS_MODE_REQ.after names. Where that is ARMED, the checks of R60 decide:
a new run begins in the next cycle, or the engine goes to MEASURE and tells the rejection. Before that word, without a
count, and where a request has ended the run already, nothing stops. -/
def Obligations.PostTriggerCountStopsTheRun : Prop :=
  (∀ s : State, s.eng.seq.post = 0 ∨ s.eng.seq.trigAt = none ∨ s.eng.seq.running = false ∨ s.eng.seq.fired = false ∨
      s.eng.sys.ending ≠ none ∨ (∃ t, s.eng.seq.trigAt = some t ∧ s.eng.seq.next ≤ t + s.eng.seq.post) →
    Idles .postTriggerStop s) ∧
  ∀ (s : State) (t : Nat), s.eng.seq.trigAt = some t → s.eng.seq.running = true → s.eng.seq.fired = true →
    s.eng.sys.ending = none → s.eng.recb.running = true → s.eng.seq.post ≠ 0 → t + s.eng.seq.post < s.eng.seq.next →
    Does .postTriggerStop s fun e =>
      let why := s.eng.rearmReason
      let after := s.eng.rf R.SYS_MODE_REQ 4 2
      e.sys.mode = (if after = 0 then .unload else if 2 ≤ after ∧ why = 0 then .armed else .measure) ∧
      e.sys.target = e.sys.mode ∧ e.sys.modeReg = s.eng.sys.modeReg ∧ e.sys.hwAt = s.eng.time.now ∧
      e.sys.startAt = (if 2 ≤ after ∧ why = 0 then some (s.eng.time.now + 1) else s.eng.sys.startAt) ∧
      e.seq.running = false ∧ e.recb.running = false ∧ (∀ m, m < 4 → (e.lane m).running = false ∧ (e.stream m).on = false) ∧
      (2 ≤ after → why ≠ 0 → e.sys.lastReason = why ∧
        e.rd R.SYS_REJ_CNT = bump16 (s.eng.rd R.SYS_REJ_CNT) ∧ e.rd (istatKey 0x00) = s.eng.rd (istatKey 0x00) ||| 2#32 ∧
        s.eng.event 0x0 0x02 1 (s.eng.rf R.SYS_MODE_REQ 8 8 * 16 + why) ∈ e.arriving) ∧
      e.time = { s.eng.time with owed := e.time.owed } ∧ e.pods = s.eng.pods ∧ e.host = s.eng.host ∧ e.sec = s.eng.sec

/-! ### Staging, Shoal and the event queue -/

/-- BLOCK_ARRIVAL of a closed block, without an injection, and BANK_SWAP (R225 to R228, R233, R234): a block that finds room
in the fill bank is placed at its end; one that finds none is placed in the other bank where that is empty, and else is dropped
and opens a gap. While a block is being written into the fill bank a closed one waits. -/
def Obligations.StagingTakesBlocks : Prop :=
  (∀ s : State, s.eng.isOn 12 = false → (s.eng.arrival.isSome = true → Leaves .blockArrival s { s.eng with pwr := (s.eng.demand 12).pwr }) ∧
    (s.eng.arrival = none → Idles .blockArrival s)) ∧
  (∀ (s : State) (b : Block) (t : List Block), s.eng.isOn 12 = true → s.eng.liveOpening = none → s.eng.recb.waiting = b :: t →
    (s.eng.stgWriting = true → Idles .blockArrival s) ∧
    (s.eng.stgWriting = false → s.eng.hinge.active = false →
    let g := s.eng.stg
    let r := Engine.blkWords b
    let busy := if b.live then g.busyTo else s.eng.time.now + (r + 1) / 2
    let pwr := (s.eng.setBlk 12 fun x => { x with worked := true }).pwr
    (g.sealed = false → g.wp + r ≤ 4066 → Does .blockArrival s fun e =>
      e.rd R.STG_PEAK = w32 (max (s.eng.rd R.STG_PEAK).toNat (s.eng.stgWords + r)) ∧ RegsKept [R.STG_PEAK] s.eng e ∧
      e = { s.eng.marked e with
        pwr := pwr, recb := { s.eng.recb with waiting := t }
        stg := { g with
          blks := g.blks ++ [{ blk := { b with afterGap := b.afterGap || g.gapped.getLsbD b.stream }, bank := g.fill, start := g.wp
                               resv := r, arr := s.eng.time.now, closeAt := s.eng.time.now }]
          wp := g.wp + r, gapped := g.gapped &&& ~~~BitVec.ofNat 5 (2 ^ b.stream), busyTo := busy } }) ∧
    (g.sealed = true ∨ 4066 < g.wp + r → s.eng.dEmpty = true → Does .blockArrival s fun e =>
      let gapped := g.gapped ||| BitVec.ofNat 5 (mapBits 5 fun i => (g.eps.getD i none).isSome)
      e.rd R.STG_PEAK = w32 (max (s.eng.rd R.STG_PEAK).toNat e.stgWords) ∧ RegsKept [R.STG_PEAK] s.eng e ∧
      e = { s.eng.marked e with
        pwr := pwr, recb := { s.eng.recb with waiting := t }
        stg := { g with
          fill := !g.fill, sealed := false, eps := List.replicate 5 none
          blks := (g.blks.filter fun x => x.bank == g.fill) ++
            [{ blk := { b with afterGap := b.afterGap || gapped.getLsbD b.stream }, bank := !g.fill, start := 0
               resv := r, arr := s.eng.time.now, closeAt := s.eng.time.now }]
          wp := r, gapped := gapped &&& ~~~BitVec.ofNat 5 (2 ^ b.stream), busyTo := busy } }) ∧
    (g.sealed = true ∨ 4066 < g.wp + r → s.eng.dEmpty = false → g.eps[b.stream]? = some none → Does .blockArrival s fun e =>
      e.rd R.STG_DROP_CNT = bump16 (s.eng.rd R.STG_DROP_CNT) ∧ e.rd R.STG_GAP_CNT = bump16 (s.eng.rd R.STG_GAP_CNT) ∧
      e.rd (estatKey 0x20) = s.eng.rd (estatKey 0x20) ||| 2#32 ∧ e.rd (istatKey 0x20) = s.eng.rd (istatKey 0x20) ||| 1#32 ∧
      RegsKept [R.STG_DROP_CNT, R.STG_GAP_CNT, estatKey 0x20, istatKey 0x20, R.STG_PEAK] s.eng e ∧
      e.stg.sealed = true ∧ e.stg.eps = g.eps.set b.stream (some { c := 1, more := false }) ∧
      e = { s.eng.marked e with
        pwr := pwr, recb := { s.eng.recb with waiting := t }, stg := { g with sealed := true, eps := e.stg.eps, blks := e.stg.blks }
        arriving := s.eng.arriving ++ if s.eng.rb R.STG_CTL 16 then [s.eng.event 0x9 0x01 1 b.stream] else [] }))) ∧
  (∀ s : State,
    let g := s.eng.stg
    let may := s.eng.dEmpty = true ∧ s.eng.stgWriting = false ∧ (∃ b ∈ g.blks, b.bank = g.fill)
    (may → Leaves .bankSwap s { s.eng with stg := { g with
      fill := !g.fill, wp := 0, sealed := false, blks := g.blks.filter fun b => b.bank == g.fill
      gapped := g.gapped ||| BitVec.ofNat 5 (mapBits 5 fun i => (g.eps.getD i none).isSome), eps := List.replicate 5 none } }) ∧
    (¬may → Idles .bankSwap s))

/-- STAGING_WORD_DELIVERY of a Shoal-routed block (R229, R230, R235): at most two words a cycle; the next word in order of
delivery goes to the memory writer, which takes the block with its last word; an error that the check finds is counted.
DROP_REST (R231) cuts the live block at the read position, once a word of it has been delivered, a restart of the same cycle
undone; without a LIVE job the block counts as dropped. -/
def Obligations.StagingDeliversInOrder : Prop :=
  ((∀ (s : State) (u : Option Upset), s.eng.isOn 12 = false ∨ 2 ≤ s.eng.cyc.delivered ∨ s.eng.readPos = none →
     Idles (.stagingWordDelivery u) s) ∧
   (∀ (s : State) (i : Nat) (b : SBlk), s.eng.isOn 12 = true → s.eng.cyc.delivered < 2 → s.eng.readPos = some i →
     s.eng.stg.blks[i]? = some b → b.blk.live = false →
     (∀ u, s.eng.wordReady b = false → Idles (.stagingWordDelivery u) s) ∧
     (∀ u, s.eng.wordReady b = true → s.eng.memServes = false →
       Leaves (.stagingWordDelivery u) s { s.eng with pwr := (s.eng.demand 13).pwr }) ∧
     (s.eng.wordReady b = true → s.eng.memServes = true → (b.bad.find? fun p => p.1 == Engine.wordOffset b) = none →
       let fin := b.closed && b.deliv + 1 == Engine.blkWords b.blk
       let cyc := { s.eng.cyc with delivered := s.eng.cyc.delivered + 1 }
       let e12 := s.eng.setBlk 12 fun x => { x with worked := true }
       let blks := s.eng.stg.blks.set i { b with deliv := b.deliv + 1, restart := b.restart && !fin }
       Leaves (.stagingWordDelivery none) s { s.eng with
         cyc := cyc, pwr := if fin then (e12.setBlk 13 fun x => { x with worked := true }).pwr else e12.pwr
         stg := { s.eng.stg with blks := blks, toPlace := s.eng.stg.toPlace ++ if fin then [Engine.received b] else [] } } ∧
       ∀ u : Upset, u.ecc = .single → Does (.stagingWordDelivery (some u)) s fun e =>
         e.rd R.STG_CE_CNT = bump16 (s.eng.rd R.STG_CE_CNT) ∧ e.rd (istatKey 0x20) = s.eng.rd (istatKey 0x20) ||| 2#32 ∧
         RegsKept [R.STG_CE_CNT, istatKey 0x20] s.eng e ∧ e.stg.blks = blks ∧ e.arriving = s.eng.arriving))) ∧
  ((∀ s : State, s.eng.access = false ∨ s.eng.readPos = none → Idles .dropRest s) ∧
   ∀ (s : State) (i : Nat) (b : SBlk), s.eng.access = true → s.eng.readPos = some i → s.eng.stg.blks[i]? = some b →
     let n := if b.restart = true ∧ b.closeAt = s.eng.time.now then b.took else b.deliv
     (b.blk.live = false ∨ n = 0 → Idles .dropRest s) ∧
     (b.blk.live = true → n ≠ 0 → s.eng.liveSlot b.blk.stream = none → Does .dropRest s fun e =>
       e.rd R.STG_DROP_CNT = bump16 (s.eng.rd R.STG_DROP_CNT) ∧ RegsKept [R.STG_DROP_CNT] s.eng e ∧
       e = { s.eng.marked e with stg := { s.eng.stg with
         blks := s.eng.stg.blks.set i { b with dropped := true, restart := false } } }))

/-- BLOCK_PLACEMENT (R191 to R193, R230), without an injection: the block's bytes stand at the write pointer of its stream's
region or, where it does not fit, at the region's start; its entry stands at the head of the sub-ring; every other byte of
Shoal is as before, and the pointers move on. Beyond Shoal there is nothing to write to. -/
def Obligations.BlockPlacementWritesBlockAndEntry : Prop :=
  (∀ s : State, s.eng.stg.toPlace = [] → Idles .blockPlacement s) ∧
  ∀ (s : State) (b : Block) (t : List Block) (m : MemStream) (p : Place), s.eng.stg.toPlace = b :: t →
    (s.eng.memServes = false → Leaves .blockPlacement s { s.eng with pwr := (s.eng.demand 13).pwr }) ∧
    (s.eng.memServes = true → s.eng.ringOf b = none → ∃ u, exec .blockPlacement s = .next u ∧ u.shoal = s.shoal ∧ u.evq = s.evq) ∧
    (s.eng.memServes = true → s.eng.ringOf b = some (m, p) → s.eng.hinge.active = false →
      let n := (16 + b.body.length + 63) / 64
      let w := if m.wptr + n ≤ p.units then m.wptr else 0
      let a := (p.base + w) * 64
      let d := p.dirAt + 16 * m.head
      let len := 8 * (((blockBytes b).length + 7) / 8)
      (2 ^ 30 < a + len ∨ 2 ^ 30 < d + 16 → exec .blockPlacement s = .fault .shoalRange) ∧
      (a + len ≤ 2 ^ 30 → d + 16 ≤ 2 ^ 30 → a + len ≤ d ∨ d + 16 ≤ a →
        ∃ u, exec .blockPlacement s = .next u ∧ u.evq = s.evq ∧
          (∀ i x, (blockBytes b)[i]? = some x → u.shoal.mem.get (a + i) = some x) ∧
          (∀ i x, (entryBytes b (p.base + w) n)[i]? = some x → u.shoal.mem.get (d + i) = some x) ∧
          (∀ x, (x < a ∨ a + len ≤ x) → (x < d ∨ d + 16 ≤ x) → u.shoal.mem.get x = s.shoal.mem.get x) ∧
          u.eng.time = { s.eng.time with owed := u.eng.time.owed } ∧ u.eng.pods = s.eng.pods ∧
          (b.run = (s.eng.memS b.stream).run → s.eng.mem.streams[b.stream]? = some m →
            (u.eng.memS b.stream).wptr = w + n ∧ (u.eng.memS b.stream).head = (m.head + 1) % p.ring)))

/-- SCRUB_READ (R197, R198): the next line of the pass is read and checked; a single-bit error is counted, told and
corrected; the pass goes on to its next line or ends with the interrupt and the event. -/
def Obligations.ScrubChecksTheNextLine : Prop :=
  (∀ (s : State) (us : List Upset), s.eng.rb R.MEM_CTL 0 = false ∨ s.eng.memServes = false ∨
      s.eng.rf R.MEM_CTL 16 8 ≤ s.eng.mem.scrubUsed →
    Idles (.scrubRead us) s) ∧
  ∀ (s : State) (x l : Nat), s.eng.rb R.MEM_CTL 0 = true → s.eng.memServes = true →
    s.eng.mem.scrubUsed < s.eng.rf R.MEM_CTL 16 8 → s.shoal.bad = [] →
    s.eng.scrubNext s.eng.mem.scrubExt s.eng.mem.scrubLine = some (x, l) →
    let used := s.eng.mem.scrubUsed + 1
    let hinge := (s.eng.linkSend true).hinge
    (∀ y k, s.eng.scrubNext x (l + 1) = some (y, k) →
      Leaves (.scrubRead []) s { s.eng with
        hinge := hinge, mem := { s.eng.mem with scrubUsed := used, scrubAct := true, scrubExt := y, scrubLine := k } }) ∧
    (s.eng.scrubNext x (l + 1) = none → Does (.scrubRead []) s fun e =>
      e.rd (istatKey 0x22) = s.eng.rd (istatKey 0x22) ||| 2#32 ∧ RegsKept [istatKey 0x22] s.eng e ∧
      e = { s.eng.marked e with
        hinge := hinge, mem := { s.eng.mem with scrubUsed := used, scrubAct := true, scrubExt := 0, scrubLine := 0 }
        arriving := s.eng.arriving ++ if s.eng.rb R.MEM_CTL 1 then [s.eng.event 0x7 0x02 3 0] else [] }) ∧
    (∀ (k : Nat) (f : BitVec 64), k < 8 → s.eng.scrubByte x l / 8 + k < 2 ^ 27 →
      let w := s.eng.scrubByte x l / 8 + k
      ∃ u, exec (.scrubRead [⟨w, .single, f⟩]) s = .next u ∧ u.shoal = s.shoal ∧ u.evq = s.evq ∧
        u.eng.rd R.MEM_CE_CNT = bump16 (s.eng.rd R.MEM_CE_CNT) ∧ u.eng.rd R.MEM_ERR_ADDR = w32 (2 ^ 31 + w) ∧
        bit (u.eng.rd (istatKey 0x22)) 2 = true ∧ RegsKept [R.MEM_CE_CNT, R.MEM_ERR_ADDR, istatKey 0x22] s.eng u.eng)

/-- EVQ_POP (R238, R241) and EVQ_OVERRUN (R240): among the entries that the cycle began with, a pop takes the first one of
the lowest class, delivers it as stored, and latches its high half and its tag; a half whose parity does not match, for an odd
number of its bits has changed since the push, is told; an overrun stands in the queue with the number of pushes lost. A pop
is an access of its port. -/
def Obligations.EventsAreReadByClass : Prop :=
  (∀ q : EvQueue,
     (∀ i, State.evqFirst q = some i → i < q.visible ∧ ∃ x, q.entries[i]? = some x ∧
       ∀ (j : Nat) (y : Entry), j < q.visible → q.entries[j]? = some y → y.cls < 4 → x.cls < y.cls ∨ (x.cls = y.cls ∧ i ≤ j)) ∧
     (State.evqFirst q = none → ∀ (j : Nat) (y : Entry), j < q.visible → q.entries[j]? = some y → 4 ≤ y.cls)) ∧
  ((∀ (s : State) (p : Port) (h l : Word), WaitsItsTurn (.evqPop p h l) s p (.pop (h ++ l))) ∧
   (∀ (s : State) (h l : Word), s.ready .f1 = true → Does (.evqPop .f1 h l) s (Unsupported 1 (s.eng.arrivesAt .f1))) ∧
   (∀ (s : State) (p : Port) (h l : Word), p ≠ .f1 → s.ready p = true →
     let e := s.eng.serving p
     (State.evqFirst s.evq = none → Leaves (.evqPop p h l) s { e with
       latch := (s.eng.setLatch (portCode p) fun x => { x with pop := { hi := 0#32, tag := 0#32, fresh := true } }).latch
       tx := e.tx ++ [.portRead p R.EVQ_POP_LO 0#32] }) ∧
     (∀ i x, State.evqFirst s.evq = some i → s.evq.entries[i]? = some x →
       let odd (w : Word) : Bool := ((List.range 32).filter fun k => w.getLsbD k).length % 2 == 1
       let bh := x.badHi != odd h
       let bl := x.badLo != odd l
       let evq := { s.evq with entries := s.evq.entries.eraseIdx i, visible := s.evq.visible - 1, freed := s.evq.freed + 1 }
       let popped (tag : Nat) := (s.eng.setLatch (portCode p) fun y =>
         { y with pop := { hi := x.bits.extractLsb' 32 32 ^^^ h, tag := w32 tag, fresh := true } }).latch
       let tx := e.tx ++ [.portRead p R.EVQ_POP_LO (x.bits.setWidth 32 ^^^ l)]
       (bh = false → bl = false → exec (.evqPop p h l) s = .next
         { s with eng := { e with latch := popped (2 ^ 31), tx := tx }.settle, evq := evq }) ∧
       (bh = true ∨ bl = true → ∃ f : Engine, exec (.evqPop p h l) s = .next { s with eng := f.settle, evq := evq } ∧
         f.rd R.EVQ_STAT = s.eng.rd R.EVQ_STAT ||| 0x20000000#32 ∧ f.rd (estatKey 0x21) = s.eng.rd (estatKey 0x21) ||| 2#32 ∧
         f.rd (istatKey 0x21) = s.eng.rd (istatKey 0x21) ||| 2#32 ∧
         RegsKept [R.EVQ_STAT, estatKey 0x21, istatKey 0x21] e f ∧
         f = { e.marked f with
           latch := popped (2 ^ 31 + 2 ^ 30 + (if bh then 2 ^ 29 else 0) + if bl then 2 ^ 28 else 0), tx := tx }))) ∧
   (∀ s : State, (s.evq.lostSince = 0 ∨ evqSize ≤ s.evq.entries.length → Idles .evqOverrun s) ∧
     (s.evq.lostSince ≠ 0 → s.evq.entries.length < evqSize → s.eng.hinge.active = false ∨ s.eng.hinge.kind ≠ 9 →
       exec .evqOverrun s = .next { s with
         eng := s.eng.settle
         evq := { s.evq with
           entries := s.evq.entries ++
             [entryOf ⟨0x9, 0x03, 0, min s.evq.lostSince 0xFFF, s.eng.time.tb.toNat % 2 ^ 40, false⟩ false]
           lostSince := 0 } })))


/-! ### Jobs -/

/-- COMPLETION and COMPLETION_TIMEOUT (R255, R259, R283, R296, R297, R299): the descriptors that a completion brings make
their entries FETCHED; a failed one ends every entry of its read FAILED with cause 8, those that an earlier part has brought
among them; one that nothing asked for is an error. A poisoned completion, and a request without its completion, do the same
or, where they are enabled as a cause, freeze the port. What arrives for a read that breakwater holds is kept back. -/
def Obligations.HostCompletions : Prop :=
  (∀ (s : State) (tag : Nat) (st : CplStatus) (ps : Bool) (data : List Word), s.eng.job.reads.find? (fun r => r.tag == tag && !r.late) = none →
    Does (.completion tag st ps data) s fun e =>
      e.host.lastErr = w32 (2 ^ 31 + 6 * 2 ^ 24 + s.eng.time.tb.toNat % 2 ^ 24) ∧
      e.rd (istatKey 0x25) = s.eng.rd (istatKey 0x25) ||| 32#32 ∧ e.job = { s.eng.job with outQ := e.job.outQ } ∧
      e.time = s.eng.time ∧ e.sys = s.eng.sys ∧
      RegsKept ([0x04, 0x58, 0x104, 0x110, 0x118, 0x11C, 0x120, 0x124, 0x128].map (cfgKey 0) ++ [R.HOST_CORR_CNT, istatKey 0x25]) s.eng e) ∧
  (∀ (s : State) (tag : Nat) (data : List Word) (r : JobRead), s.eng.job.reads.find? (fun r => r.tag == tag && !r.late) = some r →
    (r.frozen = true → ∀ (st : CplStatus) (ps : Bool), Leaves (.completion tag st ps data) s { s.eng with job := { s.eng.job with
      reads := s.eng.job.reads.map fun x => if x.tag = tag then
        (if st = .success ∧ (r.got ++ data).length < 8 * r.n then { r with got := r.got ++ data } else { r with late := true }) else x } }) ∧
    (r.frozen = false → 8 * r.n ≤ (r.got ++ data).length → Does (.completion tag .success false data) s fun e =>
      (∀ k, k < r.n → (s.eng.ent (r.first + k)).inRead = true → (s.eng.ent (r.first + k)).cancel = false →
        e.ent (r.first + k) = { s.eng.ent (r.first + k) with
          inRead := false, st := .fetched, desc := ((r.got ++ data).drop (8 * k)).take 8, tag := none }) ∧
      (∀ j, j < r.first ∨ r.first + r.n ≤ j → (s.eng.ent j).tag ≠ some r.tag → e.ent j = s.eng.ent j) ∧
      e = { s.eng with job := { s.eng.job with
        ents := e.job.ents, reads := s.eng.job.reads.filter fun x => x.tag != r.tag } }) ∧
    (r.frozen = false → ∀ st, st ≠ .success → Does (.completion tag st false data) s fun e =>
      e.rd (cfgKey 0 0x04) = s.eng.rd (cfgKey 0 0x04) ||| (if st = .unsupported then 0x20000000#32 else 0x10000000#32) ∧
      RegsKept [cfgKey 0 0x04] s.eng e ∧
      (∀ k, k < r.n → (s.eng.ent (r.first + k)).ended = none →
        (s.eng.ent (r.first + k)).inRead = true ∨ (s.eng.ent (r.first + k)).tag = some r.tag →
        (e.ent (r.first + k)).ended = some (6, 8) ∧ (e.ent (r.first + k)).desc = [] ∧ (e.ent (r.first + k)).inRead = false) ∧
      (∀ j, j < r.first ∨ r.first + r.n ≤ j → (s.eng.ent j).tag ≠ some r.tag → e.ent j = s.eng.ent j) ∧
      e.job.reads = (s.eng.job.reads.filter fun x => x.tag != r.tag) ∧ e.time = s.eng.time ∧ e.sys = s.eng.sys ∧
      ((∀ k, k < r.n → (s.eng.ent (r.first + k)).tag ≠ some r.tag) → e = { s.eng.marked e with job := { s.eng.job with
        ents := e.job.ents, reads := e.job.reads } }))) ∧
  (∀ (s : State) (c : Instr) (tag kind : Nat) (r : JobRead),
    s.eng.job.reads.find? (fun r => r.tag == tag && !r.late) = some r → s.eng.host.bw = .opened →
    ((∃ data st, c = .completion tag st true data ∧ kind = 4 ∧ r.frozen = false) ∨
      (∃ t, c = .completionTimeout tag ∧ kind = 3 ∧ s.eng.timeoutOf = some t ∧ r.at' + t ≤ s.eng.time.now)) →
    let cnt := if kind = 4 then R.HOST_POIS_CNT else R.HOST_CTO_CNT
    let cause := if kind = 4 then 2 else 1
    Does c s fun e =>
      e.rd cnt = bump16 (s.eng.rd cnt) ∧
      e.host.lastErr = w32 (2 ^ 31 + kind * 2 ^ 24 + s.eng.time.tb.toNat % 2 ^ 24) ∧ e.time = s.eng.time ∧
      (kind = 4 → bit (e.rd (cfgKey 0 0x04)) 31 = true ∧ (bit (s.eng.rd (cfgKey 0 0x04)) 6 = true → bit (e.rd (cfgKey 0 0x04)) 24 = true)) ∧
      (s.eng.rb R.HOST_BW_CTL (cause - 1) = true → e.host.bw = .frozen ∧ e.host.bwCause = cause ∧ e.host.bwTb = s.eng.time.tb ∧
        e.job.ents = s.eng.job.ents ∧ e.arriving = s.eng.arriving ++ [s.eng.event 0xB 0x03 0 cause]) ∧
      (s.eng.rb R.HOST_BW_CTL (cause - 1) = false → e.host.bw = .opened ∧ e.arriving = s.eng.arriving ∧
        e.job.reads = (s.eng.job.reads.filter fun x => x.tag != r.tag) ∧
        ∀ k, k < r.n → (s.eng.ent (r.first + k)).inRead = true → (s.eng.ent (r.first + k)).ended = none →
          (e.ent (r.first + k)).ended = some (6, 8))) ∧
  (∀ (s : State) (tag : Nat), s.eng.timeoutOf = none ∨ s.eng.job.reads.find? (fun r => r.tag == tag && !r.late) = none ∨
    (∃ t r, s.eng.timeoutOf = some t ∧ s.eng.job.reads.find? (fun r => r.tag == tag && !r.late) = some r ∧ s.eng.time.now < r.at' + t) →
    Idles (.completionTimeout tag) s)

/-- ENTRY_READ, BLOCK_READ and DECODE_BLOCK (R190, R197, R215, R257): the job in a slot reads its entry, then the block that
the entry names, over Hinge-S; MEM is woken where it does not serve; an address beyond Shoal does not exist. A sound block
that the decompressor checks for a VERIFY job adds its items, and the last one ends the job DONE. -/
def Obligations.ShoalJobsReadEntriesAndBlocks : Prop :=
  (∀ (s : State) (k : Fin 4) (us : List Upset),
    (s.eng.slotAt k .entry = false → Idles (.entryRead k us) s) ∧ (s.eng.slotAt k .block = false → Idles (.blockRead k us) s) ∧
    (s.eng.memServes = false →
      let e' := { s.eng with
        pwr := (s.eng.demand 13).pwr
        job := { s.eng.job with waitMem := s.eng.job.waitMem || decide (32 ≤ s.eng.hinge.s.head.out.length) } }
      (s.eng.slotAt k .entry = true → Leaves (.entryRead k us) s e') ∧ (s.eng.slotAt k .block = true → Leaves (.blockRead k us) s e'))) ∧
  (∀ (s : State) (k : Fin 4), s.eng.memServes = true →
    let t := s.eng.slot k
    let read (e : Engine) : Prop := e.time = s.eng.time ∧ e.hinge = (s.eng.linkSend true).hinge ∧ e.sys = s.eng.sys ∧
      RegsKept [] s.eng e ∧ e.arriving = s.eng.arriving
    (s.eng.slotAt k .entry = true →
      let a := t.dirAt + 16 * t.entIdx
      let ws := Engine.wordsOf (s.shoal.bytes a 16)
      (∀ us, 2 ^ 30 < a + 16 → exec (.entryRead k us) s = .fault .shoalRange) ∧
      (a + 16 ≤ 2 ^ 30 → s.shoal.badIn a 16 = [] → Engine.badEntry t ws false = false → t.opcode ≠ 3 → t.opcode ≠ 5 →
        t.made + Engine.entNeeds t.opcode ws ≤ s.eng.dstLen t.ring →
        ∃ e : Engine, exec (.entryRead k []) s = .next { s with
            eng := e.settle, shoal := { s.shoal with reads := s.shoal.reads + 1 } } ∧
          read e ∧ e.slot k = { t with ent := ws, stage := .block }) ∧
      (a + 16 ≤ 2 ^ 30 → s.shoal.badIn a 16 = [] → Engine.badEntry t ws false = true → 1 < t.left →
        ∃ e : Engine, exec (.entryRead k []) s = .next { s with
            eng := e.settle, shoal := { s.shoal with reads := s.shoal.reads + 1 } } ∧
          read e ∧ (e.slot k).faults = t.faults + 1 ∧ (e.slot k).left = t.left - 1 ∧
          (e.slot k).entIdx = (t.entIdx + 1) % t.ringE ∧ (e.slot k).stage = .entry ∧ (t.code = 0 → (e.slot k).code = 7))) ∧
    (s.eng.slotAt k .block = true → ∀ w0, t.ent[0]? = some w0 →
      let a := fld w0 0 24 * 64
      let n := fld w0 24 8 * 64
      (∀ us, 2 ^ 30 < a + n → exec (.blockRead k us) s = .fault .shoalRange) ∧
      (a + n ≤ 2 ^ 30 → s.shoal.badIn a n = [] → t.opcode ≠ 1 →
        ∃ e : Engine, exec (.blockRead k []) s = .next { s with
            eng := e.settle, shoal := { s.shoal with reads := s.shoal.reads + 1 } } ∧
          read e ∧ e.slot k = { t with stage := .decode } ∧
          ∃ d : DecIn, e.job.decQ = s.eng.job.decQ ++ [d] ∧ d.slot = k.val ∧ d.bytes = s.shoal.bytes a n ∧
            d.unit = some (fld w0 0 24)))) ∧
  (∀ s : State, s.eng.job.decQ = [] → Idles .decodeBlock s) ∧
  (∀ (s : State) (d : DecIn) (rest : List DecIn), s.eng.job.decQ = d :: rest →
    (s.eng.slotLive d.slot = false → Idles .decodeBlock s) ∧
    (s.eng.slotLive d.slot = true → s.eng.isOn 11 = false → Leaves .decodeBlock s { s.eng with pwr := (s.eng.demand 11).pwr }) ∧
    (s.eng.slotLive d.slot = true → s.eng.isOn 11 = true → (s.eng.slot d.slot).opcode = 3 → (checkBlock d.bytes d.expect).faults = [] →
      let t := s.eng.slot d.slot
      let n := (checkBlock d.bytes d.expect).items.length
      Does .decodeBlock s fun e =>
        e.job.decQ = rest ∧ RegsKept [] s.eng e ∧ e.time = s.eng.time ∧ e.tx = s.eng.tx ∧ e.arriving = s.eng.arriving ∧
        (e.slot d.slot).blocks = t.blocks + 1 ∧ (e.slot d.slot).made = t.made + n ∧ (e.slot d.slot).out = t.out + n ∧
        (1 < t.left → (e.slot d.slot).left = t.left - 1 ∧ (e.slot d.slot).stage = .entry) ∧
        (t.left ≤ 1 → t.ring < s.eng.job.ents.length → (e.ent t.ring).ended = some (4, 0))))

/-- JOB_WRITEBACK (R259, R260), POSTED_CREDITS_RETURN (R261) and BREAKWATER_RELEASE (R266, R298): the writeback of an ended
job goes to its place in the writeback ring and takes one credit; credits returned let waiting writes go, and what
waits behind them, in order; a release ends the jobs that breakwater has frozen, FAILED with cause 9, and opens the port where
nothing is owed. -/
def Obligations.JobsEndAndPortOpens : Prop :=
  (∀ (s : State) (ring : Fin 64) (st cause : Nat), s.eng.wbReady ring = true → (s.eng.ent ring).ended = some (st, cause) →
    s.eng.host.bw = .opened →
    let a := (s.eng.rd R.JOB_WB_LO).toNat + 2 ^ 32 * (s.eng.rd R.JOB_WB_HI).toNat + 16 * ring
    Does (.jobWriteback ring) s fun e =>
      e.tx = s.eng.tx ++ [.writeMem a ((s.eng.wbWords ring st cause).flatMap bytesOfWord) s.eng.idoReq] ∧
      e.host.credits = s.eng.host.credits - 1 ∧ RegsKept [] s.eng e ∧ e.time = s.eng.time ∧ e.sys = s.eng.sys ∧
      e.arriving = s.eng.arriving ∧ e.job.reads = s.eng.job.reads ∧ e.job.tail = s.eng.job.tail ∧
      (∃ c : Ended, e.job.counted = s.eng.job.counted ++ [c] ∧ c.ring = ring.val ∧ c.status = st ∧ c.cause = cause) ∧
      (s.eng.job.head % 64 ≠ ring.val → (s.eng.ent (s.eng.job.head % 64)).wb = false →
        e.job.head = s.eng.job.head ∧ (e.ent ring).wb = true ∧
        (e.ent ring).st = (if st = 4 then .done else if st = 5 then .cancelled else .failed) ∧
        ∀ j, j ≠ ring.val → e.ent j = s.eng.ent j)) ∧
  (∀ (s : State) (ring : Fin 64), s.eng.wbReady ring = false →
    ((s.eng.ent ring).ended.isSome = true → (s.eng.ent ring).wb = false → s.eng.canIssue = true →
      Leaves (.jobWriteback ring) s { s.eng with job := { s.eng.job with waitHost := true } }) ∧
    ((s.eng.ent ring).ended = none ∨ (s.eng.ent ring).wb = true ∨ s.eng.canIssue = false → Idles (.jobWriteback ring) s)) ∧
  (∀ (s : State) (n : Nat), s.eng.job.outQ = [] ∨ (s.eng.canIssue = false ∧ ∀ w ∈ s.eng.job.outQ, w.tlp = none) →
    Leaves (.postedCreditsReturn n) s { s.eng with host := { s.eng.host with credits := s.eng.host.credits + n } }) ∧
  (∀ (s : State) (n : Nat), s.eng.canIssue = false → Does (.postedCreditsReturn n) s fun e =>
    e.tx = s.eng.tx ++ s.eng.job.outQ.filterMap (·.tlp) ∧ e = { s.eng with
      tx := e.tx, job := { s.eng.job with outQ := s.eng.job.outQ.filter fun w => w.tlp.isNone }
      host := { s.eng.host with credits := s.eng.host.credits + n, pm := e.host.pm, clkreq := e.host.clkreq } }) ∧
  (∀ (s : State) (n : Nat) (w : OutWr) (t : List OutWr), s.eng.canIssue = true → s.eng.job.outQ = w :: t →
    (w.bytes.length + 15) / 16 ≤ s.eng.host.credits + n → Does (.postedCreditsReturn n) s fun e =>
      (s.eng.tx ++ [w.tlp.getD (.writeMem w.addr w.bytes s.eng.idoReq)]) <+: e.tx ∧ e.job.outQ.length ≤ t.length ∧ e.job.outQ <:+ t ∧
      e.host.credits ≤ s.eng.host.credits + n - (w.bytes.length + 15) / 16 ∧ e.regs = s.eng.regs ∧ e.time = s.eng.time ∧
      e.job.ents = s.eng.job.ents) ∧
  (∀ s : State, s.eng.access = false ∨ s.eng.host.bw ≠ .frozen → Idles .breakwaterRelease s) ∧
  (∀ (s : State) (x : JobSlot), s.eng.access = true → s.eng.host.bw = .frozen → x ∈ s.eng.job.slots → x.frozen = true →
    x.ring < s.eng.job.ents.length → (s.eng.ent x.ring).wb = false →
    Does .breakwaterRelease s fun e => e.host.bw = .releasing ∧ (e.ent x.ring).ended = some (6, 9) ∧ RegsKept [] s.eng e ∧
      e.arriving = s.eng.arriving ∧ e.time = s.eng.time ∧ e.sys = s.eng.sys) ∧
  (∀ s : State, s.eng.access = true → s.eng.host.bw = .frozen → s.eng.job.outQ = [] → (∀ x ∈ s.eng.job.slots, x.frozen = false) →
    (∀ x ∈ s.eng.job.reads, x.frozen = false) → (∀ j ∈ s.eng.job.ents, j.wb = true ∨ j.ended ≠ some (6, 9)) →
    Does .breakwaterRelease s fun e =>
      e.rd (istatKey 0x25) = s.eng.rd (istatKey 0x25) ||| 8#32 ∧ RegsKept [istatKey 0x25] s.eng e ∧
      e = { s.eng.marked e with
        host := { s.eng.host with bw := .opened }, arriving := s.eng.arriving ++ [s.eng.event 0xB 0x04 2 0] })

/-! ### The host port -/

/-- MEMORY_READ_REQUEST, MEMORY_WRITE_REQUEST, APERTURE_READ and EXPANSION_ROM_READ (R74, R275 to R280, R284, R285, R299): a
request that cannot be served waits, and those of its function behind it; a write of one DW is a register write of its
function's port; a read of one DW of a read-write register returns its value; one that reaches nothing is unsupported; an
aperture read returns Shoal's bytes in completions cut as the link requires, under the base of its arrival; the ROM window
holds the chart. What the port sends waits behind posted writes that wait for credit, but for a completion with IDO set. -/
def Obligations.MemoryRequests : Prop :=
  (∀ (e : Engine) (t : Tx), t.isPci = true →
    (e.job.outQ = [] ∨ e.canIssue = false ∨ (∃ fn st data ep, t = .completion fn st data ep true) →
      e.send t = { e.linkWake with tx := e.tx ++ [t] }) ∧
    (e.job.outQ ≠ [] → e.canIssue = true → (∀ fn st data ep, t ≠ .completion fn st data ep true) →
      e.send t = { e.linkWake with job := { e.job with outQ := e.job.outQ ++
        [{ ring := 64, addr := 0, bytes := [], upTo := 0, tlp := some t }] } })) ∧
  (∀ (s : State) (q : MemReq), s.eng.host.up = false → Idles (.memoryReadRequest q) s ∧ Idles (.memoryWriteRequest q) s) ∧
  (∀ (s : State) (q : MemReq), q.data = [] → Idles (.memoryWriteRequest q) s) ∧
  (∀ (s : State) (q : MemReq), s.eng.host.up = true →
    let e := s.eng.arrives
    let p := s.eng.reqPort q
    let rd := { q with data := [] }
    let waits (q : MemReq) : Engine := (if e.wantsMem p q then e.demand 13 else e).hold
      { port := p, auth := e.auth (portCode p), work := .mem q s.eng.aperBase }
    Queues (.memoryReadRequest q) s e p (.mem rd s.eng.aperBase) ∧
    (q.data ≠ [] → Queues (.memoryWriteRequest q) s e p (.mem q s.eng.aperBase)) ∧
    (e.portFirst p = true →
      (e.servable p rd = false → Leaves (.memoryReadRequest q) s (waits rd)) ∧
      (q.data ≠ [] → e.servable p q = false → Leaves (.memoryWriteRequest q) s (waits q)) ∧
      (e.servable p rd = true → e.hit q.addr = .none → q.tlpPrefix = false →
        Does (.memoryReadRequest q) s fun f => Unsupported 0 e f ∧ Answers e f (.completion 0 .unsupported [] false false)) ∧
      (∀ fn off, e.servable p rd = true → e.hit q.addr = .regs fn off → q.tlpPrefix = false → q.kind = .memory →
        e.memOn fn = true → e.host.bw ≠ .frozen → q.len = 1 → q.fbe ≠ 0#4 → fn ≤ 1 → portHas fn (off / 256) = true →
        (∀ r, isCliff (off / 256) = false → row? (off / 256) (off % 256 / 4 * 4) = some r → r.acc = .rw →
          Leaves (.memoryReadRequest q) s ((e.served p).send
            (.completion fn .success [e.plainValue fn (off / 256) (off % 256 / 4 * 4)] false (e.idoCpl fn)))) ∧
        (∀ v, q.data = [v] → q.ep = false → exec (.memoryWriteRequest q) s =
          exec (.registerWrite p (off / 256) (off % 256 / 4 * 4) q.fbe v) s)))) ∧
  (∀ (s : State) (off n : Nat) (us : List Upset), s.eng.host.up = true →
    let e := s.eng.arrives
    let hold (f : Engine) (w : Work) : Engine := f.hold { port := .f0, auth := e.auth 0, work := w }
    let read : Work := .aper off n us s.eng.aperBase
    Queues (.apertureRead off n us) s e .f0 read ∧ Queues (.expansionRomRead off n) s e .f0 (.rom off n) ∧
    (e.portFirst .f0 = true → e.portOpen .f0 = false →
      Leaves (.apertureRead off n us) s (hold e read) ∧ Leaves (.expansionRomRead off n) s (hold e (.rom off n))) ∧
    (e.portFirst .f0 = true → e.portOpen .f0 = true →
      (e.memOn 0 = false → Does (.apertureRead off n us) s fun f =>
        Unsupported 0 e f ∧ Answers e f (.completion 0 .unsupported [] false false)) ∧
      (e.memOn 0 = false ∨ bit (e.cfg 0 0x30) 0 = false → Does (.expansionRomRead off n) s fun f =>
        Unsupported 0 e f ∧ Answers e f (.completion 0 .unsupported [] false false)) ∧
      (e.memOn 0 = true → e.host.bw ≠ .frozen → n ≠ 0 →
        (e.policy 0x22 ≠ 2 → Engine.linkDead e.hinge.s = false → off + n ≤ 2 ^ 28 → e.memServes = false →
          Leaves (.apertureRead off n us) s (hold (e.demand 13) read)) ∧
        (e.policy 0x22 ≠ 2 → Engine.linkDead e.hinge.s = false → off + n ≤ 2 ^ 28 → e.memServes = true →
          let a := s.eng.rf R.HOST_APER 0 14 * 65536 + off
          s.shoal.badIn a n = [] →
          exec (.apertureRead off n []) s = .next { s with
            shoal := { s.shoal with reads := s.shoal.reads + 1 }
            eng := ((cutReads e.maxPayload (n + 1) off n).foldl (fun f (x : Nat × Nat) => f.send
              (.completion 0 .success (wordsOfBytes (((s.shoal.bytes a n).drop (x.1 - off)).take x.2)) false false))
              ((e.demand 13).linkSend true)).settle }) ∧
        (e.policy 0x22 = 2 ∨ Engine.linkDead e.hinge.s = true ∨ 2 ^ 28 < off + n → Does (.apertureRead off n us) s fun f =>
          f.rd R.HOST_CA_CNT = bump16 (s.eng.rd R.HOST_CA_CNT) ∧ Answers e f (.completion 0 .abort [] false false) ∧
          f.host.lastErr = w32 (2 ^ 31 + 2 * 2 ^ 24 + s.eng.time.tb.toNat % 2 ^ 24) ∧ f.time = e.time ∧ f.sys = e.sys) ∧
        (bit (e.cfg 0 0x30) 0 = true → off + n ≤ 65536 →
          Leaves (.expansionRomRead off n) s ((cutReads e.maxPayload (n + 1) off n).foldl (fun f (x : Nat × Nat) => f.send
            (.completion 0 .success (wordsOfBytes ((List.range x.2).map fun i => chartBytes.getD (x.1 + i) 0#8)) false false)) e)))))

/-- CONFIGURATION_REQUEST and MESSAGE_RECEIVED (R271 to R274, R279, R290, R296): a read returns the register; a write changes
its writable fields and clears its write-one-to-clear bits, and with PME_Status forgets the last PM_PME; a request for what is
not there is unsupported, as is a vendor message of type 0; an End-End TLP prefix makes a request malformed; a correctable
error of the link is counted. A request for a function waits for what its function has waiting. -/
def Obligations.ConfigurationRequestsAndMessages : Prop :=
  (∀ (s : State) (q : CfgReq) (fn : Fin 2) (m : Msg), s.eng.host.up = false →
    Idles (.configurationRequest q) s ∧ Idles (.messageReceived fn m) s) ∧
  ∀ s : State, s.eng.host.up = true →
    let e := s.eng.arrives
    let port (fn : Nat) : Port := if fn = 0 then .f0 else .f1
    let malformed (fn : Nat) (f : Engine) : Prop :=
      f.host.lastErr = w32 (2 ^ 31 + fn * 2 ^ 28 + 5 * 2 ^ 24 + s.eng.time.tb.toNat % 2 ^ 24) ∧
      f.rd (estatKey 0x25) = s.eng.rd (estatKey 0x25) ||| 4#32 ∧ f.time = e.time ∧ f.sys = e.sys
    (∀ q : CfgReq, q.type1 = true ∨ 2 ≤ q.fn → q.tlpPrefix = false → Does (.configurationRequest q) s fun f =>
      Unsupported 0 e f ∧ Answers e f (.completion 0 .unsupported [] false false)) ∧
    (∀ q : CfgReq, q.type1 = false → q.fn < 2 →
      Queues (.configurationRequest q) s e (port q.fn) (.cfg q) ∧
      (e.portFirst (port q.fn) = true →
        (q.tlpPrefix = true → Does (.configurationRequest q) s (malformed q.fn)) ∧
        (q.tlpPrefix = false → q.data = none → Leaves (.configurationRequest q) s (e.send
          (.completion q.fn .success [e.cfgView q.fn (q.off % 4096 / 4 * 4)] false (e.idoCpl q.fn)))) ∧
        (∀ v, q.tlpPrefix = false → q.data = some v → cfgRow? q.fn (q.off % 4096 / 4 * 4) = none →
          Leaves (.configurationRequest q) s (e.send (.completion q.fn .success [] false (e.idoCpl q.fn)))) ∧
        (∀ (v : Word) (r : CfgRow), q.tlpPrefix = false → q.data = some v → q.off % 4 = 0 → q.off < 4096 →
          cfgRow? q.fn q.off = some r → q.off ≠ 0x58 → (∀ p ∈ s.eng.cyc.sets, p.1 ≠ cfgKey q.fn q.off) →
          let k := cfgKey q.fn q.off
          let old := s.eng.rd k
          ∃ x : Engine, Leaves (.configurationRequest q) s (x.send (.completion q.fn .success [] false (x.idoCpl q.fn))) ∧
            x.rd k = Engine.cfgSanitize q.off old (merge (r.mask &&& beMask q.be) old v) &&& ~~~(v &&& beMask q.be &&& r.w1c) ∧
            RegsKept [k] e x ∧ x = { e.marked x with host := { e.host with
              pmeAt := if q.off = 0x44 ∧ bit (x.rd k) 15 = false then upd e.host.pmeAt q.fn fun _ => none else e.host.pmeAt } }))) ∧
    (∀ (fn : Fin 2) (m : Msg), (∀ x, m ≠ .error x) → Queues (.messageReceived fn m) s e (port fn) (.msg fn m)) ∧
    (∀ fn : Fin 2, e.portFirst (port fn) = true →
      Leaves (.messageReceived fn .vendorType1) s e ∧ Leaves (.messageReceived fn .other) s e ∧
      Does (.messageReceived fn .vendorType0) s (Unsupported fn e) ∧ Does (.messageReceived fn .prefixed) s (malformed fn)) ∧
    (∀ fn : Fin 2, ∀ x ∈ [(RxErr.receiver, 0), (.badTlp, 6), (.badDllp, 7), (.replayRollover, 8), (.replayTimeout, 12)],
      Does (.messageReceived fn (.error x.1)) s fun f =>
        f.rd R.HOST_CORR_CNT = bump16 (s.eng.rd R.HOST_CORR_CNT) ∧
        f.rd (cfgKey 0 0x110) = s.eng.rd (cfgKey 0 0x110) ||| w32 (2 ^ x.2) ∧
        f.rd (cfgKey 0 0x58) = s.eng.rd (cfgKey 0 0x58) ||| 0x10000#32 ∧
        RegsKept [R.HOST_CORR_CNT, cfgKey 0 0x110, cfgKey 0 0x58] s.eng f ∧ f.time = s.eng.time ∧ f.sys = s.eng.sys)

/-- HOST_LINK_UP, HOST_LINK_DOWN and LINK_RECOVERY (R69, R269, R270, R288, R294). A recovery that the engine has not asked
for is counted; with speed changes enabled the link comes out of it at the wanted speed and, at 8.0 GT/s and above,
equalized (the places of those status bits are PRESUMED: log entry 11). -/
def Obligations.HostLinkComesAndGoes : Prop :=
  (∀ (s : State) (peer width : Nat),
    (s.eng.mayTrain = false → Idles (.hostLinkUp peer width) s) ∧
    (s.eng.mayTrain = true →
      let w := if s.eng.rb R.HOST_CTL 8 then 1 else max 1 (min width 2)
      Does (.hostLinkUp peer width) s fun e =>
        e.rd (istatKey 0x25) = s.eng.rd (istatKey 0x25) ||| 1#32 ∧ RegsKept [istatKey 0x25] s.eng e ∧
        e = { s.eng.marked e with
          host := { s.eng.host with
            up := true, speed := 1, width := w, pm := .l0, peer := max 1 (min peer 4), clkreq := true, speedReq := e.host.speedReq }
          arriving := s.eng.arriving ++ [s.eng.event 0xB 0x01 2 (w * 16 + 1)] })) ∧
  (∀ s : State, (s.eng.host.up = false → Idles .hostLinkDown s) ∧
    (s.eng.host.up = true → Does .hostLinkDown s fun e =>
      e.host.up = false ∧ e.host.pm = .down ∧ e.host.credits = 0 ∧ e.host.bw = .opened ∧
      e.host.held = (s.eng.host.held.filter fun h => h.port == .i2c) ∧ e.job = { decBlocks := s.eng.job.decBlocks } ∧
      (∀ k, k / 256 = 0x24 → e.rd k = resetOf k) ∧ (∀ fn, fn < 2 → e.rd (cfgKey fn 0x04) = resetOf (cfgKey fn 0x04)) ∧
      e.rd (istatKey 0x25) = s.eng.rd (istatKey 0x25) ||| 2#32 ∧
      (∀ p, p < 2 → ∀ k, (e.port p).sess.getD k none = none) ∧ e.port 2 = s.eng.port 2 ∧
      (∀ k, k < 0x1000000 → k / 256 ≠ 0x24 → k ≠ istatKey 0x25 → e.rd k = s.eng.rd k) ∧
      e.arriving = s.eng.arriving ++ [s.eng.event 0xB 0x02 1 0] ∧ e.time = s.eng.time ∧ e.sys = s.eng.sys ∧ e.tx = s.eng.tx)) ∧
  (∀ (s : State) (b : Bool), (s.eng.host.up = false → Idles (.linkRecovery b) s) ∧
    (s.eng.host.up = true → Does (.linkRecovery b) s fun e =>
      let asked := b && s.eng.host.speedReq
      let train := s.eng.rb R.HOST_CTL 4
      let speed := if train then s.eng.wantSpeed else s.eng.host.speed
      let after (n k m : Nat) : Prop := e.rd k = if train = true ∧ n ≤ speed then s.eng.rd k ||| w32 m else s.eng.rd k
      e.rd R.HOST_RETRAIN_CNT = (if asked then s.eng.rd R.HOST_RETRAIN_CNT else bump16 (s.eng.rd R.HOST_RETRAIN_CNT)) ∧
      after 3 (cfgKey 0 0x80) 0x1E0000 ∧ after 4 (cfgKey 0 0x184) 0xF ∧
      RegsKept [R.HOST_RETRAIN_CNT, cfgKey 0 0x80, cfgKey 0 0x184] s.eng e ∧
      e = { s.eng.marked e with host := { s.eng.linkWake.host with
        speed := speed, speedReq := s.eng.host.speedReq && !train } }))

/-- L0S_ENTRY, L1_ENTRY, CLKREQ_N_ASSERTED and PM_PME (R63, R289 to R292). The transmitter enters L0s, and the link L1 or a
substate, under the enables and after the idle times of R291 and with nothing pending; the substate's choice is that of the
PCI Express specification (PRESUMED, log entry 11). CLKREQ_N ends a substate; in DOZE that wakes the engine, on the way there
it ends the entry. PM_PME is sent while PME_Status stands, every 100 ms. -/
def Obligations.LinkPowerStates : Prop :=
  (∀ (s : State) (n : Nat),
    let may := s.eng.host.pm = .l0 ∧ bit (s.eng.cfg 0 0x60) 0 = true ∧ 8 * s.eng.rf R.HOST_ASPM 0 8 ≤ n
    (may → Leaves (.l0sEntry n) s { s.eng with host := { s.eng.host with pm := .l0s } }) ∧ (¬may → Idles (.l0sEntry n) s)) ∧
  (∀ (s : State) (n : Nat),
    let d3 := fld (s.eng.cfg 0 0x44) 0 2 = 3 ∧ fld (s.eng.cfg 1 0x44) 0 2 = 3
    let idle := s.eng.job.outQ = [] ∧ s.eng.job.reads = [] ∧ ∀ h ∈ s.eng.host.held, h.port = .i2c
    let may := (s.eng.host.pm = .l0 ∨ s.eng.host.pm = .l0s) ∧ idle ∧
      ((bit (s.eng.cfg 0 0x60) 1 = true ∧ s.eng.rf R.HOST_ASPM 8 8 ≤ n) ∨ d3)
    let c := s.eng.cfg 0 0x1C8
    let pm : LinkPm := if d3 then (if bit c 0 = true then .l12 else if bit c 1 = true then .l11 else .l1)
      else if bit c 2 = true ∧ s.eng.ltrAllowsL12 = true then .l12 else if bit c 3 = true then .l11 else .l1
    (may → Leaves (.l1Entry n) s { s.eng with host := { s.eng.host with pm := pm, clkreq := s.eng.host.clkreq && pm == .l1 } }) ∧
    (¬may → Idles (.l1Entry n) s)) ∧
  (∀ s : State,
    let sub := s.eng.host.pm = .l11 ∨ s.eng.host.pm = .l12
    let e := { s.eng with host := { s.eng.host with clkreq := true, pm := if sub then .l0 else s.eng.host.pm } }
    (Does .clkreqNAsserted s fun f => RegsKept [R.SYS_WAKE_SRC] s.eng f ∧
      f = { s.eng.marked f with host := e.host, sys := f.sys, clk := f.clk, pwr := f.pwr }) ∧
    (¬sub ∨ (s.eng.sys.mode ≠ .doze ∧ s.eng.sys.trans = none) ∨ s.eng.rb R.SYS_WAKE_EN 6 = false → Leaves .clkreqNAsserted s e) ∧
    (sub → s.eng.sys.mode = .doze → s.eng.rb R.SYS_WAKE_EN 6 = true → s.eng.sys.wake = none →
      Does .clkreqNAsserted s (Woken e 6)) ∧
    (∀ t, sub → s.eng.sys.mode.isSleep = false → s.eng.sys.trans = some t → t.tgt = .doze → t.woken = false →
      s.eng.rb R.SYS_WAKE_EN 6 = true → Does .clkreqNAsserted s fun f =>
        f.rd R.SYS_WAKE_SRC = 64#32 ∧ f.sys = { s.eng.sys with trans := some { t with woken := true } })) ∧
  (∀ (s : State) (fn : Fin 2) (t : Option Nat), s.eng.host.pmeAt[fn.val]? = some t →
    let due := bit (s.eng.cfg fn 0x44) 15 = true ∧ s.eng.host.up = true ∧ s.eng.sys.mode.isSleep = false ∧
      ∀ a, t = some a → a + 62500000 ≤ s.eng.time.now
    let said := s.eng.host.pmeAt.set fn (some s.eng.time.now)
    (due → s.eng.job.outQ = [] ∨ s.eng.canIssue = false → Leaves (.pmPme fn) s { s.eng with
      tx := s.eng.tx ++ [.pmPme fn], host := { s.eng.linkWake.host with pmeAt := said } }) ∧
    (due → s.eng.job.outQ ≠ [] → s.eng.canIssue = true → Leaves (.pmPme fn) s { s.eng with
      job := { s.eng.job with outQ := s.eng.job.outQ ++ [{ ring := 64, addr := 0, bytes := [], upTo := 0, tlp := some (.pmPme fn) }] }
      host := { s.eng.linkWake.host with pmeAt := said } }) ∧
    (¬due → Idles (.pmPme fn) s)) ∧
  (∀ e : Engine, e.linkWake = { e with host := { e.host with
    pm := if e.host.pm = .l0s ∨ e.host.pm = .l1 ∨ e.host.pm = .l11 ∨ e.host.pm = .l12 then .l0 else e.host.pm
    clkreq := e.host.clkreq || decide (e.host.pm = .l11 ∨ e.host.pm = .l12) } })

/-- PCI_EXPRESS_RESET, FLR and PERST_N_RELEASE (R69, R294): a port reset ends jobs, breakwater and host sessions and puts
configuration space back, AER's sticky registers apart; an FLR does so for one function and tells it. What the
function has asked for is dropped; the count of decoded blocks, of another page, stays. -/
def Obligations.PortResets : Prop :=
  (∀ s : State, Leaves .perstNRelease s { s.eng with pwr := { s.eng.pwr with perst := false } }) ∧
  (∀ (s : State) (c : PciReset), s.eng.host.up = true →
    exec (.pciExpressReset c) s = exec .hostLinkDown
      { s with eng := { s.eng with pwr := { s.eng.pwr with perst := s.eng.pwr.perst || decide (c = .perst) } } }) ∧
  (∀ (s : State) (c : PciReset), s.eng.host.up = false → Does (.pciExpressReset c) s fun e =>
    e.pwr = { s.eng.pwr with perst := s.eng.pwr.perst || decide (c = .perst) } ∧
    e.job = { decBlocks := s.eng.job.decBlocks } ∧
    e.host = { s.eng.host with
      bw := .opened, pmeAt := upd (upd s.eng.host.pmeAt 0 fun _ => none) 1 fun _ => none
      held := s.eng.host.held.filter fun h => h.port == .i2c } ∧
    (∀ fn, fn < 2 → e.rd (cfgKey fn 0x04) = resetOf (cfgKey fn 0x04) ∧ e.rd (cfgKey fn 0x104) = s.eng.rd (cfgKey fn 0x104)) ∧
    (∀ k, k < 0x1000000 → k / 256 ≠ 0x24 → e.rd k = s.eng.rd k) ∧ e.time = s.eng.time ∧ e.sys = s.eng.sys ∧
    e.tx = s.eng.tx ∧ e.arriving = s.eng.arriving) ∧
  (∀ (s : State) (fn : Fin 2), (s.eng.host.up = false → Idles (.flr fn) s) ∧
    (s.eng.host.up = true → Does (.flr fn) s fun e =>
      e.rd (cfgKey fn 0x04) = resetOf (cfgKey fn 0x04) ∧ e.rd (cfgKey fn 0x104) = s.eng.rd (cfgKey fn 0x104) ∧
      (∀ off, off < 0x1000 → e.rd (cfgKey (1 - fn.val) off) = s.eng.rd (cfgKey (1 - fn.val) off)) ∧
      e.rd (istatKey 0x25) = s.eng.rd (istatKey 0x25) ||| 16#32 ∧
      e.job = (if fn = 0 then { decBlocks := s.eng.job.decBlocks } else s.eng.job) ∧
      e.tx = s.eng.tx ++ (if fn = 0 then s.eng.job.outQ.filterMap (·.tlp) else []) ∧
      (∀ k, (e.port fn).sess.getD k none = none) ∧ e.port 2 = s.eng.port 2 ∧
      e.arriving = s.eng.arriving ++ [s.eng.event 0xB 0x05 1 fn] ∧ e.time = s.eng.time ∧ e.sys = s.eng.sys ∧
      e.host = { s.eng.host with
        pmeAt := upd s.eng.host.pmeAt fn fun _ => none
        held := s.eng.host.held.filter fun h => h.port != (if fn = 0 then .f0 else .f1)
        pm := e.host.pm, clkreq := e.host.clkreq } ∧
      (fn = 1 ∨ s.eng.host.pm = .l0 → e.host.pm = s.eng.host.pm ∧ e.host.clkreq = s.eng.host.clkreq)))


/-! ### Registers and the ports -/

/-- REGISTER_WRITE (R6, R9 to R11, R16, R17, R18, R35, R246, R275, R324, R339, R340): an access waits for what its port has
waiting; by the access code of the register the enabled bytes of its fields are stored, wait for the next boundary, clear bits,
or do nothing; a guarded register whose port had no session as the cycle began keeps its value and the attempt is recorded;
where the shadow store is full the write is dropped and told. A write to Cliff goes out in a frame of Hinge-C and waits for it,
or waits for the link; over a link that is lost it writes nothing. A page that the port has not is an error. -/
def Obligations.RegisterWritesFollowTheirCode : Prop :=
  (∀ (s : State) (p : Port) (page slot : Nat) (be : BitVec 4) (v : Word),
    let c : Instr := .registerWrite p page slot be v
    let a : RegAccess := { port := p, page := page, slot := slot, be := be, data := some v }
    let e := s.eng.arrivesAt p
    let f := s.eng.serving p
    let h : Held := { port := p, auth := e.auth (portCode p), work := .regs [a] [] none }
    let l := s.eng.hinge.c
    (be ≠ 0#4 → WaitsItsTurn c s p (.regs [a] [] none)) ∧
    (be = 0#4 → e.portFirst p = true → Leaves c s e) ∧
    (be ≠ 0#4 → s.ready p = true →
      (portHas (portCode p) page = false → Does c s (PageMissing p e)) ∧
      (portHas (portCode p) page = true →
        (isCliff page = false → row? page slot = none ∨ (∃ r, row? page slot = some r ∧ (r.acc = .ro ∨ r.acc = .rc ∨ r.acc = .rl)) →
          Leaves c s f) ∧
        (isCliff page = true → Engine.linkLost l = true → Leaves c s f) ∧
        (isCliff page = true → Engine.linkLost l = false → s.eng.linkFree false = false → Leaves c s (e.hold h)) ∧
        (isCliff page = true → Engine.linkLost l = false → s.eng.linkFree false = true →
          Leaves c s (Engine.hold { f with hinge := { f.hinge with c := { l with
            last := s.eng.time.now
            head := { l.head with
              queue := [], next := (l.head.next + 1) % 256
              out := l.head.out ++ [{ seq := l.head.next % 256, sent := s.eng.time.now, op := some (.access a h.auth) }] } } } }
            { h with sent := some l.head.next }))))) ∧
  (∀ (s : State) (p : Port) (page slot : Nat) (be : BitVec 4) (v : Word) (r : Row), s.ready p = true → isCliff page = false →
    row? page slot = some r → be ≠ 0#4 → portHas (portCode p) page = true →
    let c : Instr := .registerWrite p page slot be v
    let f := s.eng.serving p
    let k := f.keyAt page slot
    let old := f.rd k
    let m := r.mask &&& beMask be
    (r.acc = .rw → Engine.ringBase k = true → f.jobsBusy = true → Does c s fun e =>
      e.rd (estatKey 0x24) = s.eng.rd (estatKey 0x24) ||| 4#32 ∧ RegsKept [estatKey 0x24] f e ∧ e = f.marked e) ∧
    (r.acc = .rw → Engine.ringBase k = false ∨ f.jobsBusy = false → f.frozenReg k = false → k ≠ R.HOST_BW_CTL → k ≠ R.DIAG_CTL →
      Does c s fun e =>
        (badFields k (old &&& ~~~m &&& r.mask ||| v &&& m) = [] → e.rd k = old &&& ~~~m ||| v &&& m) ∧
        RegsKept [k] f e ∧ e = f.marked e) ∧
    (r.acc = .w1c → (∀ x ∈ s.eng.cyc.sets, x.1 ≠ k) → Does c s fun e =>
      e.rd k = old &&& ~~~(v &&& m) ∧ RegsKept [k] f e ∧ e = f.marked e) ∧
    (r.acc = .rws → s.eng.tide.store.length < 256 → Does c s fun e =>
      (∃ w, w &&& m = v &&& m ∧ w &&& ~~~r.mask = 0#32 ∧ (be ≠ 15#4 → w &&& ~~~m = (f.pendingVal k).getD old &&& r.mask &&& ~~~m) ∧
        e = { f.marked e with tide := { s.eng.tide with
          store := s.eng.tide.store ++ [{ key := k, val := w, at' := s.eng.time.now }] } }) ∧
      RegsKept [R.TIDE_COMMITS] f e ∧
      fld (e.rd R.TIDE_COMMITS) 0 9 = max (fld (s.eng.rd R.TIDE_COMMITS) 0 9) (s.eng.tide.store.length + 1)) ∧
    (r.acc = .rws → 256 ≤ s.eng.tide.store.length → Does c s fun e =>
      e.rd R.TIDE_DROP_CNT = bump16 (s.eng.rd R.TIDE_DROP_CNT) ∧ e.rd R.TIDE_STAT = s.eng.rd R.TIDE_STAT ||| 0x20000000#32 ∧
      e.rd (estatKey 0x03) = s.eng.rd (estatKey 0x03) ||| 1#32 ∧ e.rd (istatKey 0x03) = s.eng.rd (istatKey 0x03) ||| 8#32 ∧
      RegsKept [R.TIDE_DROP_CNT, R.TIDE_STAT, estatKey 0x03, istatKey 0x03] f e ∧
      e = { f.marked e with arriving := f.arriving ++ [s.eng.event 0x1 0x07 1 (k % 65536 / 256)] }) ∧
    (∀ sl sh, r.acc = .rwk sl sh → 1 ≤ sl → sl ≤ 3 → s.eng.sessAt (portCode p) sl = false → m ≠ 0#32 →
      Does c s fun e =>
        e.rd R.SEC_REJ_CNT = bump16 (s.eng.rd R.SEC_REJ_CNT) ∧ e.rd (istatKey 0x04) = s.eng.rd (istatKey 0x04) ||| 16#32 ∧
        e.rd R.SEC_LOG = w32 (portCode p * 2 ^ 30 + sl * 2 ^ 28 + page * 2 ^ 20 + slot / 4 * 2 ^ 14 +
          s.eng.time.tb.toNat / 2 ^ s.eng.tideN % 16384) ∧
        RegsKept [R.SEC_REJ_CNT, istatKey 0x04, R.SEC_LOG] f e ∧
        e = { f.marked e with
          sec := { f.sec with said := true }
          arriving := f.arriving ++ if !s.eng.sec.said && s.eng.rb R.SEC_CTL 3 then
            [s.eng.event 0xE 0x05 2 (portCode p * 1024 + sl * 256 + page)] else [] }) ∧
    (∀ sl, r.acc = .rwk sl true → 1 ≤ sl → sl ≤ 3 → s.eng.sessAt (portCode p) sl = true → s.eng.tide.store.length < 256 →
      Does c s fun e =>
        (∃ w, w &&& m = v &&& m ∧ e = { f.marked e with
          tide := { s.eng.tide with store := s.eng.tide.store ++ [{ key := k, val := w, at' := s.eng.time.now }] }
          sec := (f.touchSess (portCode p) sl).sec }) ∧ RegsKept [R.TIDE_COMMITS] f e))

/-- RC_READ, RL_LO_READ and CLIFF_ACCESS_COMPLETE (R6, R8, R11, R12, R16 to R18, R330): a read that clears returns the count
and leaves zero, or what hardware has counted in this cycle; a LO read latches its HI half for the port; a slot without a
register reads 0; a page that the port has not is an error; a read waits for what its port has waiting. An access held for Cliff
completes over a trained link with the effect and the value of the register at that time, waits while the link retrains, and
over a lost link reads 0 and writes nothing. -/
def Obligations.ReadsClearAndLatch : Prop :=
  (∀ (s : State) (p : Port) (page slot : Nat) (c : Instr) (code : Acc),
    (c = .rcRead p page slot ∧ code = .rc) ∨ (c = .rlLoRead p page slot ∧ code = .rl) →
    let a : RegAccess := { port := p, page := page, slot := slot, be := 15#4, data := none }
    let e := s.eng.arrivesAt p
    (∀ r, row? page slot = some r → r.acc ≠ code → Idles c s) ∧
    ((∀ r, row? page slot = some r → r.acc = code) →
      WaitsItsTurn c s p (.regs [a] [] none) ∧
      (s.ready p = true → portHas (portCode p) page = false → Does c s fun f => PageMissing p e f ∧
        (p ≠ .i2c → Answers e f (.completion (portCode p) .unsupported [] false (e.idoCpl (portCode p))))) ∧
      (s.ready p = true → portHas (portCode p) page = true → row? page slot = none → isCliff page = false →
        page * 256 + slot ≠ R.EVQ_POP_HI → page * 256 + slot ≠ R.EVQ_POP_TAG →
        Leaves c s { s.eng.serving p with tx := e.tx ++ [.portRead p (page * 256 + slot) 0#32] }))) ∧
  (∀ (s : State) (p : Port) (page slot : Nat) (r : Row), s.ready p = true → isCliff page = false → row? page slot = some r →
    portHas (portCode p) page = true → page * 256 + slot ≠ R.EVQ_POP_LO →
    let f := s.eng.serving p
    let k := f.keyAt page slot
    (r.acc = .rc → s.eng.cyc.rc.find? (fun x => x.1 == k) = none → Does (.rcRead p page slot) s fun e =>
      e.rd k = 0#32 ∧ RegsKept [k] f e ∧
      e = { f.marked e with tx := f.tx ++ [.portRead p (page * 256 + slot) (f.rd k)] }) ∧
    (∀ x, r.acc = .rc → s.eng.cyc.rc.find? (fun x => x.1 == k) = some x → Does (.rcRead p page slot) s fun e =>
      e.rd k = x.2.2 ∧ RegsKept [k] f e ∧ e.tx = f.tx ++ [.portRead p (page * 256 + slot) x.2.1] ∧
      e.cyc.rc.find? (fun x => x.1 == k) = some (k, 0#32, x.2.2)) ∧
    (∀ hk hv v, r.acc = .rl → s.viewEvq (portCode p) (page * 256 + slot) = none → f.hiHalf (page * 256 + slot) = some (hk, hv) →
      f.view (portCode p) page slot = some v → (portCode p) < s.eng.latch.length → Does (.rlLoRead p page slot) s fun e =>
        e = { f with latch := e.latch, tx := f.tx ++ [.portRead p (page * 256 + slot) v] } ∧
        e.hiLatch (portCode p) hk = hv ∧ (∀ j, j ≠ hk → e.hiLatch (portCode p) j = s.eng.hiLatch (portCode p) j) ∧
        ∀ q j, q ≠ portCode p → e.hiLatch q j = s.eng.hiLatch q j) ∧
    (r.acc = .rl → s.viewEvq (portCode p) (page * 256 + slot) = none → f.hiHalf (page * 256 + slot) = none →
      Leaves (.rlLoRead p page slot) s { f with
        tx := f.tx ++ [.portRead p (page * 256 + slot) (f.hiLatch (portCode p) (page * 256 + slot))] })) ∧
  (∀ s : State, s.eng.host.held = [] → s.eng.hinge.c.head.out = [] → s.eng.hinge.c.far.out = [] → Idles .cliffAccessComplete s) ∧
  (∀ (s : State) (h : Held) (a : RegAccess), s.eng.host.held = [h] → h.work = .regs [a] [] none → h.port = a.port →
    h.after < s.eng.time.now → h.reply = none → isCliff a.page = true → portHas (portCode a.port) a.page = true → a.be ≠ 0#4 →
    let l := s.eng.hinge.c
    (l.st = .retrain → Engine.linkLost l = false → Idles .cliffAccessComplete s) ∧
    (l.st = .fault → s.eng.portOpen a.port = true →
      Leaves .cliffAccessComplete s { s.eng.served a.port with
        host := { s.eng.host with held := [] }
        tx := s.eng.tx ++ if a.data.isSome then [] else [.portRead a.port (a.page * 256 + a.slot) 0#32] }) ∧
    (l.st = .trained → Engine.linkLost l = false → s.eng.portOpen a.port = true → s.eng.hinge.active = false → h.sent = none →
      l.head.out = [] → l.head.queue = [] → l.far.out = [] → l.far.queue = [] → l.head.next < 256 → l.far.next < 256 →
      l.far.exp = l.head.next → l.head.exp = l.far.next →
      ∃ u, exec .cliffAccessComplete s = .next u ∧ u.shoal = s.shoal ∧ u.evq = s.evq ∧ u.eng.host.held = [] ∧
        u.eng.time = s.eng.time ∧ u.eng.sys = s.eng.sys ∧
        (∀ v, a.data = some v →
          let x := (s.writeAs h.auth (portCode a.port) a.page a.slot a.be v).eng
          u.eng.regs = x.regs ∧ u.eng.tide = x.tide ∧ u.eng.sec = x.sec) ∧
        (a.data = none → .portRead a.port (a.page * 256 + a.slot) (s.readReg (portCode a.port) a.page a.slot).2 ∈ u.eng.tx)))

/-- I2C_WRITE_TRANSACTION, I2C_READ_TRANSACTION, AON_ADDRESS_MATCH, I2C_BUS_TIMEOUT (R302 to R310, R315, R320): another
address finds no ACK; four data bytes, with a right PEC where that is on, write the register at the pointer, which moves on; a
wrong PEC writes nothing and is told; a read returns the register at the pointer; a transaction waits for what the ports have
waiting; an address match in DOZE wakes the engine and finds no ACK; a timeout is counted, told, and ends what the port serves, or
fails the attempt at a notice. -/
def Obligations.TwoWireTransactions : Prop :=
  (∀ (s : State) (bs : List Byte) (a : Byte) (n : Nat),
    Queues (.i2cWriteTransaction bs) s s.eng .i2c (.bus (.write bs) false) ∧
    Queues (.i2cReadTransaction bs a n) s s.eng .i2c (.bus (.read bs a n) false)) ∧
  (∀ (s : State) (a : Byte) (t : List Byte), s.eng.host.held = [] → s.eng.i2c.addr < 128 → a.toNat / 2 ≠ s.eng.i2c.addr →
    Leaves (.i2cWriteTransaction (a :: t)) s { s.eng with
      i2c := { s.eng.i2c with busy := false }, tx := s.eng.tx ++ [.i2cAcks ((a :: t).map fun _ => false)] } ∧
    ∀ n, Leaves (.i2cReadTransaction [] a n) s { s.eng with
      i2c := { s.eng.i2c with busy := false }, tx := s.eng.tx ++ [.i2cAcks [false]] }) ∧
  (∀ (s : State) (a p o b0 b1 b2 b3 : Byte), s.eng.host.held = [] → a = s.eng.addrByte false → s.eng.access = true →
    s.eng.sys.mode.isSleep = false → s.eng.sys.trans = none → (pageInfo? p.toNat).isSome = true → o.toNat % 4 = 0 →
    let bytes := [a, p, o, b0, b1, b2, b3]
    let ptr := p.toNat * 256 + o.toNat
    let w := w32 (natOfBytes [b0, b1, b2, b3])
    (∀ (bs : List Byte) (n : Nat), s.eng.portOpen .i2c = true → isCliff p.toNat = false →
      (s.eng.rb R.I2CT_CTL 0 = false ∧ bs = bytes ∧ n = 7) ∨ (s.eng.rb R.I2CT_CTL 0 = true ∧ bs = bytes ++ [crc8 bytes] ∧ n = 8) →
      let r := State.writeReg
        { s with eng := Engine.served { s.eng with i2c := { s.eng.i2c with busy := true, ptr := ptr } } .i2c } 2 p.toNat o.toNat 15#4 w
      exec (.i2cWriteTransaction bs) s = .next { r with eng := { r.eng with
        i2c := { r.eng.i2c with
          busy := false
          ptr := if r.eng.access = true then r.eng.i2c.ptr / 256 * 256 + (r.eng.i2c.ptr % 256 + 4) % 256 else r.eng.i2c.ptr }
        tx := r.eng.tx ++ [Tx.i2cAcks (List.replicate n true)] }.settle }) ∧
    (∀ c, s.eng.rb R.I2CT_CTL 0 = true → c ≠ crc8 bytes →
      Does (.i2cWriteTransaction (bytes ++ [c])) s fun e =>
        e.rd R.I2CT_PEC_CNT = bump16 (s.eng.rd R.I2CT_PEC_CNT) ∧ e.rd (estatKey 0x07) = s.eng.rd (estatKey 0x07) ||| 1#32 ∧
        e.rd (istatKey 0x07) = s.eng.rd (istatKey 0x07) ||| 16#32 ∧
        RegsKept [R.I2CT_PEC_CNT, estatKey 0x07, istatKey 0x07] s.eng e ∧
        e = { s.eng.marked e with
          i2c := { s.eng.i2c with busy := false, ptr := ptr }
          tx := s.eng.tx ++ [.i2cAcks (List.replicate 7 true ++ [false])]
          arriving := s.eng.arriving ++ [s.eng.event 0xC 0x02 2 p.toNat] })) ∧
  (∀ (s : State) (a : Byte), s.eng.host.held = [] → a = s.eng.addrByte true → s.eng.portOpen .i2c = true →
    s.eng.sys.mode.isSleep = false → s.eng.sys.trans = none →
    let ptr := s.eng.i2c.ptr
    portHas 2 (ptr / 256) = true → isCliff (ptr / 256) = false → s.eng.rb R.I2CT_CTL 0 = false →
    s.eng.popWaits (s.eng.atPtr none) = false →
    let r := State.readReg { s with eng := Engine.served { s.eng with i2c := { s.eng.i2c with busy := true } } .i2c } 2 (ptr / 256) (ptr % 256)
    exec (.i2cReadTransaction [] a 4) s = .next { r.1 with eng := { r.1.eng with
      i2c := { r.1.eng.i2c with busy := false, ptr := r.1.eng.i2c.ptr / 256 * 256 + (r.1.eng.i2c.ptr % 256 + 4) % 256 }
      tx := r.1.eng.tx ++ [Tx.i2cAcks [true]] ++ [Tx.i2cSent (bytesOfWord r.2)] }.settle }) ∧
  (∀ (s : State) (a : Byte),
    (s.eng.access = true → s.eng.sys.mode.isSleep = false → s.eng.sys.trans = none → Idles (.aonAddressMatch a) s) ∧
    (s.eng.access = false → a.toNat / 2 ≠ s.eng.i2c.addr →
      Leaves (.aonAddressMatch a) s { s.eng with tx := s.eng.tx ++ [.i2cAcks [false]] }) ∧
    (s.eng.sys.mode = .doze → s.eng.sys.wake = none → s.eng.pwr.vddIo = true → s.eng.rb R.SYS_WAKE_EN 0 = true →
      a.toNat / 2 = s.eng.i2c.addr → Does (.aonAddressMatch a) s fun e =>
        e.tx = s.eng.tx ++ [.i2cAcks [false]] ∧ Woken s.eng 0 { e with tx := s.eng.tx })) ∧
  (∀ (s : State) (c : Bool) (ms : Nat),
    (s.eng.access = false ∨ s.eng.rb R.I2CT_CTL 12 = false ∨ ms < 25 ∨ (c = true ∧ s.eng.noticeStart s.eng.i2c.waiting = false) →
      Idles (.i2cBusTimeout c ms) s) ∧
    (s.eng.access = true → s.eng.rb R.I2CT_CTL 12 = true → 25 ≤ ms →
      (s.eng.noticeStart s.eng.i2c.waiting = true →
        exec (.i2cBusTimeout true ms) s = exec (if s.eng.i2c.waiting then .noticeRetry .timeout else .notice .timeout) s) ∧
      Does (.i2cBusTimeout false ms) s fun e =>
        e.rd R.I2CT_TMO_CNT = bump16 (s.eng.rd R.I2CT_TMO_CNT) ∧ e.rd (estatKey 0x07) = s.eng.rd (estatKey 0x07) ||| 2#32 ∧
        bit (e.rd (istatKey 0x07)) 3 = true ∧ RegsKept [R.I2CT_TMO_CNT, estatKey 0x07, istatKey 0x07] s.eng e ∧
        e = { s.eng.marked e with
          tx := e.tx, i2c := e.i2c, host := { s.eng.host with held := s.eng.host.held.filter fun h => h.port != .i2c }
          arriving := s.eng.arriving ++ [s.eng.event 0xC 0x01 1 0] } ∧
        ((∀ h ∈ s.eng.host.held, ∀ t, h.work ≠ .i2c t) →
          e.rd (istatKey 0x07) = s.eng.rd (istatKey 0x07) ||| 8#32 ∧ e.tx = s.eng.tx ∧ e.i2c = s.eng.i2c)))

/-- NOTICE and NOTICE_RETRY (R315, R317 to R319): a notice carries the causes and is told; a failure is tried again 1 ms later
until the limit, then told; a bus timeout is a failure that is counted itself; lost arbitration is counted, the notice stays
due, and the engine serves the winner's transaction where that names it; without a cause it is withdrawn. -/
def Obligations.NoticesAreSentOrRetried : Prop :=
  (∀ (s : State) (r : NoticeResult),
    (s.eng.mayNotice = false ∨ s.eng.i2c.waiting = true → Idles (.notice r) s) ∧
    (s.eng.mayNotice = false ∨ s.eng.i2c.waiting = false ∨ s.eng.time.now < s.eng.i2c.failAt + 625000 → Idles (.noticeRetry r) s)) ∧
  ∀ (s : State) (r : NoticeResult) (c : Instr), s.eng.mayNotice = true →
    (c = .notice r ∧ s.eng.i2c.waiting = false) ∨
      (c = .noticeRetry r ∧ s.eng.i2c.waiting = true ∧ s.eng.i2c.failAt + 625000 ≤ s.eng.time.now) →
    let ended := { s.eng.i2c with due := false, attempts := 0, waiting := false }
    let again := { s.eng.i2c with attempts := s.eng.i2c.attempts + 1, waiting := true, failAt := s.eng.time.now }
    let last := s.eng.rf R.I2CT_NOTICE 8 4 < s.eng.i2c.attempts + 1
    let lost := [s.eng.event 0xC 0x03 1 (s.eng.i2c.attempts + 1)]
    (s.eng.i2cCond = false → Leaves c s { s.eng with i2c := ended }) ∧
    (s.eng.i2cCond = true →
      (r = .sent → Does c s fun e =>
        e.rd (istatKey 0x07) = s.eng.rd (istatKey 0x07) ||| 1#32 ∧ RegsKept [istatKey 0x07] s.eng e ∧
        e = { s.eng.marked e with i2c := ended, tx := s.eng.tx ++ [.noticeSent s.eng.noticeBytes] }) ∧
      (r = .nacked →
        (¬last → Leaves c s { s.eng with i2c := again }) ∧
        (last → Does c s fun e =>
          e.rd (estatKey 0x07) = s.eng.rd (estatKey 0x07) ||| 16#32 ∧ e.rd (istatKey 0x07) = s.eng.rd (istatKey 0x07) ||| 2#32 ∧
          RegsKept [estatKey 0x07, istatKey 0x07] s.eng e ∧
          e = { s.eng.marked e with i2c := ended, arriving := s.eng.arriving ++ lost })) ∧
      (r = .timeout → s.eng.rb R.I2CT_CTL 12 = false → Idles c s) ∧
      (r = .timeout → s.eng.rb R.I2CT_CTL 12 = true → Does c s fun e =>
        e.rd R.I2CT_TMO_CNT = bump16 (s.eng.rd R.I2CT_TMO_CNT) ∧
        e.rd (estatKey 0x07) = s.eng.rd (estatKey 0x07) ||| (if last then 18#32 else 2#32) ∧
        e.rd (istatKey 0x07) = s.eng.rd (istatKey 0x07) ||| (if last then 10#32 else 8#32) ∧
        RegsKept [R.I2CT_TMO_CNT, estatKey 0x07, istatKey 0x07] s.eng e ∧
        e = { s.eng.marked e with
          i2c := if last then ended else again
          arriving := s.eng.arriving ++ [s.eng.event 0xC 0x01 1 1] ++ if last then lost else [] }) ∧
      (∀ x, r = .lostArbitration x →
        let won := (firstByte x).toNat
        let ours := 2 * s.eng.rf R.I2CT_NOTICE 0 7
        (ours < won → Idles c s) ∧
        (won ≤ ours → ∃ e : Engine,
          (if won < ours ∧ won / 2 = s.eng.i2c.addr then exec c s = .next (({ s with eng := e } : State).submit .i2c (.bus x true)).settled
            else Leaves c s e) ∧
          e.rd R.I2CT_ARB_CNT = bump16 (s.eng.rd R.I2CT_ARB_CNT) ∧ RegsKept [R.I2CT_ARB_CNT] s.eng e ∧
          e = { s.eng.marked e with i2c := { s.eng.i2c with waiting := false } })))

/-! ### Hinge -/

/-- HINGE_DATA_FRAME, HINGE_ACK, HINGE_NAK, REPLAY_TIMEOUT and SHOAL_SELF_REFRESH, without an injection (R325 to R327, R329), at
either end of a link: an intact frame in sequence moves the receiver's number on and is executed, an earlier one is a duplicate, a
later one is refused; an acknowledgement, in a frame of its own or in another, frees the frames that it names, and those that
waited for room are sent, never more than 32 unacknowledged; a refusal or the timer replays from the oldest frame, every one
counted, and a fourth replay is a retrain. A frame that is not intact, or not of the type, changes nothing. -/
def Obligations.HingeFramesAreProtected : Prop :=
  (∀ (n : LinkEnd) (now : Nat),
    (n.out.length ≤ 32 → (n.flush now).out.length ≤ 32) ∧
    (n.flush now).out.map (·.op) ++ (n.flush now).queue = n.out.map (·.op) ++ n.queue) ∧
  (∀ (s : State) (l : Link), s.eng.hinge.active = false →
    let L := s.eng.hlink (isS l)
    let passes (x : HingeLink) : Prop := x.st = .trained ∨ x.st = .replay
    let side (x : HingeLink) (h : Bool) : LinkEnd := if h then x.head else x.far
    let withEnd (x : HingeLink) (h : Bool) (n : LinkEnd) : HingeLink := if h then { x with head := n } else { x with far := n }
    let set (x : HingeLink) : Engine := s.eng.setLink (isS l) fun _ => x
    let acked (f : LinkFrame) : HingeLink :=
      let n := side L f.atHeadland
      let kept := n.out.filter fun o => decide (128 ≤ (frameAck f + 256 - o.seq) % 256)
      let x := withEnd L f.atHeadland { n with out := kept }
      let freed := L.st = .replay ∧ ∀ o ∈ x.head.out ++ x.far.out, o.plays = 0
      let y := { x with st := if freed then .trained else L.st }
      withEnd y f.atHeadland
        (if y.st = .trained ∨ y.st = .replay then (side y f.atHeadland).flush s.eng.time.now else side y f.atHeadland)
    let intact (f : LinkFrame) (type : Nat) : Prop := frameIntact f = true ∧ frameType f = type
    (∀ f, ¬(intact f 1 ∧ passes L) → Idles (.hingeDataFrame l f) s) ∧
    (∀ f, intact f 1 → passes L →
      let exp := (side L f.atHeadland).exp
      let x := acked f
      let next := { side x f.atHeadland with exp := (exp + 1) % 256 }
      let e := { set (withEnd x f.atHeadland next) with tx := s.eng.tx ++ [.hingeAck l f.atHeadland exp] }
      let op := (side x !f.atHeadland).opOf (frameSeq f)
      (frameSeq f = exp → l = .s ∨ op = none → Leaves (.hingeDataFrame l f) s e) ∧
      (∀ o, frameSeq f = exp → l = .c → op = some o →
        exec (.hingeDataFrame l f) s = .next (({ s with eng := e } : State).linkExec exp o).settled) ∧
      (frameSeq f ≠ exp → (frameSeq f + 256 - exp) % 256 < 128 → Leaves (.hingeDataFrame l f) s { set x with
        tx := s.eng.tx ++ [.hingeNak l f.atHeadland ((exp + 255) % 256)] }) ∧
      (frameSeq f ≠ exp → 128 ≤ (frameSeq f + 256 - exp) % 256 → Does (.hingeDataFrame l f) s fun e =>
        let cnt := if isS l then R.HINGE_S_DUP_CNT else R.HINGE_C_DUP_CNT
        let last := if isS l then R.HINGE_S_LAST else R.HINGE_C_LAST
        e.rd cnt = bump16 (s.eng.rd cnt) ∧
        e.rd last = w32 (3 * 2 ^ 28 + frameSeq f % 256 * 2 ^ 20 + s.eng.time.tb.toNat % 2 ^ 20) ∧
        RegsKept [cnt, last] s.eng e ∧
        e = { (set x).marked e with tx := s.eng.tx ++ [.hingeAck l f.atHeadland ((exp + 255) % 256)] })) ∧
    (∀ f,
      let taken := (intact f 2 ∧ passes L) ∨ (intact f 4 ∧ L.st ≠ .fault);
      (taken → Leaves (.hingeAck l f) s (set (acked f))) ∧ (¬taken → Idles (.hingeAck l f) s)) ∧
    (∀ f, (¬(intact f 3 ∧ passes L) → Idles (.hingeNak l f) s) ∧
      (intact f 3 → passes L → (side (acked f) f.atHeadland).out = [] → Leaves (.hingeNak l f) s (set (acked f)))) ∧
    (∀ (c : Instr) (x : HingeLink) (h : Bool) (kind : Nat) (o : OutFrame) (t : List OutFrame), passes L →
      (c = .replayTimeout { link := l, atHeadland := h } ∧ x = L ∧ kind = 1 ∧ o.sent + 625 ≤ s.eng.time.now) ∨
        (∃ f, c = .hingeNak l f ∧ intact f 3 ∧ h = f.atHeadland ∧ x = acked f ∧ kind = 2) →
      (side x h).out = o :: t →
      let again := (o :: t).map fun f => { f with sent := s.eng.time.now, plays := f.plays + 1 }
      (o.plays < 3 → Does c s fun e =>
        let cnt := if isS l then R.HINGE_S_REPLAY_CNT else R.HINGE_C_REPLAY_CNT
        let last := if isS l then R.HINGE_S_LAST else R.HINGE_C_LAST
        e.rd cnt = Nat.repeat bump16 (o :: t).length (s.eng.rd cnt) ∧
        e.rd last = w32 (kind * 2 ^ 28 + o.seq % 256 * 2 ^ 20 + s.eng.time.tb.toNat % 2 ^ 20) ∧ RegsKept [cnt, last] s.eng e ∧
        e = { s.eng.marked e with hinge := (set { withEnd x h { side x h with out := again } with
          st := .replay, last := if h then s.eng.time.now else x.last }).hinge }) ∧
      (3 ≤ o.plays → Leaves c s ((set x).retrain (isS l)))) ∧
    (∀ h, (∃ o t, (side L h).out = o :: t ∧ s.eng.time.now < o.sent + 625) ∨ (side L h).out = [] ∨ ¬passes L →
      Idles (.replayTimeout { link := l, atHeadland := h }) s)) ∧
  ∀ s : State,
    let may := s.eng.pwr.enMem = true ∧ (s.eng.hinge.s.st = .fault ∨ s.eng.hinge.s.faulted = true) ∧
      s.eng.hinge.s.last + 6250 ≤ s.eng.time.now;
    (may → Leaves .shoalSelfRefresh s { s.eng with mem := { s.eng.mem with selfRef := true } }) ∧ (¬may → Idles .shoalSelfRefresh s)

/-- RETRAIN_C, RETRAIN_S, RETRAIN_COMPLETE and HINGE_DIE_FAULT (R328, R329): a retrain is counted and told; it completes within
17 µs with its latency kept, and ends a DIE_FAULT; one that fails is DIE_FAULT: what both ends hold is discarded and told.
INJECTION_ARM and INJECTION_STOP (R334) are writes of DIAG_CTL under a SERVICE session, like any other. -/
def Obligations.HingeRetrainsAndInjection : Prop :=
  (∀ (s : State) (b : Bool), s.eng.hinge.active = false ∨ s.eng.hinge.kind ≠ 10 →
    let c : Instr := if b then .retrainS else .retrainC
    (s.eng.access = false ∨ (s.eng.hlink b).st = .retrain → Idles c s) ∧
    (s.eng.access = true → (s.eng.hlink b).st ≠ .retrain → Does c s fun e =>
      let cnt := if b then R.HINGE_S_RETRAIN_CNT else R.HINGE_C_RETRAIN_CNT
      let last := if b then R.HINGE_S_LAST else R.HINGE_C_LAST
      e.rd cnt = bump16 (s.eng.rd cnt) ∧ e.rd (istatKey 0x23) = s.eng.rd (istatKey 0x23) ||| (if b then 2#32 else 1#32) ∧
      e.rd last = w32 (4 * 2 ^ 28 + ((s.eng.hlink b).head.out.map (·.seq)).headD 0 % 256 * 2 ^ 20 + s.eng.time.tb.toNat % 2 ^ 20) ∧
      RegsKept [cnt, istatKey 0x23, last] s.eng e ∧
      e = { s.eng.marked e with
        hinge := (s.eng.setLink b fun l => { l with st := .retrain, start := s.eng.time.now, doomed := false }).hinge
        arriving := s.eng.arriving ++ if s.eng.rb R.HINGE_CTL 1 then [s.eng.event 0xD 0x01 1 (if b then 1 else 0)] else [] })) ∧
  (∀ (s : State) (l : Link),
    let L := s.eng.hlink (isS l)
    let lat := w32 ((if isS l then 2 ^ 31 else 0) + min (s.eng.time.now - L.start) (2 ^ 24 - 1))
    let empty (n : LinkEnd) : LinkEnd := { n with out := [], queue := [] }
    (L.st ≠ .retrain ∨ L.doomed = true ∨ L.start + 10625 < s.eng.time.now → Idles (.retrainComplete l) s) ∧
    (L.st ≠ .retrain ∨ s.eng.time.now < L.start + 10625 → Idles (.hingeDieFault l) s) ∧
    (L.st = .retrain → L.doomed = false → s.eng.time.now ≤ L.start + 10625 → L.head.out = [] → L.head.queue = [] → L.far.out = [] →
      L.far.queue = [] → L.head.next < 256 → L.far.next < 256 → l = .s ∨ (s.eng.tide.late = [] ∧ s.eng.tdc.fold = none) →
      Does (.retrainComplete l) s fun e =>
        let ends := L.st = .fault ∨ L.faulted = true ∨ L.lost = true
        e.rd R.HINGE_TRAIN_LAT = lat ∧
        e.rd (istatKey 0x23) = s.eng.rd (istatKey 0x23) ||| (if ends then 32#32 else 0#32) ∧
        RegsKept [R.HINGE_TRAIN_LAT, istatKey 0x23] s.eng e ∧
        e.hinge = (s.eng.setLink (isS l) fun l => { l with st := .trained, doomed := false, faulted := false, lost := false }).hinge ∧
        e.arriving = s.eng.arriving ++ (if ends then [s.eng.event 0xD 0x03 2 (if isS l then 1 else 0)] else []) ∧
        e.time = s.eng.time ∧ e.sys = s.eng.sys ∧ e.job = s.eng.job ∧
        e.mem = { s.eng.mem with selfRef := s.eng.mem.selfRef && !(isS l && s.eng.isOn 13) }) ∧
    (L.st = .retrain → L.start + 10625 ≤ s.eng.time.now → s.eng.host.held = [] → l = .s →
      Does (.hingeDieFault l) s fun e =>
        e.rd (estatKey 0x23) = s.eng.rd (estatKey 0x23) ||| 2#32 ∧ e.rd (istatKey 0x23) = s.eng.rd (istatKey 0x23) ||| 8#32 ∧
        e.rd R.HINGE_FAULT_CNT = bump16 (s.eng.rd R.HINGE_FAULT_CNT) ∧ e.rd R.HINGE_TRAIN_LAT = lat ∧
        e.time = s.eng.time ∧ e.sys = s.eng.sys ∧
        e.hinge = { s.eng.hinge with s := { L with
          st := .fault, faulted := true, lost := true, doomed := false, head := empty L.head, far := empty L.far } }) ∧
    (L.st = .retrain → L.start + 10625 ≤ s.eng.time.now → s.eng.host.held = [] → l = .c →
      Does (.hingeDieFault l) s fun e =>
        e.rd (estatKey 0x23) = s.eng.rd (estatKey 0x23) ||| 1#32 ∧ e.rd (istatKey 0x23) = s.eng.rd (istatKey 0x23) ||| 4#32 ∧
        e.rd R.HINGE_FAULT_CNT = bump16 (s.eng.rd R.HINGE_FAULT_CNT) ∧ e.rd R.HINGE_TRAIN_LAT = lat ∧
        e.rd R.HINGE_C_LAST =
          w32 (5 * 2 ^ 28 + (L.head.out.map (·.seq)).headD 0 % 256 * 2 ^ 20 + s.eng.time.tb.toNat % 2 ^ 20) ∧
        RegsKept [estatKey 0x23, istatKey 0x23, R.HINGE_FAULT_CNT, R.HINGE_TRAIN_LAT, R.HINGE_C_LAST] s.eng e ∧
        e = { s.eng.marked e with
          tide := { s.eng.tide with late := [] }
          hinge := { s.eng.hinge with c := { L with
            st := .fault, faulted := true, lost := true, doomed := false, head := empty L.head, far := empty L.far } }
          arriving := s.eng.arriving ++ [s.eng.event 0xD 0x02 0 0] })) ∧
  (∀ (s : State) (p : Port) (arm : Bool),
    let v := if arm then 1#32 else 0#32
    let c : Instr := if arm then .injectionArm p else .injectionStop p
    WaitsItsTurn c s p (.regs [wrAccess p R.DIAG_CTL v] [] none) ∧
    exec c s = exec (.registerWrite p (R.DIAG_CTL / 256) (R.DIAG_CTL % 256) 15#4 v) s ∧
    (p = .f1 → s.ready p = true → Does c s (PageMissing p (s.eng.arrivesAt p))) ∧
    (p ≠ .f1 → s.ready p = true → s.eng.sessAt (portCode p) 3 = true →
      let f := s.eng.serving p
      Does c s fun e =>
        e.rd R.DIAG_CTL = v ∧ RegsKept [R.DIAG_CTL] f e ∧
        e = { f.marked e with
          sec := (f.touchSess (portCode p) 3).sec
          hinge := if arm then { s.eng.hinge with
              active := true, kind := f.rf R.DIAG_INJ_SEL 0 4, left := f.rf R.DIAG_INJ_CNT 0 16, done := 0 }
            else { s.eng.hinge with active := false } }))

/-! ### Key sessions -/

/-- CHALLENGE, RESPOND, RESPONSE_CHECK_COMPLETE and CHALLENGE_EXPIRED (R342 to R346, R348): a command of a port is a write of
SEC_CMD that keeps its place; a programmed slot that is not locked out gives a fresh nonce; a response is checked; one that
matches opens the session, one that does not counts, and the eighth in sequence locks the slot out; a challenge that is too old is
dropped at a boundary. That a response for a slot that is locked out finds LOCKED where R344 has NO_CHALLENGE, and that a port
that programs a key takes no other command, is the model's reading (log entry 65). -/
def Obligations.KeyChallenges : Prop :=
  (∀ (s : State) (p : Port) (sl : BitVec 2) (op : Nat) (c : Instr), (op = 1 ∧ c = .challenge p sl) ∨ (op = 2 ∧ c = .respond p sl) →
    WaitsItsTurn c s p (.regs [wrAccess p R.SEC_CMD (w32 (0 * 2 ^ 16 + sl.toNat * 2 ^ 8 + op))] [] none) ∧
    (s.ready p = true → (s.eng.port (portCode p)).chal = .programming → Leaves c s (s.eng.serving p))) ∧
  (∀ (s : State) (p : Port) (q : PortSec), s.ready p = true → s.eng.sec.ports[portCode p]? = some q → q.chal ≠ .programming →
    let f := s.eng.serving p
    let eng (x : PortSec) : Engine := { f with sec := { s.eng.sec with ports := s.eng.sec.ports.set (portCode p) x } }
    Leaves (.challenge p 0#2) s f ∧ Leaves (.respond p 0#2) s (eng { q with result := 5 }) ∧
    ∀ sl : BitVec 2, sl ≠ 0#2 →
      let k := s.eng.key sl.toNat
      let q := { q with sess := q.sess.modify (sl.toNat - 1) fun o => o.map fun _ => 0 }
      (k.lock.isSome = true → Leaves (.challenge p sl) s (eng { q with result := 3 })) ∧
      (k.lock = none → k.prog = false → Leaves (.challenge p sl) s (eng { q with result := 4 })) ∧
      (k.lock = none → k.prog = true →
        let x := eng { q with
          buf := List.replicate 8 0#32, idx := 0, ctr := min (q.ctr + 1) 0xFFFF, nonce := Config.nonce s.eng.sec.nonces
          chal := .challenged, slot := sl.toNat, age := 0 }
        Leaves (.challenge p sl) s { x with sec := { x.sec with nonces := s.eng.sec.nonces + 1 } }) ∧
      (q.chal = .challenged → q.slot = sl.toNat → 4 ≤ q.idx → Leaves (.respond p sl) s (eng { q with chal := .checking })) ∧
      (q.chal ≠ .challenged ∨ q.slot ≠ sl.toNat ∨ q.idx < 4 →
        Leaves (.respond p sl) s (eng { q with result := if k.lock.isSome then 3 else 5 }))) ∧
  (∀ (s : State) (p : Port) (q : PortSec), s.eng.sec.ports[portCode p]? = some q →
    (q.chal ≠ .checking → Idles (.responseCheckComplete p) s) ∧
    (∀ k, q.chal = .checking → 1 ≤ q.slot → s.eng.sec.slots[q.slot - 1]? = some k →
      let cleared := { q with buf := List.replicate 8 0#32, idx := 0, chal := .idle, nonce := 0#128 }
      let sec (x : PortSec) (y : KeySlot) : SecBlk :=
        { s.eng.sec with ports := s.eng.sec.ports.set (portCode p) x, slots := s.eng.sec.slots.set (q.slot - 1) y }
      let digest := (hmac k.key (bytesOfNat 16 q.nonce.toNat ++ [BitVec.ofNat 8 (portCode p)] ++ bytesOfNat 2 q.ctr)).take 16
      let matched := ((q.buf.take 4).flatMap bytesOfWord == digest)
      let arg := portCode p * 16 + q.slot
      (k.lock.isSome = true → Leaves (.responseCheckComplete p) s { s.eng with sec := sec { cleared with result := 3 } k }) ∧
      (k.lock = none → matched = true → Does (.responseCheckComplete p) s fun e =>
        e.rd (istatKey 0x04) = s.eng.rd (istatKey 0x04) ||| 1#32 ∧ RegsKept [istatKey 0x04] s.eng e ∧
        e = { (s.eng.keepSess (portCode p) q.slot).marked e with
          sec := sec { cleared with result := 1, sess := upd q.sess (q.slot - 1) fun _ => some 0 } { k with consec := 0 }
          arriving := s.eng.arriving ++ if s.eng.rb R.SEC_CTL 2 then [s.eng.event 0xE 0x01 3 arg] else [] }) ∧
      (k.lock = none → matched = false → Does (.responseCheckComplete p) s fun e =>
        e.rd (istatKey 0x04) = s.eng.rd (istatKey 0x04) ||| (if 7 ≤ k.consec then 6#32 else 2#32) ∧
        RegsKept [istatKey 0x04] s.eng e ∧
        e = { s.eng.marked e with
          sec := sec { cleared with result := 2 } (if 7 ≤ k.consec then
              { k with fails := min (k.fails + 1) 255, consec := 0, level := min (k.level + 1) 7, lock := some (2 ^ min (10 + k.level) 16) }
            else { k with fails := min (k.fails + 1) 255, consec := k.consec + 1 })
          arriving := s.eng.arriving ++ [s.eng.event 0xE 0x02 1 arg] ++
            if 7 ≤ k.consec then [s.eng.event 0xE 0x03 0 arg] else [] })) ∧
    (let old := s.eng.cyc.boundary = true ∧ q.chal = .challenged ∧ s.eng.rf R.SEC_CTL 16 16 ≠ 0 ∧ s.eng.rf R.SEC_CTL 16 16 ≤ q.age;
      (old → Leaves (.challengeExpired p) s { s.eng with sec := { s.eng.sec with
        ports := s.eng.sec.ports.set (portCode p) { q with chal := .idle, nonce := 0#128, result := 6 } } }) ∧
      (¬old → Idles (.challengeExpired p) s)))

/-- SEC_BUF_WRITE, CLEAR, CLOSE, PROGRAM, PROGRAM_COMPLETE, SEC_TIMEOUT and LOCKOUT_END (R342, R346, R349 to R351, R355): the
commands of a port are writes of SEC_BUF and SEC_CMD that keep their place. A port that programs a key takes no other SEC_CMD (the
model's choice, log entry 65). -/
def Obligations.KeySessionsAndProgramming : Prop :=
  (∀ (s : State) (p : Port) (sl : BitVec 2) (cf : BitVec 16) (v : Word),
    WaitsItsTurn (.secBufWrite p v) s p (.regs [wrAccess p R.SEC_BUF v] [] none) ∧
    ∀ (c : Instr) (op a b : Nat),
      (c = .clear p ∧ op = 5 ∧ a = 0 ∧ b = 0) ∨ (c = .close p sl ∧ op = 3 ∧ a = sl.toNat ∧ b = 0) ∨
        (c = .program p sl cf ∧ op = 4 ∧ a = sl.toNat ∧ b = cf.toNat) →
      WaitsItsTurn c s p (.regs [wrAccess p R.SEC_CMD (w32 (b * 2 ^ 16 + a * 2 ^ 8 + op))] [] none) ∧
      (s.ready p = true → (s.eng.port (portCode p)).chal = .programming → Leaves c s (s.eng.serving p))) ∧
  (∀ (s : State) (p : Port) (q : PortSec), s.ready p = true → s.eng.sec.ports[portCode p]? = some q →
    let f := s.eng.serving p
    let n := portCode p
    let put (f : Engine) (x : PortSec) : Engine := { f with sec := { s.eng.sec with ports := s.eng.sec.ports.set n x } }
    let blank := { q with buf := List.replicate 8 0#32, idx := 0 }
    let touch (sl : BitVec 2) := if sl = 0#2 then q.sess else q.sess.modify (sl.toNat - 1) fun o => o.map fun _ => 0
    (∀ v, q.idx < 8 → Leaves (.secBufWrite p v) s (put f { q with buf := q.buf.set q.idx v, idx := q.idx + 1 })) ∧
    (∀ v, 8 ≤ q.idx → Leaves (.secBufWrite p v) s f) ∧
    (q.chal ≠ .programming →
      Leaves (.clear p) s (put f blank) ∧
      Leaves (.close p 0#2) s (put (((f.keepSess n 1).keepSess n 2).keepSess n 3) { q with sess := [none, none, none] }) ∧
      (∀ sl : BitVec 2, sl ≠ 0#2 →
        Leaves (.close p sl) s (put (f.keepSess n sl.toNat) { q with sess := q.sess.set (sl.toNat - 1) none })) ∧
      (∀ (sl : BitVec 2) (cf : BitVec 16),
        let may := s.eng.sessOpen n 3 = true ∧ cf = 0xA55A#16 ∧ (f.sys.mode = .measure ∨ f.sys.mode = .unload) ∧
          sl ≠ 0#2 ∧ (s.eng.key sl.toNat).prog = false ∧ q.idx = 8 ∧ (∃ w ∈ q.buf, w ≠ 0#32) ∧ (∃ w ∈ q.buf, w ≠ 0xFFFFFFFF#32) ∧
          ∀ o, o < 3 → o ≠ n → (s.eng.port o).chal ≠ .programming;
        (may → Leaves (.program p sl cf) s
          (put f { q with chal := .programming, slot := sl.toNat, nonce := 0#128, sess := touch sl })) ∧
        (¬may → Leaves (.program p sl cf) s (put f { blank with result := 8, sess := touch sl }))))) ∧
  (∀ (s : State) (p : Port) (q : PortSec), s.eng.sec.ports[portCode p]? = some q →
    (∀ (burned : List Word),
      (q.chal ≠ .programming → Idles (.programComplete p burned) s) ∧
      (∀ k, q.chal = .programming → 1 ≤ q.slot → s.eng.sec.slots[q.slot - 1]? = some k → burned.length = 8 →
        let ok := burned == q.buf
        Does (.programComplete p burned) s fun e =>
          e.rd (istatKey 0x04) = s.eng.rd (istatKey 0x04) ||| (if ok then 32#32 else 0#32) ∧
          e.rd (estatKey 0x04) = s.eng.rd (estatKey 0x04) ||| (if ok then 0#32 else 2#32) ∧
          RegsKept [istatKey 0x04, estatKey 0x04] s.eng e ∧
          e = { (((s.eng.keepSess 0 q.slot).keepSess 1 q.slot).keepSess 2 q.slot).marked e with
            sec := { s.eng.sec with
              ports := s.eng.sec.ports.set (portCode p)
                { q with buf := List.replicate 8 0#32, idx := 0, chal := .idle, result := if ok then 7 else 9 }
              slots := s.eng.sec.slots.set (q.slot - 1) { k with prog := true, key := burned.flatMap bytesOfWord, lock := none } }
            arriving := s.eng.arriving ++ if ok then [s.eng.event 0xE 0x06 2 (portCode p * 16 + q.slot)] else [] })) ∧
    (∀ sl : BitVec 2,
      let lim := s.eng.rf R.SEC_CTL 16 16
      let out := s.eng.cyc.boundary = true ∧ lim ≠ 0 ∧ sl ≠ 0#2 ∧ ∃ n, q.sess[sl.toNat - 1]? = some (some n) ∧ lim ≤ n;
      (¬out → Idles (.secTimeout p sl) s) ∧
      (out → Does (.secTimeout p sl) s fun e =>
        e.rd (istatKey 0x04) = s.eng.rd (istatKey 0x04) ||| 8#32 ∧ RegsKept [istatKey 0x04] s.eng e ∧
        e = { (s.eng.keepSess (portCode p) sl.toNat).marked e with
          sec := { s.eng.sec with ports := s.eng.sec.ports.set (portCode p) { q with sess := q.sess.set (sl.toNat - 1) none } }
          arriving := s.eng.arriving ++ [s.eng.event 0xE 0x04 2 (portCode p * 16 + sl.toNat)] }))) ∧
  (∀ (s : State) (sl : BitVec 2) (k : KeySlot), s.eng.sec.slots[sl.toNat - 1]? = some k →
    (sl ≠ 0#2 → k.lock = some 0 → Leaves (.lockoutEnd sl) s { s.eng with sec := { s.eng.sec with
      slots := s.eng.sec.slots.set (sl.toNat - 1) { k with lock := none } } }) ∧
    (sl = 0#2 ∨ k.lock ≠ some 0 → Idles (.lockoutEnd sl) s))
end

