-- ==== Sys2Proof/Laws/State.lean ====
section
/-! SUPPORT. What the shared operations leave of each part of the engine: one lemma per part and operation. -/

namespace Sys2Proof.Machine.Engine

/-! ### wr -/

@[simp] theorem wr_cyc (e : Engine) (k : Nat) (v : Word) : (e.wr k v).cyc = e.cyc := by cases e; rfl
@[simp] theorem wr_time (e : Engine) (k : Nat) (v : Word) : (e.wr k v).time = e.time := by cases e; rfl
@[simp] theorem wr_clk (e : Engine) (k : Nat) (v : Word) : (e.wr k v).clk = e.clk := by cases e; rfl
@[simp] theorem wr_tide (e : Engine) (k : Nat) (v : Word) : (e.wr k v).tide = e.tide := by cases e; rfl
@[simp] theorem wr_sys (e : Engine) (k : Nat) (v : Word) : (e.wr k v).sys = e.sys := by cases e; rfl
@[simp] theorem wr_pwr (e : Engine) (k : Nat) (v : Word) : (e.wr k v).pwr = e.pwr := by cases e; rfl
@[simp] theorem wr_lanes (e : Engine) (k : Nat) (v : Word) : (e.wr k v).lanes = e.lanes := by cases e; rfl
@[simp] theorem wr_pods (e : Engine) (k : Nat) (v : Word) : (e.wr k v).pods = e.pods := by cases e; rfl
@[simp] theorem wr_bus (e : Engine) (k : Nat) (v : Word) : (e.wr k v).bus = e.bus := by cases e; rfl
@[simp] theorem wr_tdc (e : Engine) (k : Nat) (v : Word) : (e.wr k v).tdc = e.tdc := by cases e; rfl
@[simp] theorem wr_seq (e : Engine) (k : Nat) (v : Word) : (e.wr k v).seq = e.seq := by cases e; rfl
@[simp] theorem wr_recb (e : Engine) (k : Nat) (v : Word) : (e.wr k v).recb = e.recb := by cases e; rfl
@[simp] theorem wr_stg (e : Engine) (k : Nat) (v : Word) : (e.wr k v).stg = e.stg := by cases e; rfl
@[simp] theorem wr_mem (e : Engine) (k : Nat) (v : Word) : (e.wr k v).mem = e.mem := by cases e; rfl
@[simp] theorem wr_job (e : Engine) (k : Nat) (v : Word) : (e.wr k v).job = e.job := by cases e; rfl
@[simp] theorem wr_host (e : Engine) (k : Nat) (v : Word) : (e.wr k v).host = e.host := by cases e; rfl
@[simp] theorem wr_i2c (e : Engine) (k : Nat) (v : Word) : (e.wr k v).i2c = e.i2c := by cases e; rfl
@[simp] theorem wr_hinge (e : Engine) (k : Nat) (v : Word) : (e.wr k v).hinge = e.hinge := by cases e; rfl
@[simp] theorem wr_sec (e : Engine) (k : Nat) (v : Word) : (e.wr k v).sec = e.sec := by cases e; rfl
@[simp] theorem wr_tap (e : Engine) (k : Nat) (v : Word) : (e.wr k v).tap = e.tap := by cases e; rfl
@[simp] theorem wr_latch (e : Engine) (k : Nat) (v : Word) : (e.wr k v).latch = e.latch := by cases e; rfl
@[simp] theorem wr_arriving (e : Engine) (k : Nat) (v : Word) : (e.wr k v).arriving = e.arriving := by cases e; rfl
@[simp] theorem wr_tx (e : Engine) (k : Nat) (v : Word) : (e.wr k v).tx = e.tx := by cases e; rfl

/-! ### clearRegs -/

@[simp] theorem clearRegs_cyc (e : Engine) (f : Nat → Bool) : (e.clearRegs f).cyc = e.cyc := by cases e; rfl
@[simp] theorem clearRegs_time (e : Engine) (f : Nat → Bool) : (e.clearRegs f).time = e.time := by cases e; rfl
@[simp] theorem clearRegs_clk (e : Engine) (f : Nat → Bool) : (e.clearRegs f).clk = e.clk := by cases e; rfl
@[simp] theorem clearRegs_tide (e : Engine) (f : Nat → Bool) : (e.clearRegs f).tide = e.tide := by cases e; rfl
@[simp] theorem clearRegs_sys (e : Engine) (f : Nat → Bool) : (e.clearRegs f).sys = e.sys := by cases e; rfl
@[simp] theorem clearRegs_pwr (e : Engine) (f : Nat → Bool) : (e.clearRegs f).pwr = e.pwr := by cases e; rfl
@[simp] theorem clearRegs_lanes (e : Engine) (f : Nat → Bool) : (e.clearRegs f).lanes = e.lanes := by cases e; rfl
@[simp] theorem clearRegs_pods (e : Engine) (f : Nat → Bool) : (e.clearRegs f).pods = e.pods := by cases e; rfl
@[simp] theorem clearRegs_bus (e : Engine) (f : Nat → Bool) : (e.clearRegs f).bus = e.bus := by cases e; rfl
@[simp] theorem clearRegs_tdc (e : Engine) (f : Nat → Bool) : (e.clearRegs f).tdc = e.tdc := by cases e; rfl
@[simp] theorem clearRegs_seq (e : Engine) (f : Nat → Bool) : (e.clearRegs f).seq = e.seq := by cases e; rfl
@[simp] theorem clearRegs_recb (e : Engine) (f : Nat → Bool) : (e.clearRegs f).recb = e.recb := by cases e; rfl
@[simp] theorem clearRegs_stg (e : Engine) (f : Nat → Bool) : (e.clearRegs f).stg = e.stg := by cases e; rfl
@[simp] theorem clearRegs_mem (e : Engine) (f : Nat → Bool) : (e.clearRegs f).mem = e.mem := by cases e; rfl
@[simp] theorem clearRegs_job (e : Engine) (f : Nat → Bool) : (e.clearRegs f).job = e.job := by cases e; rfl
@[simp] theorem clearRegs_host (e : Engine) (f : Nat → Bool) : (e.clearRegs f).host = e.host := by cases e; rfl
@[simp] theorem clearRegs_i2c (e : Engine) (f : Nat → Bool) : (e.clearRegs f).i2c = e.i2c := by cases e; rfl
@[simp] theorem clearRegs_hinge (e : Engine) (f : Nat → Bool) : (e.clearRegs f).hinge = e.hinge := by cases e; rfl
@[simp] theorem clearRegs_sec (e : Engine) (f : Nat → Bool) : (e.clearRegs f).sec = e.sec := by cases e; rfl
@[simp] theorem clearRegs_tap (e : Engine) (f : Nat → Bool) : (e.clearRegs f).tap = e.tap := by cases e; rfl
@[simp] theorem clearRegs_latch (e : Engine) (f : Nat → Bool) : (e.clearRegs f).latch = e.latch := by cases e; rfl
@[simp] theorem clearRegs_arriving (e : Engine) (f : Nat → Bool) : (e.clearRegs f).arriving = e.arriving := by cases e; rfl
@[simp] theorem clearRegs_tx (e : Engine) (f : Nat → Bool) : (e.clearRegs f).tx = e.tx := by cases e; rfl

/-! ### hwSet -/

@[simp] theorem hwSet_time (e : Engine) (k : Nat) (m : Word) : (e.hwSet k m).time = e.time := by cases e; rfl
@[simp] theorem hwSet_clk (e : Engine) (k : Nat) (m : Word) : (e.hwSet k m).clk = e.clk := by cases e; rfl
@[simp] theorem hwSet_tide (e : Engine) (k : Nat) (m : Word) : (e.hwSet k m).tide = e.tide := by cases e; rfl
@[simp] theorem hwSet_sys (e : Engine) (k : Nat) (m : Word) : (e.hwSet k m).sys = e.sys := by cases e; rfl
@[simp] theorem hwSet_pwr (e : Engine) (k : Nat) (m : Word) : (e.hwSet k m).pwr = e.pwr := by cases e; rfl
@[simp] theorem hwSet_lanes (e : Engine) (k : Nat) (m : Word) : (e.hwSet k m).lanes = e.lanes := by cases e; rfl
@[simp] theorem hwSet_pods (e : Engine) (k : Nat) (m : Word) : (e.hwSet k m).pods = e.pods := by cases e; rfl
@[simp] theorem hwSet_bus (e : Engine) (k : Nat) (m : Word) : (e.hwSet k m).bus = e.bus := by cases e; rfl
@[simp] theorem hwSet_tdc (e : Engine) (k : Nat) (m : Word) : (e.hwSet k m).tdc = e.tdc := by cases e; rfl
@[simp] theorem hwSet_seq (e : Engine) (k : Nat) (m : Word) : (e.hwSet k m).seq = e.seq := by cases e; rfl
@[simp] theorem hwSet_recb (e : Engine) (k : Nat) (m : Word) : (e.hwSet k m).recb = e.recb := by cases e; rfl
@[simp] theorem hwSet_stg (e : Engine) (k : Nat) (m : Word) : (e.hwSet k m).stg = e.stg := by cases e; rfl
@[simp] theorem hwSet_mem (e : Engine) (k : Nat) (m : Word) : (e.hwSet k m).mem = e.mem := by cases e; rfl
@[simp] theorem hwSet_job (e : Engine) (k : Nat) (m : Word) : (e.hwSet k m).job = e.job := by cases e; rfl
@[simp] theorem hwSet_host (e : Engine) (k : Nat) (m : Word) : (e.hwSet k m).host = e.host := by cases e; rfl
@[simp] theorem hwSet_i2c (e : Engine) (k : Nat) (m : Word) : (e.hwSet k m).i2c = e.i2c := by cases e; rfl
@[simp] theorem hwSet_hinge (e : Engine) (k : Nat) (m : Word) : (e.hwSet k m).hinge = e.hinge := by cases e; rfl
@[simp] theorem hwSet_sec (e : Engine) (k : Nat) (m : Word) : (e.hwSet k m).sec = e.sec := by cases e; rfl
@[simp] theorem hwSet_tap (e : Engine) (k : Nat) (m : Word) : (e.hwSet k m).tap = e.tap := by cases e; rfl
@[simp] theorem hwSet_latch (e : Engine) (k : Nat) (m : Word) : (e.hwSet k m).latch = e.latch := by cases e; rfl
@[simp] theorem hwSet_arriving (e : Engine) (k : Nat) (m : Word) : (e.hwSet k m).arriving = e.arriving := by cases e; rfl
@[simp] theorem hwSet_tx (e : Engine) (k : Nat) (m : Word) : (e.hwSet k m).tx = e.tx := by cases e; rfl

/-! ### w1c -/

@[simp] theorem w1c_cyc (e : Engine) (k : Nat) (m : Word) : (e.w1c k m).cyc = e.cyc := by cases e; rfl
@[simp] theorem w1c_time (e : Engine) (k : Nat) (m : Word) : (e.w1c k m).time = e.time := by cases e; rfl
@[simp] theorem w1c_clk (e : Engine) (k : Nat) (m : Word) : (e.w1c k m).clk = e.clk := by cases e; rfl
@[simp] theorem w1c_tide (e : Engine) (k : Nat) (m : Word) : (e.w1c k m).tide = e.tide := by cases e; rfl
@[simp] theorem w1c_sys (e : Engine) (k : Nat) (m : Word) : (e.w1c k m).sys = e.sys := by cases e; rfl
@[simp] theorem w1c_pwr (e : Engine) (k : Nat) (m : Word) : (e.w1c k m).pwr = e.pwr := by cases e; rfl
@[simp] theorem w1c_lanes (e : Engine) (k : Nat) (m : Word) : (e.w1c k m).lanes = e.lanes := by cases e; rfl
@[simp] theorem w1c_pods (e : Engine) (k : Nat) (m : Word) : (e.w1c k m).pods = e.pods := by cases e; rfl
@[simp] theorem w1c_bus (e : Engine) (k : Nat) (m : Word) : (e.w1c k m).bus = e.bus := by cases e; rfl
@[simp] theorem w1c_tdc (e : Engine) (k : Nat) (m : Word) : (e.w1c k m).tdc = e.tdc := by cases e; rfl
@[simp] theorem w1c_seq (e : Engine) (k : Nat) (m : Word) : (e.w1c k m).seq = e.seq := by cases e; rfl
@[simp] theorem w1c_recb (e : Engine) (k : Nat) (m : Word) : (e.w1c k m).recb = e.recb := by cases e; rfl
@[simp] theorem w1c_stg (e : Engine) (k : Nat) (m : Word) : (e.w1c k m).stg = e.stg := by cases e; rfl
@[simp] theorem w1c_mem (e : Engine) (k : Nat) (m : Word) : (e.w1c k m).mem = e.mem := by cases e; rfl
@[simp] theorem w1c_job (e : Engine) (k : Nat) (m : Word) : (e.w1c k m).job = e.job := by cases e; rfl
@[simp] theorem w1c_host (e : Engine) (k : Nat) (m : Word) : (e.w1c k m).host = e.host := by cases e; rfl
@[simp] theorem w1c_i2c (e : Engine) (k : Nat) (m : Word) : (e.w1c k m).i2c = e.i2c := by cases e; rfl
@[simp] theorem w1c_hinge (e : Engine) (k : Nat) (m : Word) : (e.w1c k m).hinge = e.hinge := by cases e; rfl
@[simp] theorem w1c_sec (e : Engine) (k : Nat) (m : Word) : (e.w1c k m).sec = e.sec := by cases e; rfl
@[simp] theorem w1c_tap (e : Engine) (k : Nat) (m : Word) : (e.w1c k m).tap = e.tap := by cases e; rfl
@[simp] theorem w1c_latch (e : Engine) (k : Nat) (m : Word) : (e.w1c k m).latch = e.latch := by cases e; rfl
@[simp] theorem w1c_arriving (e : Engine) (k : Nat) (m : Word) : (e.w1c k m).arriving = e.arriving := by cases e; rfl
@[simp] theorem w1c_tx (e : Engine) (k : Nat) (m : Word) : (e.w1c k m).tx = e.tx := by cases e; rfl

/-! ### hwUpd -/

@[simp] theorem hwUpd_time (e : Engine) (k : Nat) (f : Word → Word) : (e.hwUpd k f).time = e.time := by cases e; rfl
@[simp] theorem hwUpd_clk (e : Engine) (k : Nat) (f : Word → Word) : (e.hwUpd k f).clk = e.clk := by cases e; rfl
@[simp] theorem hwUpd_tide (e : Engine) (k : Nat) (f : Word → Word) : (e.hwUpd k f).tide = e.tide := by cases e; rfl
@[simp] theorem hwUpd_sys (e : Engine) (k : Nat) (f : Word → Word) : (e.hwUpd k f).sys = e.sys := by cases e; rfl
@[simp] theorem hwUpd_pwr (e : Engine) (k : Nat) (f : Word → Word) : (e.hwUpd k f).pwr = e.pwr := by cases e; rfl
@[simp] theorem hwUpd_lanes (e : Engine) (k : Nat) (f : Word → Word) : (e.hwUpd k f).lanes = e.lanes := by cases e; rfl
@[simp] theorem hwUpd_pods (e : Engine) (k : Nat) (f : Word → Word) : (e.hwUpd k f).pods = e.pods := by cases e; rfl
@[simp] theorem hwUpd_bus (e : Engine) (k : Nat) (f : Word → Word) : (e.hwUpd k f).bus = e.bus := by cases e; rfl
@[simp] theorem hwUpd_tdc (e : Engine) (k : Nat) (f : Word → Word) : (e.hwUpd k f).tdc = e.tdc := by cases e; rfl
@[simp] theorem hwUpd_seq (e : Engine) (k : Nat) (f : Word → Word) : (e.hwUpd k f).seq = e.seq := by cases e; rfl
@[simp] theorem hwUpd_recb (e : Engine) (k : Nat) (f : Word → Word) : (e.hwUpd k f).recb = e.recb := by cases e; rfl
@[simp] theorem hwUpd_stg (e : Engine) (k : Nat) (f : Word → Word) : (e.hwUpd k f).stg = e.stg := by cases e; rfl
@[simp] theorem hwUpd_mem (e : Engine) (k : Nat) (f : Word → Word) : (e.hwUpd k f).mem = e.mem := by cases e; rfl
@[simp] theorem hwUpd_job (e : Engine) (k : Nat) (f : Word → Word) : (e.hwUpd k f).job = e.job := by cases e; rfl
@[simp] theorem hwUpd_host (e : Engine) (k : Nat) (f : Word → Word) : (e.hwUpd k f).host = e.host := by cases e; rfl
@[simp] theorem hwUpd_i2c (e : Engine) (k : Nat) (f : Word → Word) : (e.hwUpd k f).i2c = e.i2c := by cases e; rfl
@[simp] theorem hwUpd_hinge (e : Engine) (k : Nat) (f : Word → Word) : (e.hwUpd k f).hinge = e.hinge := by cases e; rfl
@[simp] theorem hwUpd_sec (e : Engine) (k : Nat) (f : Word → Word) : (e.hwUpd k f).sec = e.sec := by cases e; rfl
@[simp] theorem hwUpd_tap (e : Engine) (k : Nat) (f : Word → Word) : (e.hwUpd k f).tap = e.tap := by cases e; rfl
@[simp] theorem hwUpd_latch (e : Engine) (k : Nat) (f : Word → Word) : (e.hwUpd k f).latch = e.latch := by cases e; rfl
@[simp] theorem hwUpd_arriving (e : Engine) (k : Nat) (f : Word → Word) : (e.hwUpd k f).arriving = e.arriving := by cases e; rfl
@[simp] theorem hwUpd_tx (e : Engine) (k : Nat) (f : Word → Word) : (e.hwUpd k f).tx = e.tx := by cases e; rfl

/-! ### count -/

@[simp] theorem count_time (e : Engine) (k : Nat) : (e.count k).time = e.time := by unfold count; simp only [hwUpd_time]
@[simp] theorem count_clk (e : Engine) (k : Nat) : (e.count k).clk = e.clk := by unfold count; simp only [hwUpd_clk]
@[simp] theorem count_tide (e : Engine) (k : Nat) : (e.count k).tide = e.tide := by unfold count; simp only [hwUpd_tide]
@[simp] theorem count_sys (e : Engine) (k : Nat) : (e.count k).sys = e.sys := by unfold count; simp only [hwUpd_sys]
@[simp] theorem count_pwr (e : Engine) (k : Nat) : (e.count k).pwr = e.pwr := by unfold count; simp only [hwUpd_pwr]
@[simp] theorem count_lanes (e : Engine) (k : Nat) : (e.count k).lanes = e.lanes := by unfold count; simp only [hwUpd_lanes]
@[simp] theorem count_pods (e : Engine) (k : Nat) : (e.count k).pods = e.pods := by unfold count; simp only [hwUpd_pods]
@[simp] theorem count_bus (e : Engine) (k : Nat) : (e.count k).bus = e.bus := by unfold count; simp only [hwUpd_bus]
@[simp] theorem count_tdc (e : Engine) (k : Nat) : (e.count k).tdc = e.tdc := by unfold count; simp only [hwUpd_tdc]
@[simp] theorem count_seq (e : Engine) (k : Nat) : (e.count k).seq = e.seq := by unfold count; simp only [hwUpd_seq]
@[simp] theorem count_recb (e : Engine) (k : Nat) : (e.count k).recb = e.recb := by unfold count; simp only [hwUpd_recb]
@[simp] theorem count_stg (e : Engine) (k : Nat) : (e.count k).stg = e.stg := by unfold count; simp only [hwUpd_stg]
@[simp] theorem count_mem (e : Engine) (k : Nat) : (e.count k).mem = e.mem := by unfold count; simp only [hwUpd_mem]
@[simp] theorem count_job (e : Engine) (k : Nat) : (e.count k).job = e.job := by unfold count; simp only [hwUpd_job]
@[simp] theorem count_host (e : Engine) (k : Nat) : (e.count k).host = e.host := by unfold count; simp only [hwUpd_host]
@[simp] theorem count_i2c (e : Engine) (k : Nat) : (e.count k).i2c = e.i2c := by unfold count; simp only [hwUpd_i2c]
@[simp] theorem count_hinge (e : Engine) (k : Nat) : (e.count k).hinge = e.hinge := by unfold count; simp only [hwUpd_hinge]
@[simp] theorem count_sec (e : Engine) (k : Nat) : (e.count k).sec = e.sec := by unfold count; simp only [hwUpd_sec]
@[simp] theorem count_tap (e : Engine) (k : Nat) : (e.count k).tap = e.tap := by unfold count; simp only [hwUpd_tap]
@[simp] theorem count_latch (e : Engine) (k : Nat) : (e.count k).latch = e.latch := by unfold count; simp only [hwUpd_latch]
@[simp] theorem count_arriving (e : Engine) (k : Nat) : (e.count k).arriving = e.arriving := by unfold count; simp only [hwUpd_arriving]
@[simp] theorem count_tx (e : Engine) (k : Nat) : (e.count k).tx = e.tx := by unfold count; simp only [hwUpd_tx]

/-! ### istat -/

@[simp] theorem istat_time (e : Engine) (p b : Nat) : (e.istat p b).time = e.time := by unfold istat; simp only [hwSet_time]
@[simp] theorem istat_clk (e : Engine) (p b : Nat) : (e.istat p b).clk = e.clk := by unfold istat; simp only [hwSet_clk]
@[simp] theorem istat_tide (e : Engine) (p b : Nat) : (e.istat p b).tide = e.tide := by unfold istat; simp only [hwSet_tide]
@[simp] theorem istat_sys (e : Engine) (p b : Nat) : (e.istat p b).sys = e.sys := by unfold istat; simp only [hwSet_sys]
@[simp] theorem istat_pwr (e : Engine) (p b : Nat) : (e.istat p b).pwr = e.pwr := by unfold istat; simp only [hwSet_pwr]
@[simp] theorem istat_lanes (e : Engine) (p b : Nat) : (e.istat p b).lanes = e.lanes := by unfold istat; simp only [hwSet_lanes]
@[simp] theorem istat_pods (e : Engine) (p b : Nat) : (e.istat p b).pods = e.pods := by unfold istat; simp only [hwSet_pods]
@[simp] theorem istat_bus (e : Engine) (p b : Nat) : (e.istat p b).bus = e.bus := by unfold istat; simp only [hwSet_bus]
@[simp] theorem istat_tdc (e : Engine) (p b : Nat) : (e.istat p b).tdc = e.tdc := by unfold istat; simp only [hwSet_tdc]
@[simp] theorem istat_seq (e : Engine) (p b : Nat) : (e.istat p b).seq = e.seq := by unfold istat; simp only [hwSet_seq]
@[simp] theorem istat_recb (e : Engine) (p b : Nat) : (e.istat p b).recb = e.recb := by unfold istat; simp only [hwSet_recb]
@[simp] theorem istat_stg (e : Engine) (p b : Nat) : (e.istat p b).stg = e.stg := by unfold istat; simp only [hwSet_stg]
@[simp] theorem istat_mem (e : Engine) (p b : Nat) : (e.istat p b).mem = e.mem := by unfold istat; simp only [hwSet_mem]
@[simp] theorem istat_job (e : Engine) (p b : Nat) : (e.istat p b).job = e.job := by unfold istat; simp only [hwSet_job]
@[simp] theorem istat_host (e : Engine) (p b : Nat) : (e.istat p b).host = e.host := by unfold istat; simp only [hwSet_host]
@[simp] theorem istat_i2c (e : Engine) (p b : Nat) : (e.istat p b).i2c = e.i2c := by unfold istat; simp only [hwSet_i2c]
@[simp] theorem istat_hinge (e : Engine) (p b : Nat) : (e.istat p b).hinge = e.hinge := by unfold istat; simp only [hwSet_hinge]
@[simp] theorem istat_sec (e : Engine) (p b : Nat) : (e.istat p b).sec = e.sec := by unfold istat; simp only [hwSet_sec]
@[simp] theorem istat_tap (e : Engine) (p b : Nat) : (e.istat p b).tap = e.tap := by unfold istat; simp only [hwSet_tap]
@[simp] theorem istat_latch (e : Engine) (p b : Nat) : (e.istat p b).latch = e.latch := by unfold istat; simp only [hwSet_latch]
@[simp] theorem istat_arriving (e : Engine) (p b : Nat) : (e.istat p b).arriving = e.arriving := by unfold istat; simp only [hwSet_arriving]
@[simp] theorem istat_tx (e : Engine) (p b : Nat) : (e.istat p b).tx = e.tx := by unfold istat; simp only [hwSet_tx]

/-! ### estat -/

@[simp] theorem estat_time (e : Engine) (p b : Nat) : (e.estat p b).time = e.time := by unfold estat; simp only [hwSet_time]
@[simp] theorem estat_clk (e : Engine) (p b : Nat) : (e.estat p b).clk = e.clk := by unfold estat; simp only [hwSet_clk]
@[simp] theorem estat_tide (e : Engine) (p b : Nat) : (e.estat p b).tide = e.tide := by unfold estat; simp only [hwSet_tide]
@[simp] theorem estat_sys (e : Engine) (p b : Nat) : (e.estat p b).sys = e.sys := by unfold estat; simp only [hwSet_sys]
@[simp] theorem estat_pwr (e : Engine) (p b : Nat) : (e.estat p b).pwr = e.pwr := by unfold estat; simp only [hwSet_pwr]
@[simp] theorem estat_lanes (e : Engine) (p b : Nat) : (e.estat p b).lanes = e.lanes := by unfold estat; simp only [hwSet_lanes]
@[simp] theorem estat_pods (e : Engine) (p b : Nat) : (e.estat p b).pods = e.pods := by unfold estat; simp only [hwSet_pods]
@[simp] theorem estat_bus (e : Engine) (p b : Nat) : (e.estat p b).bus = e.bus := by unfold estat; simp only [hwSet_bus]
@[simp] theorem estat_tdc (e : Engine) (p b : Nat) : (e.estat p b).tdc = e.tdc := by unfold estat; simp only [hwSet_tdc]
@[simp] theorem estat_seq (e : Engine) (p b : Nat) : (e.estat p b).seq = e.seq := by unfold estat; simp only [hwSet_seq]
@[simp] theorem estat_recb (e : Engine) (p b : Nat) : (e.estat p b).recb = e.recb := by unfold estat; simp only [hwSet_recb]
@[simp] theorem estat_stg (e : Engine) (p b : Nat) : (e.estat p b).stg = e.stg := by unfold estat; simp only [hwSet_stg]
@[simp] theorem estat_mem (e : Engine) (p b : Nat) : (e.estat p b).mem = e.mem := by unfold estat; simp only [hwSet_mem]
@[simp] theorem estat_job (e : Engine) (p b : Nat) : (e.estat p b).job = e.job := by unfold estat; simp only [hwSet_job]
@[simp] theorem estat_host (e : Engine) (p b : Nat) : (e.estat p b).host = e.host := by unfold estat; simp only [hwSet_host]
@[simp] theorem estat_i2c (e : Engine) (p b : Nat) : (e.estat p b).i2c = e.i2c := by unfold estat; simp only [hwSet_i2c]
@[simp] theorem estat_hinge (e : Engine) (p b : Nat) : (e.estat p b).hinge = e.hinge := by unfold estat; simp only [hwSet_hinge]
@[simp] theorem estat_sec (e : Engine) (p b : Nat) : (e.estat p b).sec = e.sec := by unfold estat; simp only [hwSet_sec]
@[simp] theorem estat_tap (e : Engine) (p b : Nat) : (e.estat p b).tap = e.tap := by unfold estat; simp only [hwSet_tap]
@[simp] theorem estat_latch (e : Engine) (p b : Nat) : (e.estat p b).latch = e.latch := by unfold estat; simp only [hwSet_latch]
@[simp] theorem estat_arriving (e : Engine) (p b : Nat) : (e.estat p b).arriving = e.arriving := by unfold estat; simp only [hwSet_arriving]
@[simp] theorem estat_tx (e : Engine) (p b : Nat) : (e.estat p b).tx = e.tx := by unfold estat; simp only [hwSet_tx]

/-! ### pushAt -/

@[simp] theorem pushAt_regs (e : Engine) (a b c d t : Nat) : (e.pushAt a b c d t).regs = e.regs := by cases e; rfl
@[simp] theorem pushAt_cyc (e : Engine) (a b c d t : Nat) : (e.pushAt a b c d t).cyc = e.cyc := by cases e; rfl
@[simp] theorem pushAt_time (e : Engine) (a b c d t : Nat) : (e.pushAt a b c d t).time = e.time := by cases e; rfl
@[simp] theorem pushAt_clk (e : Engine) (a b c d t : Nat) : (e.pushAt a b c d t).clk = e.clk := by cases e; rfl
@[simp] theorem pushAt_tide (e : Engine) (a b c d t : Nat) : (e.pushAt a b c d t).tide = e.tide := by cases e; rfl
@[simp] theorem pushAt_sys (e : Engine) (a b c d t : Nat) : (e.pushAt a b c d t).sys = e.sys := by cases e; rfl
@[simp] theorem pushAt_pwr (e : Engine) (a b c d t : Nat) : (e.pushAt a b c d t).pwr = e.pwr := by cases e; rfl
@[simp] theorem pushAt_lanes (e : Engine) (a b c d t : Nat) : (e.pushAt a b c d t).lanes = e.lanes := by cases e; rfl
@[simp] theorem pushAt_pods (e : Engine) (a b c d t : Nat) : (e.pushAt a b c d t).pods = e.pods := by cases e; rfl
@[simp] theorem pushAt_bus (e : Engine) (a b c d t : Nat) : (e.pushAt a b c d t).bus = e.bus := by cases e; rfl
@[simp] theorem pushAt_tdc (e : Engine) (a b c d t : Nat) : (e.pushAt a b c d t).tdc = e.tdc := by cases e; rfl
@[simp] theorem pushAt_seq (e : Engine) (a b c d t : Nat) : (e.pushAt a b c d t).seq = e.seq := by cases e; rfl
@[simp] theorem pushAt_recb (e : Engine) (a b c d t : Nat) : (e.pushAt a b c d t).recb = e.recb := by cases e; rfl
@[simp] theorem pushAt_stg (e : Engine) (a b c d t : Nat) : (e.pushAt a b c d t).stg = e.stg := by cases e; rfl
@[simp] theorem pushAt_mem (e : Engine) (a b c d t : Nat) : (e.pushAt a b c d t).mem = e.mem := by cases e; rfl
@[simp] theorem pushAt_job (e : Engine) (a b c d t : Nat) : (e.pushAt a b c d t).job = e.job := by cases e; rfl
@[simp] theorem pushAt_host (e : Engine) (a b c d t : Nat) : (e.pushAt a b c d t).host = e.host := by cases e; rfl
@[simp] theorem pushAt_i2c (e : Engine) (a b c d t : Nat) : (e.pushAt a b c d t).i2c = e.i2c := by cases e; rfl
@[simp] theorem pushAt_hinge (e : Engine) (a b c d t : Nat) : (e.pushAt a b c d t).hinge = e.hinge := by cases e; rfl
@[simp] theorem pushAt_sec (e : Engine) (a b c d t : Nat) : (e.pushAt a b c d t).sec = e.sec := by cases e; rfl
@[simp] theorem pushAt_tap (e : Engine) (a b c d t : Nat) : (e.pushAt a b c d t).tap = e.tap := by cases e; rfl
@[simp] theorem pushAt_latch (e : Engine) (a b c d t : Nat) : (e.pushAt a b c d t).latch = e.latch := by cases e; rfl
@[simp] theorem pushAt_tx (e : Engine) (a b c d t : Nat) : (e.pushAt a b c d t).tx = e.tx := by cases e; rfl

/-! ### push -/

@[simp] theorem push_regs (e : Engine) (a b c d : Nat) : (e.push a b c d).regs = e.regs := by cases e; rfl
@[simp] theorem push_cyc (e : Engine) (a b c d : Nat) : (e.push a b c d).cyc = e.cyc := by cases e; rfl
@[simp] theorem push_time (e : Engine) (a b c d : Nat) : (e.push a b c d).time = e.time := by cases e; rfl
@[simp] theorem push_clk (e : Engine) (a b c d : Nat) : (e.push a b c d).clk = e.clk := by cases e; rfl
@[simp] theorem push_tide (e : Engine) (a b c d : Nat) : (e.push a b c d).tide = e.tide := by cases e; rfl
@[simp] theorem push_sys (e : Engine) (a b c d : Nat) : (e.push a b c d).sys = e.sys := by cases e; rfl
@[simp] theorem push_pwr (e : Engine) (a b c d : Nat) : (e.push a b c d).pwr = e.pwr := by cases e; rfl
@[simp] theorem push_lanes (e : Engine) (a b c d : Nat) : (e.push a b c d).lanes = e.lanes := by cases e; rfl
@[simp] theorem push_pods (e : Engine) (a b c d : Nat) : (e.push a b c d).pods = e.pods := by cases e; rfl
@[simp] theorem push_bus (e : Engine) (a b c d : Nat) : (e.push a b c d).bus = e.bus := by cases e; rfl
@[simp] theorem push_tdc (e : Engine) (a b c d : Nat) : (e.push a b c d).tdc = e.tdc := by cases e; rfl
@[simp] theorem push_seq (e : Engine) (a b c d : Nat) : (e.push a b c d).seq = e.seq := by cases e; rfl
@[simp] theorem push_recb (e : Engine) (a b c d : Nat) : (e.push a b c d).recb = e.recb := by cases e; rfl
@[simp] theorem push_stg (e : Engine) (a b c d : Nat) : (e.push a b c d).stg = e.stg := by cases e; rfl
@[simp] theorem push_mem (e : Engine) (a b c d : Nat) : (e.push a b c d).mem = e.mem := by cases e; rfl
@[simp] theorem push_job (e : Engine) (a b c d : Nat) : (e.push a b c d).job = e.job := by cases e; rfl
@[simp] theorem push_host (e : Engine) (a b c d : Nat) : (e.push a b c d).host = e.host := by cases e; rfl
@[simp] theorem push_i2c (e : Engine) (a b c d : Nat) : (e.push a b c d).i2c = e.i2c := by cases e; rfl
@[simp] theorem push_hinge (e : Engine) (a b c d : Nat) : (e.push a b c d).hinge = e.hinge := by cases e; rfl
@[simp] theorem push_sec (e : Engine) (a b c d : Nat) : (e.push a b c d).sec = e.sec := by cases e; rfl
@[simp] theorem push_tap (e : Engine) (a b c d : Nat) : (e.push a b c d).tap = e.tap := by cases e; rfl
@[simp] theorem push_latch (e : Engine) (a b c d : Nat) : (e.push a b c d).latch = e.latch := by cases e; rfl
@[simp] theorem push_tx (e : Engine) (a b c d : Nat) : (e.push a b c d).tx = e.tx := by cases e; rfl

/-! ### pushIf -/

@[simp] theorem pushIf_regs (e : Engine) (w : Bool) (a b c d : Nat) : (e.pushIf w a b c d).regs = e.regs := by unfold pushIf; split <;> rfl
@[simp] theorem pushIf_cyc (e : Engine) (w : Bool) (a b c d : Nat) : (e.pushIf w a b c d).cyc = e.cyc := by unfold pushIf; split <;> rfl
@[simp] theorem pushIf_time (e : Engine) (w : Bool) (a b c d : Nat) : (e.pushIf w a b c d).time = e.time := by unfold pushIf; split <;> rfl
@[simp] theorem pushIf_clk (e : Engine) (w : Bool) (a b c d : Nat) : (e.pushIf w a b c d).clk = e.clk := by unfold pushIf; split <;> rfl
@[simp] theorem pushIf_tide (e : Engine) (w : Bool) (a b c d : Nat) : (e.pushIf w a b c d).tide = e.tide := by unfold pushIf; split <;> rfl
@[simp] theorem pushIf_sys (e : Engine) (w : Bool) (a b c d : Nat) : (e.pushIf w a b c d).sys = e.sys := by unfold pushIf; split <;> rfl
@[simp] theorem pushIf_pwr (e : Engine) (w : Bool) (a b c d : Nat) : (e.pushIf w a b c d).pwr = e.pwr := by unfold pushIf; split <;> rfl
@[simp] theorem pushIf_lanes (e : Engine) (w : Bool) (a b c d : Nat) : (e.pushIf w a b c d).lanes = e.lanes := by unfold pushIf; split <;> rfl
@[simp] theorem pushIf_pods (e : Engine) (w : Bool) (a b c d : Nat) : (e.pushIf w a b c d).pods = e.pods := by unfold pushIf; split <;> rfl
@[simp] theorem pushIf_bus (e : Engine) (w : Bool) (a b c d : Nat) : (e.pushIf w a b c d).bus = e.bus := by unfold pushIf; split <;> rfl
@[simp] theorem pushIf_tdc (e : Engine) (w : Bool) (a b c d : Nat) : (e.pushIf w a b c d).tdc = e.tdc := by unfold pushIf; split <;> rfl
@[simp] theorem pushIf_seq (e : Engine) (w : Bool) (a b c d : Nat) : (e.pushIf w a b c d).seq = e.seq := by unfold pushIf; split <;> rfl
@[simp] theorem pushIf_recb (e : Engine) (w : Bool) (a b c d : Nat) : (e.pushIf w a b c d).recb = e.recb := by unfold pushIf; split <;> rfl
@[simp] theorem pushIf_stg (e : Engine) (w : Bool) (a b c d : Nat) : (e.pushIf w a b c d).stg = e.stg := by unfold pushIf; split <;> rfl
@[simp] theorem pushIf_mem (e : Engine) (w : Bool) (a b c d : Nat) : (e.pushIf w a b c d).mem = e.mem := by unfold pushIf; split <;> rfl
@[simp] theorem pushIf_job (e : Engine) (w : Bool) (a b c d : Nat) : (e.pushIf w a b c d).job = e.job := by unfold pushIf; split <;> rfl
@[simp] theorem pushIf_host (e : Engine) (w : Bool) (a b c d : Nat) : (e.pushIf w a b c d).host = e.host := by unfold pushIf; split <;> rfl
@[simp] theorem pushIf_i2c (e : Engine) (w : Bool) (a b c d : Nat) : (e.pushIf w a b c d).i2c = e.i2c := by unfold pushIf; split <;> rfl
@[simp] theorem pushIf_hinge (e : Engine) (w : Bool) (a b c d : Nat) : (e.pushIf w a b c d).hinge = e.hinge := by unfold pushIf; split <;> rfl
@[simp] theorem pushIf_sec (e : Engine) (w : Bool) (a b c d : Nat) : (e.pushIf w a b c d).sec = e.sec := by unfold pushIf; split <;> rfl
@[simp] theorem pushIf_tap (e : Engine) (w : Bool) (a b c d : Nat) : (e.pushIf w a b c d).tap = e.tap := by unfold pushIf; split <;> rfl
@[simp] theorem pushIf_latch (e : Engine) (w : Bool) (a b c d : Nat) : (e.pushIf w a b c d).latch = e.latch := by unfold pushIf; split <;> rfl
@[simp] theorem pushIf_tx (e : Engine) (w : Bool) (a b c d : Nat) : (e.pushIf w a b c d).tx = e.tx := by unfold pushIf; split <;> rfl

/-! ### linkWake -/

@[simp] theorem linkWake_regs (e : Engine) : (e.linkWake).regs = e.regs := by unfold linkWake; split <;> rfl
@[simp] theorem linkWake_cyc (e : Engine) : (e.linkWake).cyc = e.cyc := by unfold linkWake; split <;> rfl
@[simp] theorem linkWake_time (e : Engine) : (e.linkWake).time = e.time := by unfold linkWake; split <;> rfl
@[simp] theorem linkWake_clk (e : Engine) : (e.linkWake).clk = e.clk := by unfold linkWake; split <;> rfl
@[simp] theorem linkWake_tide (e : Engine) : (e.linkWake).tide = e.tide := by unfold linkWake; split <;> rfl
@[simp] theorem linkWake_sys (e : Engine) : (e.linkWake).sys = e.sys := by unfold linkWake; split <;> rfl
@[simp] theorem linkWake_pwr (e : Engine) : (e.linkWake).pwr = e.pwr := by unfold linkWake; split <;> rfl
@[simp] theorem linkWake_lanes (e : Engine) : (e.linkWake).lanes = e.lanes := by unfold linkWake; split <;> rfl
@[simp] theorem linkWake_pods (e : Engine) : (e.linkWake).pods = e.pods := by unfold linkWake; split <;> rfl
@[simp] theorem linkWake_bus (e : Engine) : (e.linkWake).bus = e.bus := by unfold linkWake; split <;> rfl
@[simp] theorem linkWake_tdc (e : Engine) : (e.linkWake).tdc = e.tdc := by unfold linkWake; split <;> rfl
@[simp] theorem linkWake_seq (e : Engine) : (e.linkWake).seq = e.seq := by unfold linkWake; split <;> rfl
@[simp] theorem linkWake_recb (e : Engine) : (e.linkWake).recb = e.recb := by unfold linkWake; split <;> rfl
@[simp] theorem linkWake_stg (e : Engine) : (e.linkWake).stg = e.stg := by unfold linkWake; split <;> rfl
@[simp] theorem linkWake_mem (e : Engine) : (e.linkWake).mem = e.mem := by unfold linkWake; split <;> rfl
@[simp] theorem linkWake_job (e : Engine) : (e.linkWake).job = e.job := by unfold linkWake; split <;> rfl
@[simp] theorem linkWake_i2c (e : Engine) : (e.linkWake).i2c = e.i2c := by unfold linkWake; split <;> rfl
@[simp] theorem linkWake_hinge (e : Engine) : (e.linkWake).hinge = e.hinge := by unfold linkWake; split <;> rfl
@[simp] theorem linkWake_sec (e : Engine) : (e.linkWake).sec = e.sec := by unfold linkWake; split <;> rfl
@[simp] theorem linkWake_tap (e : Engine) : (e.linkWake).tap = e.tap := by unfold linkWake; split <;> rfl
@[simp] theorem linkWake_latch (e : Engine) : (e.linkWake).latch = e.latch := by unfold linkWake; split <;> rfl
@[simp] theorem linkWake_arriving (e : Engine) : (e.linkWake).arriving = e.arriving := by unfold linkWake; split <;> rfl
@[simp] theorem linkWake_tx (e : Engine) : (e.linkWake).tx = e.tx := by unfold linkWake; split <;> rfl

/-! ### emit -/

@[simp] theorem emit_regs (e : Engine) (x : Tx) : (e.emit x).regs = e.regs := by unfold emit; split <;> simp
@[simp] theorem emit_cyc (e : Engine) (x : Tx) : (e.emit x).cyc = e.cyc := by unfold emit; split <;> simp
@[simp] theorem emit_time (e : Engine) (x : Tx) : (e.emit x).time = e.time := by unfold emit; split <;> simp
@[simp] theorem emit_clk (e : Engine) (x : Tx) : (e.emit x).clk = e.clk := by unfold emit; split <;> simp
@[simp] theorem emit_tide (e : Engine) (x : Tx) : (e.emit x).tide = e.tide := by unfold emit; split <;> simp
@[simp] theorem emit_sys (e : Engine) (x : Tx) : (e.emit x).sys = e.sys := by unfold emit; split <;> simp
@[simp] theorem emit_pwr (e : Engine) (x : Tx) : (e.emit x).pwr = e.pwr := by unfold emit; split <;> simp
@[simp] theorem emit_lanes (e : Engine) (x : Tx) : (e.emit x).lanes = e.lanes := by unfold emit; split <;> simp
@[simp] theorem emit_pods (e : Engine) (x : Tx) : (e.emit x).pods = e.pods := by unfold emit; split <;> simp
@[simp] theorem emit_bus (e : Engine) (x : Tx) : (e.emit x).bus = e.bus := by unfold emit; split <;> simp
@[simp] theorem emit_tdc (e : Engine) (x : Tx) : (e.emit x).tdc = e.tdc := by unfold emit; split <;> simp
@[simp] theorem emit_seq (e : Engine) (x : Tx) : (e.emit x).seq = e.seq := by unfold emit; split <;> simp
@[simp] theorem emit_recb (e : Engine) (x : Tx) : (e.emit x).recb = e.recb := by unfold emit; split <;> simp
@[simp] theorem emit_stg (e : Engine) (x : Tx) : (e.emit x).stg = e.stg := by unfold emit; split <;> simp
@[simp] theorem emit_mem (e : Engine) (x : Tx) : (e.emit x).mem = e.mem := by unfold emit; split <;> simp
@[simp] theorem emit_job (e : Engine) (x : Tx) : (e.emit x).job = e.job := by unfold emit; split <;> simp
@[simp] theorem emit_i2c (e : Engine) (x : Tx) : (e.emit x).i2c = e.i2c := by unfold emit; split <;> simp
@[simp] theorem emit_hinge (e : Engine) (x : Tx) : (e.emit x).hinge = e.hinge := by unfold emit; split <;> simp
@[simp] theorem emit_sec (e : Engine) (x : Tx) : (e.emit x).sec = e.sec := by unfold emit; split <;> simp
@[simp] theorem emit_tap (e : Engine) (x : Tx) : (e.emit x).tap = e.tap := by unfold emit; split <;> simp
@[simp] theorem emit_latch (e : Engine) (x : Tx) : (e.emit x).latch = e.latch := by unfold emit; split <;> simp
@[simp] theorem emit_arriving (e : Engine) (x : Tx) : (e.emit x).arriving = e.arriving := by unfold emit; split <;> simp

/-! ### send -/

@[simp] theorem send_regs (e : Engine) (x : Tx) : (e.send x).regs = e.regs := by unfold send; split <;> simp
@[simp] theorem send_cyc (e : Engine) (x : Tx) : (e.send x).cyc = e.cyc := by unfold send; split <;> simp
@[simp] theorem send_time (e : Engine) (x : Tx) : (e.send x).time = e.time := by unfold send; split <;> simp
@[simp] theorem send_clk (e : Engine) (x : Tx) : (e.send x).clk = e.clk := by unfold send; split <;> simp
@[simp] theorem send_tide (e : Engine) (x : Tx) : (e.send x).tide = e.tide := by unfold send; split <;> simp
@[simp] theorem send_sys (e : Engine) (x : Tx) : (e.send x).sys = e.sys := by unfold send; split <;> simp
@[simp] theorem send_pwr (e : Engine) (x : Tx) : (e.send x).pwr = e.pwr := by unfold send; split <;> simp
@[simp] theorem send_lanes (e : Engine) (x : Tx) : (e.send x).lanes = e.lanes := by unfold send; split <;> simp
@[simp] theorem send_pods (e : Engine) (x : Tx) : (e.send x).pods = e.pods := by unfold send; split <;> simp
@[simp] theorem send_bus (e : Engine) (x : Tx) : (e.send x).bus = e.bus := by unfold send; split <;> simp
@[simp] theorem send_tdc (e : Engine) (x : Tx) : (e.send x).tdc = e.tdc := by unfold send; split <;> simp
@[simp] theorem send_seq (e : Engine) (x : Tx) : (e.send x).seq = e.seq := by unfold send; split <;> simp
@[simp] theorem send_recb (e : Engine) (x : Tx) : (e.send x).recb = e.recb := by unfold send; split <;> simp
@[simp] theorem send_stg (e : Engine) (x : Tx) : (e.send x).stg = e.stg := by unfold send; split <;> simp
@[simp] theorem send_mem (e : Engine) (x : Tx) : (e.send x).mem = e.mem := by unfold send; split <;> simp
@[simp] theorem send_i2c (e : Engine) (x : Tx) : (e.send x).i2c = e.i2c := by unfold send; split <;> simp
@[simp] theorem send_hinge (e : Engine) (x : Tx) : (e.send x).hinge = e.hinge := by unfold send; split <;> simp
@[simp] theorem send_sec (e : Engine) (x : Tx) : (e.send x).sec = e.sec := by unfold send; split <;> simp
@[simp] theorem send_tap (e : Engine) (x : Tx) : (e.send x).tap = e.tap := by unfold send; split <;> simp
@[simp] theorem send_latch (e : Engine) (x : Tx) : (e.send x).latch = e.latch := by unfold send; split <;> simp
@[simp] theorem send_arriving (e : Engine) (x : Tx) : (e.send x).arriving = e.arriving := by unfold send; split <;> simp

/-! ### complete -/

@[simp] theorem complete_regs (e : Engine) (n : Nat) (c : CplStatus) (d : List Word) (b : Bool) : (e.complete n c d b).regs = e.regs := by unfold complete; simp
@[simp] theorem complete_cyc (e : Engine) (n : Nat) (c : CplStatus) (d : List Word) (b : Bool) : (e.complete n c d b).cyc = e.cyc := by unfold complete; simp
@[simp] theorem complete_time (e : Engine) (n : Nat) (c : CplStatus) (d : List Word) (b : Bool) : (e.complete n c d b).time = e.time := by unfold complete; simp
@[simp] theorem complete_clk (e : Engine) (n : Nat) (c : CplStatus) (d : List Word) (b : Bool) : (e.complete n c d b).clk = e.clk := by unfold complete; simp
@[simp] theorem complete_tide (e : Engine) (n : Nat) (c : CplStatus) (d : List Word) (b : Bool) : (e.complete n c d b).tide = e.tide := by unfold complete; simp
@[simp] theorem complete_sys (e : Engine) (n : Nat) (c : CplStatus) (d : List Word) (b : Bool) : (e.complete n c d b).sys = e.sys := by unfold complete; simp
@[simp] theorem complete_pwr (e : Engine) (n : Nat) (c : CplStatus) (d : List Word) (b : Bool) : (e.complete n c d b).pwr = e.pwr := by unfold complete; simp
@[simp] theorem complete_lanes (e : Engine) (n : Nat) (c : CplStatus) (d : List Word) (b : Bool) : (e.complete n c d b).lanes = e.lanes := by unfold complete; simp
@[simp] theorem complete_pods (e : Engine) (n : Nat) (c : CplStatus) (d : List Word) (b : Bool) : (e.complete n c d b).pods = e.pods := by unfold complete; simp
@[simp] theorem complete_bus (e : Engine) (n : Nat) (c : CplStatus) (d : List Word) (b : Bool) : (e.complete n c d b).bus = e.bus := by unfold complete; simp
@[simp] theorem complete_tdc (e : Engine) (n : Nat) (c : CplStatus) (d : List Word) (b : Bool) : (e.complete n c d b).tdc = e.tdc := by unfold complete; simp
@[simp] theorem complete_seq (e : Engine) (n : Nat) (c : CplStatus) (d : List Word) (b : Bool) : (e.complete n c d b).seq = e.seq := by unfold complete; simp
@[simp] theorem complete_recb (e : Engine) (n : Nat) (c : CplStatus) (d : List Word) (b : Bool) : (e.complete n c d b).recb = e.recb := by unfold complete; simp
@[simp] theorem complete_stg (e : Engine) (n : Nat) (c : CplStatus) (d : List Word) (b : Bool) : (e.complete n c d b).stg = e.stg := by unfold complete; simp
@[simp] theorem complete_mem (e : Engine) (n : Nat) (c : CplStatus) (d : List Word) (b : Bool) : (e.complete n c d b).mem = e.mem := by unfold complete; simp
@[simp] theorem complete_i2c (e : Engine) (n : Nat) (c : CplStatus) (d : List Word) (b : Bool) : (e.complete n c d b).i2c = e.i2c := by unfold complete; simp
@[simp] theorem complete_hinge (e : Engine) (n : Nat) (c : CplStatus) (d : List Word) (b : Bool) : (e.complete n c d b).hinge = e.hinge := by unfold complete; simp
@[simp] theorem complete_sec (e : Engine) (n : Nat) (c : CplStatus) (d : List Word) (b : Bool) : (e.complete n c d b).sec = e.sec := by unfold complete; simp
@[simp] theorem complete_tap (e : Engine) (n : Nat) (c : CplStatus) (d : List Word) (b : Bool) : (e.complete n c d b).tap = e.tap := by unfold complete; simp
@[simp] theorem complete_latch (e : Engine) (n : Nat) (c : CplStatus) (d : List Word) (b : Bool) : (e.complete n c d b).latch = e.latch := by unfold complete; simp
@[simp] theorem complete_arriving (e : Engine) (n : Nat) (c : CplStatus) (d : List Word) (b : Bool) : (e.complete n c d b).arriving = e.arriving := by unfold complete; simp

/-! ### setLane -/

@[simp] theorem setLane_regs (e : Engine) (i : Nat) (f : Lane → Lane) : (e.setLane i f).regs = e.regs := by cases e; rfl
@[simp] theorem setLane_cyc (e : Engine) (i : Nat) (f : Lane → Lane) : (e.setLane i f).cyc = e.cyc := by cases e; rfl
@[simp] theorem setLane_time (e : Engine) (i : Nat) (f : Lane → Lane) : (e.setLane i f).time = e.time := by cases e; rfl
@[simp] theorem setLane_clk (e : Engine) (i : Nat) (f : Lane → Lane) : (e.setLane i f).clk = e.clk := by cases e; rfl
@[simp] theorem setLane_tide (e : Engine) (i : Nat) (f : Lane → Lane) : (e.setLane i f).tide = e.tide := by cases e; rfl
@[simp] theorem setLane_sys (e : Engine) (i : Nat) (f : Lane → Lane) : (e.setLane i f).sys = e.sys := by cases e; rfl
@[simp] theorem setLane_pwr (e : Engine) (i : Nat) (f : Lane → Lane) : (e.setLane i f).pwr = e.pwr := by cases e; rfl
@[simp] theorem setLane_pods (e : Engine) (i : Nat) (f : Lane → Lane) : (e.setLane i f).pods = e.pods := by cases e; rfl
@[simp] theorem setLane_bus (e : Engine) (i : Nat) (f : Lane → Lane) : (e.setLane i f).bus = e.bus := by cases e; rfl
@[simp] theorem setLane_tdc (e : Engine) (i : Nat) (f : Lane → Lane) : (e.setLane i f).tdc = e.tdc := by cases e; rfl
@[simp] theorem setLane_seq (e : Engine) (i : Nat) (f : Lane → Lane) : (e.setLane i f).seq = e.seq := by cases e; rfl
@[simp] theorem setLane_recb (e : Engine) (i : Nat) (f : Lane → Lane) : (e.setLane i f).recb = e.recb := by cases e; rfl
@[simp] theorem setLane_stg (e : Engine) (i : Nat) (f : Lane → Lane) : (e.setLane i f).stg = e.stg := by cases e; rfl
@[simp] theorem setLane_mem (e : Engine) (i : Nat) (f : Lane → Lane) : (e.setLane i f).mem = e.mem := by cases e; rfl
@[simp] theorem setLane_job (e : Engine) (i : Nat) (f : Lane → Lane) : (e.setLane i f).job = e.job := by cases e; rfl
@[simp] theorem setLane_host (e : Engine) (i : Nat) (f : Lane → Lane) : (e.setLane i f).host = e.host := by cases e; rfl
@[simp] theorem setLane_i2c (e : Engine) (i : Nat) (f : Lane → Lane) : (e.setLane i f).i2c = e.i2c := by cases e; rfl
@[simp] theorem setLane_hinge (e : Engine) (i : Nat) (f : Lane → Lane) : (e.setLane i f).hinge = e.hinge := by cases e; rfl
@[simp] theorem setLane_sec (e : Engine) (i : Nat) (f : Lane → Lane) : (e.setLane i f).sec = e.sec := by cases e; rfl
@[simp] theorem setLane_tap (e : Engine) (i : Nat) (f : Lane → Lane) : (e.setLane i f).tap = e.tap := by cases e; rfl
@[simp] theorem setLane_latch (e : Engine) (i : Nat) (f : Lane → Lane) : (e.setLane i f).latch = e.latch := by cases e; rfl
@[simp] theorem setLane_arriving (e : Engine) (i : Nat) (f : Lane → Lane) : (e.setLane i f).arriving = e.arriving := by cases e; rfl
@[simp] theorem setLane_tx (e : Engine) (i : Nat) (f : Lane → Lane) : (e.setLane i f).tx = e.tx := by cases e; rfl

/-! ### setPod -/

@[simp] theorem setPod_regs (e : Engine) (i : Nat) (f : Pod → Pod) : (e.setPod i f).regs = e.regs := by cases e; rfl
@[simp] theorem setPod_cyc (e : Engine) (i : Nat) (f : Pod → Pod) : (e.setPod i f).cyc = e.cyc := by cases e; rfl
@[simp] theorem setPod_time (e : Engine) (i : Nat) (f : Pod → Pod) : (e.setPod i f).time = e.time := by cases e; rfl
@[simp] theorem setPod_clk (e : Engine) (i : Nat) (f : Pod → Pod) : (e.setPod i f).clk = e.clk := by cases e; rfl
@[simp] theorem setPod_tide (e : Engine) (i : Nat) (f : Pod → Pod) : (e.setPod i f).tide = e.tide := by cases e; rfl
@[simp] theorem setPod_sys (e : Engine) (i : Nat) (f : Pod → Pod) : (e.setPod i f).sys = e.sys := by cases e; rfl
@[simp] theorem setPod_pwr (e : Engine) (i : Nat) (f : Pod → Pod) : (e.setPod i f).pwr = e.pwr := by cases e; rfl
@[simp] theorem setPod_lanes (e : Engine) (i : Nat) (f : Pod → Pod) : (e.setPod i f).lanes = e.lanes := by cases e; rfl
@[simp] theorem setPod_bus (e : Engine) (i : Nat) (f : Pod → Pod) : (e.setPod i f).bus = e.bus := by cases e; rfl
@[simp] theorem setPod_tdc (e : Engine) (i : Nat) (f : Pod → Pod) : (e.setPod i f).tdc = e.tdc := by cases e; rfl
@[simp] theorem setPod_seq (e : Engine) (i : Nat) (f : Pod → Pod) : (e.setPod i f).seq = e.seq := by cases e; rfl
@[simp] theorem setPod_recb (e : Engine) (i : Nat) (f : Pod → Pod) : (e.setPod i f).recb = e.recb := by cases e; rfl
@[simp] theorem setPod_stg (e : Engine) (i : Nat) (f : Pod → Pod) : (e.setPod i f).stg = e.stg := by cases e; rfl
@[simp] theorem setPod_mem (e : Engine) (i : Nat) (f : Pod → Pod) : (e.setPod i f).mem = e.mem := by cases e; rfl
@[simp] theorem setPod_job (e : Engine) (i : Nat) (f : Pod → Pod) : (e.setPod i f).job = e.job := by cases e; rfl
@[simp] theorem setPod_host (e : Engine) (i : Nat) (f : Pod → Pod) : (e.setPod i f).host = e.host := by cases e; rfl
@[simp] theorem setPod_i2c (e : Engine) (i : Nat) (f : Pod → Pod) : (e.setPod i f).i2c = e.i2c := by cases e; rfl
@[simp] theorem setPod_hinge (e : Engine) (i : Nat) (f : Pod → Pod) : (e.setPod i f).hinge = e.hinge := by cases e; rfl
@[simp] theorem setPod_sec (e : Engine) (i : Nat) (f : Pod → Pod) : (e.setPod i f).sec = e.sec := by cases e; rfl
@[simp] theorem setPod_tap (e : Engine) (i : Nat) (f : Pod → Pod) : (e.setPod i f).tap = e.tap := by cases e; rfl
@[simp] theorem setPod_latch (e : Engine) (i : Nat) (f : Pod → Pod) : (e.setPod i f).latch = e.latch := by cases e; rfl
@[simp] theorem setPod_arriving (e : Engine) (i : Nat) (f : Pod → Pod) : (e.setPod i f).arriving = e.arriving := by cases e; rfl
@[simp] theorem setPod_tx (e : Engine) (i : Nat) (f : Pod → Pod) : (e.setPod i f).tx = e.tx := by cases e; rfl

/-! ### setTin -/

@[simp] theorem setTin_regs (e : Engine) (i : Nat) (f : Tin → Tin) : (e.setTin i f).regs = e.regs := by cases e; rfl
@[simp] theorem setTin_cyc (e : Engine) (i : Nat) (f : Tin → Tin) : (e.setTin i f).cyc = e.cyc := by cases e; rfl
@[simp] theorem setTin_time (e : Engine) (i : Nat) (f : Tin → Tin) : (e.setTin i f).time = e.time := by cases e; rfl
@[simp] theorem setTin_clk (e : Engine) (i : Nat) (f : Tin → Tin) : (e.setTin i f).clk = e.clk := by cases e; rfl
@[simp] theorem setTin_tide (e : Engine) (i : Nat) (f : Tin → Tin) : (e.setTin i f).tide = e.tide := by cases e; rfl
@[simp] theorem setTin_sys (e : Engine) (i : Nat) (f : Tin → Tin) : (e.setTin i f).sys = e.sys := by cases e; rfl
@[simp] theorem setTin_pwr (e : Engine) (i : Nat) (f : Tin → Tin) : (e.setTin i f).pwr = e.pwr := by cases e; rfl
@[simp] theorem setTin_lanes (e : Engine) (i : Nat) (f : Tin → Tin) : (e.setTin i f).lanes = e.lanes := by cases e; rfl
@[simp] theorem setTin_pods (e : Engine) (i : Nat) (f : Tin → Tin) : (e.setTin i f).pods = e.pods := by cases e; rfl
@[simp] theorem setTin_bus (e : Engine) (i : Nat) (f : Tin → Tin) : (e.setTin i f).bus = e.bus := by cases e; rfl
@[simp] theorem setTin_seq (e : Engine) (i : Nat) (f : Tin → Tin) : (e.setTin i f).seq = e.seq := by cases e; rfl
@[simp] theorem setTin_recb (e : Engine) (i : Nat) (f : Tin → Tin) : (e.setTin i f).recb = e.recb := by cases e; rfl
@[simp] theorem setTin_stg (e : Engine) (i : Nat) (f : Tin → Tin) : (e.setTin i f).stg = e.stg := by cases e; rfl
@[simp] theorem setTin_mem (e : Engine) (i : Nat) (f : Tin → Tin) : (e.setTin i f).mem = e.mem := by cases e; rfl
@[simp] theorem setTin_job (e : Engine) (i : Nat) (f : Tin → Tin) : (e.setTin i f).job = e.job := by cases e; rfl
@[simp] theorem setTin_host (e : Engine) (i : Nat) (f : Tin → Tin) : (e.setTin i f).host = e.host := by cases e; rfl
@[simp] theorem setTin_i2c (e : Engine) (i : Nat) (f : Tin → Tin) : (e.setTin i f).i2c = e.i2c := by cases e; rfl
@[simp] theorem setTin_hinge (e : Engine) (i : Nat) (f : Tin → Tin) : (e.setTin i f).hinge = e.hinge := by cases e; rfl
@[simp] theorem setTin_sec (e : Engine) (i : Nat) (f : Tin → Tin) : (e.setTin i f).sec = e.sec := by cases e; rfl
@[simp] theorem setTin_tap (e : Engine) (i : Nat) (f : Tin → Tin) : (e.setTin i f).tap = e.tap := by cases e; rfl
@[simp] theorem setTin_latch (e : Engine) (i : Nat) (f : Tin → Tin) : (e.setTin i f).latch = e.latch := by cases e; rfl
@[simp] theorem setTin_arriving (e : Engine) (i : Nat) (f : Tin → Tin) : (e.setTin i f).arriving = e.arriving := by cases e; rfl
@[simp] theorem setTin_tx (e : Engine) (i : Nat) (f : Tin → Tin) : (e.setTin i f).tx = e.tx := by cases e; rfl

/-! ### setUnit -/

@[simp] theorem setUnit_regs (e : Engine) (i : Nat) (f : DiffUnit → DiffUnit) : (e.setUnit i f).regs = e.regs := by cases e; rfl
@[simp] theorem setUnit_cyc (e : Engine) (i : Nat) (f : DiffUnit → DiffUnit) : (e.setUnit i f).cyc = e.cyc := by cases e; rfl
@[simp] theorem setUnit_time (e : Engine) (i : Nat) (f : DiffUnit → DiffUnit) : (e.setUnit i f).time = e.time := by cases e; rfl
@[simp] theorem setUnit_clk (e : Engine) (i : Nat) (f : DiffUnit → DiffUnit) : (e.setUnit i f).clk = e.clk := by cases e; rfl
@[simp] theorem setUnit_tide (e : Engine) (i : Nat) (f : DiffUnit → DiffUnit) : (e.setUnit i f).tide = e.tide := by cases e; rfl
@[simp] theorem setUnit_sys (e : Engine) (i : Nat) (f : DiffUnit → DiffUnit) : (e.setUnit i f).sys = e.sys := by cases e; rfl
@[simp] theorem setUnit_pwr (e : Engine) (i : Nat) (f : DiffUnit → DiffUnit) : (e.setUnit i f).pwr = e.pwr := by cases e; rfl
@[simp] theorem setUnit_lanes (e : Engine) (i : Nat) (f : DiffUnit → DiffUnit) : (e.setUnit i f).lanes = e.lanes := by cases e; rfl
@[simp] theorem setUnit_pods (e : Engine) (i : Nat) (f : DiffUnit → DiffUnit) : (e.setUnit i f).pods = e.pods := by cases e; rfl
@[simp] theorem setUnit_bus (e : Engine) (i : Nat) (f : DiffUnit → DiffUnit) : (e.setUnit i f).bus = e.bus := by cases e; rfl
@[simp] theorem setUnit_seq (e : Engine) (i : Nat) (f : DiffUnit → DiffUnit) : (e.setUnit i f).seq = e.seq := by cases e; rfl
@[simp] theorem setUnit_recb (e : Engine) (i : Nat) (f : DiffUnit → DiffUnit) : (e.setUnit i f).recb = e.recb := by cases e; rfl
@[simp] theorem setUnit_stg (e : Engine) (i : Nat) (f : DiffUnit → DiffUnit) : (e.setUnit i f).stg = e.stg := by cases e; rfl
@[simp] theorem setUnit_mem (e : Engine) (i : Nat) (f : DiffUnit → DiffUnit) : (e.setUnit i f).mem = e.mem := by cases e; rfl
@[simp] theorem setUnit_job (e : Engine) (i : Nat) (f : DiffUnit → DiffUnit) : (e.setUnit i f).job = e.job := by cases e; rfl
@[simp] theorem setUnit_host (e : Engine) (i : Nat) (f : DiffUnit → DiffUnit) : (e.setUnit i f).host = e.host := by cases e; rfl
@[simp] theorem setUnit_i2c (e : Engine) (i : Nat) (f : DiffUnit → DiffUnit) : (e.setUnit i f).i2c = e.i2c := by cases e; rfl
@[simp] theorem setUnit_hinge (e : Engine) (i : Nat) (f : DiffUnit → DiffUnit) : (e.setUnit i f).hinge = e.hinge := by cases e; rfl
@[simp] theorem setUnit_sec (e : Engine) (i : Nat) (f : DiffUnit → DiffUnit) : (e.setUnit i f).sec = e.sec := by cases e; rfl
@[simp] theorem setUnit_tap (e : Engine) (i : Nat) (f : DiffUnit → DiffUnit) : (e.setUnit i f).tap = e.tap := by cases e; rfl
@[simp] theorem setUnit_latch (e : Engine) (i : Nat) (f : DiffUnit → DiffUnit) : (e.setUnit i f).latch = e.latch := by cases e; rfl
@[simp] theorem setUnit_arriving (e : Engine) (i : Nat) (f : DiffUnit → DiffUnit) : (e.setUnit i f).arriving = e.arriving := by cases e; rfl
@[simp] theorem setUnit_tx (e : Engine) (i : Nat) (f : DiffUnit → DiffUnit) : (e.setUnit i f).tx = e.tx := by cases e; rfl

/-! ### setStream -/

@[simp] theorem setStream_regs (e : Engine) (i : Nat) (f : Stream → Stream) : (e.setStream i f).regs = e.regs := by cases e; rfl
@[simp] theorem setStream_cyc (e : Engine) (i : Nat) (f : Stream → Stream) : (e.setStream i f).cyc = e.cyc := by cases e; rfl
@[simp] theorem setStream_time (e : Engine) (i : Nat) (f : Stream → Stream) : (e.setStream i f).time = e.time := by cases e; rfl
@[simp] theorem setStream_clk (e : Engine) (i : Nat) (f : Stream → Stream) : (e.setStream i f).clk = e.clk := by cases e; rfl
@[simp] theorem setStream_tide (e : Engine) (i : Nat) (f : Stream → Stream) : (e.setStream i f).tide = e.tide := by cases e; rfl
@[simp] theorem setStream_sys (e : Engine) (i : Nat) (f : Stream → Stream) : (e.setStream i f).sys = e.sys := by cases e; rfl
@[simp] theorem setStream_pwr (e : Engine) (i : Nat) (f : Stream → Stream) : (e.setStream i f).pwr = e.pwr := by cases e; rfl
@[simp] theorem setStream_lanes (e : Engine) (i : Nat) (f : Stream → Stream) : (e.setStream i f).lanes = e.lanes := by cases e; rfl
@[simp] theorem setStream_pods (e : Engine) (i : Nat) (f : Stream → Stream) : (e.setStream i f).pods = e.pods := by cases e; rfl
@[simp] theorem setStream_bus (e : Engine) (i : Nat) (f : Stream → Stream) : (e.setStream i f).bus = e.bus := by cases e; rfl
@[simp] theorem setStream_tdc (e : Engine) (i : Nat) (f : Stream → Stream) : (e.setStream i f).tdc = e.tdc := by cases e; rfl
@[simp] theorem setStream_seq (e : Engine) (i : Nat) (f : Stream → Stream) : (e.setStream i f).seq = e.seq := by cases e; rfl
@[simp] theorem setStream_stg (e : Engine) (i : Nat) (f : Stream → Stream) : (e.setStream i f).stg = e.stg := by cases e; rfl
@[simp] theorem setStream_mem (e : Engine) (i : Nat) (f : Stream → Stream) : (e.setStream i f).mem = e.mem := by cases e; rfl
@[simp] theorem setStream_job (e : Engine) (i : Nat) (f : Stream → Stream) : (e.setStream i f).job = e.job := by cases e; rfl
@[simp] theorem setStream_host (e : Engine) (i : Nat) (f : Stream → Stream) : (e.setStream i f).host = e.host := by cases e; rfl
@[simp] theorem setStream_i2c (e : Engine) (i : Nat) (f : Stream → Stream) : (e.setStream i f).i2c = e.i2c := by cases e; rfl
@[simp] theorem setStream_hinge (e : Engine) (i : Nat) (f : Stream → Stream) : (e.setStream i f).hinge = e.hinge := by cases e; rfl
@[simp] theorem setStream_sec (e : Engine) (i : Nat) (f : Stream → Stream) : (e.setStream i f).sec = e.sec := by cases e; rfl
@[simp] theorem setStream_tap (e : Engine) (i : Nat) (f : Stream → Stream) : (e.setStream i f).tap = e.tap := by cases e; rfl
@[simp] theorem setStream_latch (e : Engine) (i : Nat) (f : Stream → Stream) : (e.setStream i f).latch = e.latch := by cases e; rfl
@[simp] theorem setStream_arriving (e : Engine) (i : Nat) (f : Stream → Stream) : (e.setStream i f).arriving = e.arriving := by cases e; rfl
@[simp] theorem setStream_tx (e : Engine) (i : Nat) (f : Stream → Stream) : (e.setStream i f).tx = e.tx := by cases e; rfl

/-! ### setMem -/

@[simp] theorem setMem_regs (e : Engine) (i : Nat) (f : MemStream → MemStream) : (e.setMem i f).regs = e.regs := by cases e; rfl
@[simp] theorem setMem_cyc (e : Engine) (i : Nat) (f : MemStream → MemStream) : (e.setMem i f).cyc = e.cyc := by cases e; rfl
@[simp] theorem setMem_time (e : Engine) (i : Nat) (f : MemStream → MemStream) : (e.setMem i f).time = e.time := by cases e; rfl
@[simp] theorem setMem_clk (e : Engine) (i : Nat) (f : MemStream → MemStream) : (e.setMem i f).clk = e.clk := by cases e; rfl
@[simp] theorem setMem_tide (e : Engine) (i : Nat) (f : MemStream → MemStream) : (e.setMem i f).tide = e.tide := by cases e; rfl
@[simp] theorem setMem_sys (e : Engine) (i : Nat) (f : MemStream → MemStream) : (e.setMem i f).sys = e.sys := by cases e; rfl
@[simp] theorem setMem_pwr (e : Engine) (i : Nat) (f : MemStream → MemStream) : (e.setMem i f).pwr = e.pwr := by cases e; rfl
@[simp] theorem setMem_lanes (e : Engine) (i : Nat) (f : MemStream → MemStream) : (e.setMem i f).lanes = e.lanes := by cases e; rfl
@[simp] theorem setMem_pods (e : Engine) (i : Nat) (f : MemStream → MemStream) : (e.setMem i f).pods = e.pods := by cases e; rfl
@[simp] theorem setMem_bus (e : Engine) (i : Nat) (f : MemStream → MemStream) : (e.setMem i f).bus = e.bus := by cases e; rfl
@[simp] theorem setMem_tdc (e : Engine) (i : Nat) (f : MemStream → MemStream) : (e.setMem i f).tdc = e.tdc := by cases e; rfl
@[simp] theorem setMem_seq (e : Engine) (i : Nat) (f : MemStream → MemStream) : (e.setMem i f).seq = e.seq := by cases e; rfl
@[simp] theorem setMem_recb (e : Engine) (i : Nat) (f : MemStream → MemStream) : (e.setMem i f).recb = e.recb := by cases e; rfl
@[simp] theorem setMem_stg (e : Engine) (i : Nat) (f : MemStream → MemStream) : (e.setMem i f).stg = e.stg := by cases e; rfl
@[simp] theorem setMem_job (e : Engine) (i : Nat) (f : MemStream → MemStream) : (e.setMem i f).job = e.job := by cases e; rfl
@[simp] theorem setMem_host (e : Engine) (i : Nat) (f : MemStream → MemStream) : (e.setMem i f).host = e.host := by cases e; rfl
@[simp] theorem setMem_i2c (e : Engine) (i : Nat) (f : MemStream → MemStream) : (e.setMem i f).i2c = e.i2c := by cases e; rfl
@[simp] theorem setMem_hinge (e : Engine) (i : Nat) (f : MemStream → MemStream) : (e.setMem i f).hinge = e.hinge := by cases e; rfl
@[simp] theorem setMem_sec (e : Engine) (i : Nat) (f : MemStream → MemStream) : (e.setMem i f).sec = e.sec := by cases e; rfl
@[simp] theorem setMem_tap (e : Engine) (i : Nat) (f : MemStream → MemStream) : (e.setMem i f).tap = e.tap := by cases e; rfl
@[simp] theorem setMem_latch (e : Engine) (i : Nat) (f : MemStream → MemStream) : (e.setMem i f).latch = e.latch := by cases e; rfl
@[simp] theorem setMem_arriving (e : Engine) (i : Nat) (f : MemStream → MemStream) : (e.setMem i f).arriving = e.arriving := by cases e; rfl
@[simp] theorem setMem_tx (e : Engine) (i : Nat) (f : MemStream → MemStream) : (e.setMem i f).tx = e.tx := by cases e; rfl

/-! ### setEnt -/

@[simp] theorem setEnt_regs (e : Engine) (i : Nat) (f : JobEnt → JobEnt) : (e.setEnt i f).regs = e.regs := by cases e; rfl
@[simp] theorem setEnt_cyc (e : Engine) (i : Nat) (f : JobEnt → JobEnt) : (e.setEnt i f).cyc = e.cyc := by cases e; rfl
@[simp] theorem setEnt_time (e : Engine) (i : Nat) (f : JobEnt → JobEnt) : (e.setEnt i f).time = e.time := by cases e; rfl
@[simp] theorem setEnt_clk (e : Engine) (i : Nat) (f : JobEnt → JobEnt) : (e.setEnt i f).clk = e.clk := by cases e; rfl
@[simp] theorem setEnt_tide (e : Engine) (i : Nat) (f : JobEnt → JobEnt) : (e.setEnt i f).tide = e.tide := by cases e; rfl
@[simp] theorem setEnt_sys (e : Engine) (i : Nat) (f : JobEnt → JobEnt) : (e.setEnt i f).sys = e.sys := by cases e; rfl
@[simp] theorem setEnt_pwr (e : Engine) (i : Nat) (f : JobEnt → JobEnt) : (e.setEnt i f).pwr = e.pwr := by cases e; rfl
@[simp] theorem setEnt_lanes (e : Engine) (i : Nat) (f : JobEnt → JobEnt) : (e.setEnt i f).lanes = e.lanes := by cases e; rfl
@[simp] theorem setEnt_pods (e : Engine) (i : Nat) (f : JobEnt → JobEnt) : (e.setEnt i f).pods = e.pods := by cases e; rfl
@[simp] theorem setEnt_bus (e : Engine) (i : Nat) (f : JobEnt → JobEnt) : (e.setEnt i f).bus = e.bus := by cases e; rfl
@[simp] theorem setEnt_tdc (e : Engine) (i : Nat) (f : JobEnt → JobEnt) : (e.setEnt i f).tdc = e.tdc := by cases e; rfl
@[simp] theorem setEnt_seq (e : Engine) (i : Nat) (f : JobEnt → JobEnt) : (e.setEnt i f).seq = e.seq := by cases e; rfl
@[simp] theorem setEnt_recb (e : Engine) (i : Nat) (f : JobEnt → JobEnt) : (e.setEnt i f).recb = e.recb := by cases e; rfl
@[simp] theorem setEnt_stg (e : Engine) (i : Nat) (f : JobEnt → JobEnt) : (e.setEnt i f).stg = e.stg := by cases e; rfl
@[simp] theorem setEnt_mem (e : Engine) (i : Nat) (f : JobEnt → JobEnt) : (e.setEnt i f).mem = e.mem := by cases e; rfl
@[simp] theorem setEnt_host (e : Engine) (i : Nat) (f : JobEnt → JobEnt) : (e.setEnt i f).host = e.host := by cases e; rfl
@[simp] theorem setEnt_i2c (e : Engine) (i : Nat) (f : JobEnt → JobEnt) : (e.setEnt i f).i2c = e.i2c := by cases e; rfl
@[simp] theorem setEnt_hinge (e : Engine) (i : Nat) (f : JobEnt → JobEnt) : (e.setEnt i f).hinge = e.hinge := by cases e; rfl
@[simp] theorem setEnt_sec (e : Engine) (i : Nat) (f : JobEnt → JobEnt) : (e.setEnt i f).sec = e.sec := by cases e; rfl
@[simp] theorem setEnt_tap (e : Engine) (i : Nat) (f : JobEnt → JobEnt) : (e.setEnt i f).tap = e.tap := by cases e; rfl
@[simp] theorem setEnt_latch (e : Engine) (i : Nat) (f : JobEnt → JobEnt) : (e.setEnt i f).latch = e.latch := by cases e; rfl
@[simp] theorem setEnt_arriving (e : Engine) (i : Nat) (f : JobEnt → JobEnt) : (e.setEnt i f).arriving = e.arriving := by cases e; rfl
@[simp] theorem setEnt_tx (e : Engine) (i : Nat) (f : JobEnt → JobEnt) : (e.setEnt i f).tx = e.tx := by cases e; rfl

/-! ### setSlot -/

@[simp] theorem setSlot_regs (e : Engine) (i : Nat) (f : JobSlot → JobSlot) : (e.setSlot i f).regs = e.regs := by cases e; rfl
@[simp] theorem setSlot_cyc (e : Engine) (i : Nat) (f : JobSlot → JobSlot) : (e.setSlot i f).cyc = e.cyc := by cases e; rfl
@[simp] theorem setSlot_time (e : Engine) (i : Nat) (f : JobSlot → JobSlot) : (e.setSlot i f).time = e.time := by cases e; rfl
@[simp] theorem setSlot_clk (e : Engine) (i : Nat) (f : JobSlot → JobSlot) : (e.setSlot i f).clk = e.clk := by cases e; rfl
@[simp] theorem setSlot_tide (e : Engine) (i : Nat) (f : JobSlot → JobSlot) : (e.setSlot i f).tide = e.tide := by cases e; rfl
@[simp] theorem setSlot_sys (e : Engine) (i : Nat) (f : JobSlot → JobSlot) : (e.setSlot i f).sys = e.sys := by cases e; rfl
@[simp] theorem setSlot_pwr (e : Engine) (i : Nat) (f : JobSlot → JobSlot) : (e.setSlot i f).pwr = e.pwr := by cases e; rfl
@[simp] theorem setSlot_lanes (e : Engine) (i : Nat) (f : JobSlot → JobSlot) : (e.setSlot i f).lanes = e.lanes := by cases e; rfl
@[simp] theorem setSlot_pods (e : Engine) (i : Nat) (f : JobSlot → JobSlot) : (e.setSlot i f).pods = e.pods := by cases e; rfl
@[simp] theorem setSlot_bus (e : Engine) (i : Nat) (f : JobSlot → JobSlot) : (e.setSlot i f).bus = e.bus := by cases e; rfl
@[simp] theorem setSlot_tdc (e : Engine) (i : Nat) (f : JobSlot → JobSlot) : (e.setSlot i f).tdc = e.tdc := by cases e; rfl
@[simp] theorem setSlot_seq (e : Engine) (i : Nat) (f : JobSlot → JobSlot) : (e.setSlot i f).seq = e.seq := by cases e; rfl
@[simp] theorem setSlot_recb (e : Engine) (i : Nat) (f : JobSlot → JobSlot) : (e.setSlot i f).recb = e.recb := by cases e; rfl
@[simp] theorem setSlot_stg (e : Engine) (i : Nat) (f : JobSlot → JobSlot) : (e.setSlot i f).stg = e.stg := by cases e; rfl
@[simp] theorem setSlot_mem (e : Engine) (i : Nat) (f : JobSlot → JobSlot) : (e.setSlot i f).mem = e.mem := by cases e; rfl
@[simp] theorem setSlot_host (e : Engine) (i : Nat) (f : JobSlot → JobSlot) : (e.setSlot i f).host = e.host := by cases e; rfl
@[simp] theorem setSlot_i2c (e : Engine) (i : Nat) (f : JobSlot → JobSlot) : (e.setSlot i f).i2c = e.i2c := by cases e; rfl
@[simp] theorem setSlot_hinge (e : Engine) (i : Nat) (f : JobSlot → JobSlot) : (e.setSlot i f).hinge = e.hinge := by cases e; rfl
@[simp] theorem setSlot_sec (e : Engine) (i : Nat) (f : JobSlot → JobSlot) : (e.setSlot i f).sec = e.sec := by cases e; rfl
@[simp] theorem setSlot_tap (e : Engine) (i : Nat) (f : JobSlot → JobSlot) : (e.setSlot i f).tap = e.tap := by cases e; rfl
@[simp] theorem setSlot_latch (e : Engine) (i : Nat) (f : JobSlot → JobSlot) : (e.setSlot i f).latch = e.latch := by cases e; rfl
@[simp] theorem setSlot_arriving (e : Engine) (i : Nat) (f : JobSlot → JobSlot) : (e.setSlot i f).arriving = e.arriving := by cases e; rfl
@[simp] theorem setSlot_tx (e : Engine) (i : Nat) (f : JobSlot → JobSlot) : (e.setSlot i f).tx = e.tx := by cases e; rfl

/-! ### setPort -/

@[simp] theorem setPort_regs (e : Engine) (i : Nat) (f : PortSec → PortSec) : (e.setPort i f).regs = e.regs := by cases e; rfl
@[simp] theorem setPort_cyc (e : Engine) (i : Nat) (f : PortSec → PortSec) : (e.setPort i f).cyc = e.cyc := by cases e; rfl
@[simp] theorem setPort_time (e : Engine) (i : Nat) (f : PortSec → PortSec) : (e.setPort i f).time = e.time := by cases e; rfl
@[simp] theorem setPort_clk (e : Engine) (i : Nat) (f : PortSec → PortSec) : (e.setPort i f).clk = e.clk := by cases e; rfl
@[simp] theorem setPort_tide (e : Engine) (i : Nat) (f : PortSec → PortSec) : (e.setPort i f).tide = e.tide := by cases e; rfl
@[simp] theorem setPort_sys (e : Engine) (i : Nat) (f : PortSec → PortSec) : (e.setPort i f).sys = e.sys := by cases e; rfl
@[simp] theorem setPort_pwr (e : Engine) (i : Nat) (f : PortSec → PortSec) : (e.setPort i f).pwr = e.pwr := by cases e; rfl
@[simp] theorem setPort_lanes (e : Engine) (i : Nat) (f : PortSec → PortSec) : (e.setPort i f).lanes = e.lanes := by cases e; rfl
@[simp] theorem setPort_pods (e : Engine) (i : Nat) (f : PortSec → PortSec) : (e.setPort i f).pods = e.pods := by cases e; rfl
@[simp] theorem setPort_bus (e : Engine) (i : Nat) (f : PortSec → PortSec) : (e.setPort i f).bus = e.bus := by cases e; rfl
@[simp] theorem setPort_tdc (e : Engine) (i : Nat) (f : PortSec → PortSec) : (e.setPort i f).tdc = e.tdc := by cases e; rfl
@[simp] theorem setPort_seq (e : Engine) (i : Nat) (f : PortSec → PortSec) : (e.setPort i f).seq = e.seq := by cases e; rfl
@[simp] theorem setPort_recb (e : Engine) (i : Nat) (f : PortSec → PortSec) : (e.setPort i f).recb = e.recb := by cases e; rfl
@[simp] theorem setPort_stg (e : Engine) (i : Nat) (f : PortSec → PortSec) : (e.setPort i f).stg = e.stg := by cases e; rfl
@[simp] theorem setPort_mem (e : Engine) (i : Nat) (f : PortSec → PortSec) : (e.setPort i f).mem = e.mem := by cases e; rfl
@[simp] theorem setPort_job (e : Engine) (i : Nat) (f : PortSec → PortSec) : (e.setPort i f).job = e.job := by cases e; rfl
@[simp] theorem setPort_host (e : Engine) (i : Nat) (f : PortSec → PortSec) : (e.setPort i f).host = e.host := by cases e; rfl
@[simp] theorem setPort_i2c (e : Engine) (i : Nat) (f : PortSec → PortSec) : (e.setPort i f).i2c = e.i2c := by cases e; rfl
@[simp] theorem setPort_hinge (e : Engine) (i : Nat) (f : PortSec → PortSec) : (e.setPort i f).hinge = e.hinge := by cases e; rfl
@[simp] theorem setPort_tap (e : Engine) (i : Nat) (f : PortSec → PortSec) : (e.setPort i f).tap = e.tap := by cases e; rfl
@[simp] theorem setPort_latch (e : Engine) (i : Nat) (f : PortSec → PortSec) : (e.setPort i f).latch = e.latch := by cases e; rfl
@[simp] theorem setPort_arriving (e : Engine) (i : Nat) (f : PortSec → PortSec) : (e.setPort i f).arriving = e.arriving := by cases e; rfl
@[simp] theorem setPort_tx (e : Engine) (i : Nat) (f : PortSec → PortSec) : (e.setPort i f).tx = e.tx := by cases e; rfl

/-! ### setKey -/

@[simp] theorem setKey_regs (e : Engine) (i : Nat) (f : KeySlot → KeySlot) : (e.setKey i f).regs = e.regs := by cases e; rfl
@[simp] theorem setKey_cyc (e : Engine) (i : Nat) (f : KeySlot → KeySlot) : (e.setKey i f).cyc = e.cyc := by cases e; rfl
@[simp] theorem setKey_time (e : Engine) (i : Nat) (f : KeySlot → KeySlot) : (e.setKey i f).time = e.time := by cases e; rfl
@[simp] theorem setKey_clk (e : Engine) (i : Nat) (f : KeySlot → KeySlot) : (e.setKey i f).clk = e.clk := by cases e; rfl
@[simp] theorem setKey_tide (e : Engine) (i : Nat) (f : KeySlot → KeySlot) : (e.setKey i f).tide = e.tide := by cases e; rfl
@[simp] theorem setKey_sys (e : Engine) (i : Nat) (f : KeySlot → KeySlot) : (e.setKey i f).sys = e.sys := by cases e; rfl
@[simp] theorem setKey_pwr (e : Engine) (i : Nat) (f : KeySlot → KeySlot) : (e.setKey i f).pwr = e.pwr := by cases e; rfl
@[simp] theorem setKey_lanes (e : Engine) (i : Nat) (f : KeySlot → KeySlot) : (e.setKey i f).lanes = e.lanes := by cases e; rfl
@[simp] theorem setKey_pods (e : Engine) (i : Nat) (f : KeySlot → KeySlot) : (e.setKey i f).pods = e.pods := by cases e; rfl
@[simp] theorem setKey_bus (e : Engine) (i : Nat) (f : KeySlot → KeySlot) : (e.setKey i f).bus = e.bus := by cases e; rfl
@[simp] theorem setKey_tdc (e : Engine) (i : Nat) (f : KeySlot → KeySlot) : (e.setKey i f).tdc = e.tdc := by cases e; rfl
@[simp] theorem setKey_seq (e : Engine) (i : Nat) (f : KeySlot → KeySlot) : (e.setKey i f).seq = e.seq := by cases e; rfl
@[simp] theorem setKey_recb (e : Engine) (i : Nat) (f : KeySlot → KeySlot) : (e.setKey i f).recb = e.recb := by cases e; rfl
@[simp] theorem setKey_stg (e : Engine) (i : Nat) (f : KeySlot → KeySlot) : (e.setKey i f).stg = e.stg := by cases e; rfl
@[simp] theorem setKey_mem (e : Engine) (i : Nat) (f : KeySlot → KeySlot) : (e.setKey i f).mem = e.mem := by cases e; rfl
@[simp] theorem setKey_job (e : Engine) (i : Nat) (f : KeySlot → KeySlot) : (e.setKey i f).job = e.job := by cases e; rfl
@[simp] theorem setKey_host (e : Engine) (i : Nat) (f : KeySlot → KeySlot) : (e.setKey i f).host = e.host := by cases e; rfl
@[simp] theorem setKey_i2c (e : Engine) (i : Nat) (f : KeySlot → KeySlot) : (e.setKey i f).i2c = e.i2c := by cases e; rfl
@[simp] theorem setKey_hinge (e : Engine) (i : Nat) (f : KeySlot → KeySlot) : (e.setKey i f).hinge = e.hinge := by cases e; rfl
@[simp] theorem setKey_tap (e : Engine) (i : Nat) (f : KeySlot → KeySlot) : (e.setKey i f).tap = e.tap := by cases e; rfl
@[simp] theorem setKey_latch (e : Engine) (i : Nat) (f : KeySlot → KeySlot) : (e.setKey i f).latch = e.latch := by cases e; rfl
@[simp] theorem setKey_arriving (e : Engine) (i : Nat) (f : KeySlot → KeySlot) : (e.setKey i f).arriving = e.arriving := by cases e; rfl
@[simp] theorem setKey_tx (e : Engine) (i : Nat) (f : KeySlot → KeySlot) : (e.setKey i f).tx = e.tx := by cases e; rfl

/-! ### setLatch -/

@[simp] theorem setLatch_regs (e : Engine) (i : Nat) (f : PortLatch → PortLatch) : (e.setLatch i f).regs = e.regs := by cases e; rfl
@[simp] theorem setLatch_cyc (e : Engine) (i : Nat) (f : PortLatch → PortLatch) : (e.setLatch i f).cyc = e.cyc := by cases e; rfl
@[simp] theorem setLatch_time (e : Engine) (i : Nat) (f : PortLatch → PortLatch) : (e.setLatch i f).time = e.time := by cases e; rfl
@[simp] theorem setLatch_clk (e : Engine) (i : Nat) (f : PortLatch → PortLatch) : (e.setLatch i f).clk = e.clk := by cases e; rfl
@[simp] theorem setLatch_tide (e : Engine) (i : Nat) (f : PortLatch → PortLatch) : (e.setLatch i f).tide = e.tide := by cases e; rfl
@[simp] theorem setLatch_sys (e : Engine) (i : Nat) (f : PortLatch → PortLatch) : (e.setLatch i f).sys = e.sys := by cases e; rfl
@[simp] theorem setLatch_pwr (e : Engine) (i : Nat) (f : PortLatch → PortLatch) : (e.setLatch i f).pwr = e.pwr := by cases e; rfl
@[simp] theorem setLatch_lanes (e : Engine) (i : Nat) (f : PortLatch → PortLatch) : (e.setLatch i f).lanes = e.lanes := by cases e; rfl
@[simp] theorem setLatch_pods (e : Engine) (i : Nat) (f : PortLatch → PortLatch) : (e.setLatch i f).pods = e.pods := by cases e; rfl
@[simp] theorem setLatch_bus (e : Engine) (i : Nat) (f : PortLatch → PortLatch) : (e.setLatch i f).bus = e.bus := by cases e; rfl
@[simp] theorem setLatch_tdc (e : Engine) (i : Nat) (f : PortLatch → PortLatch) : (e.setLatch i f).tdc = e.tdc := by cases e; rfl
@[simp] theorem setLatch_seq (e : Engine) (i : Nat) (f : PortLatch → PortLatch) : (e.setLatch i f).seq = e.seq := by cases e; rfl
@[simp] theorem setLatch_recb (e : Engine) (i : Nat) (f : PortLatch → PortLatch) : (e.setLatch i f).recb = e.recb := by cases e; rfl
@[simp] theorem setLatch_stg (e : Engine) (i : Nat) (f : PortLatch → PortLatch) : (e.setLatch i f).stg = e.stg := by cases e; rfl
@[simp] theorem setLatch_mem (e : Engine) (i : Nat) (f : PortLatch → PortLatch) : (e.setLatch i f).mem = e.mem := by cases e; rfl
@[simp] theorem setLatch_job (e : Engine) (i : Nat) (f : PortLatch → PortLatch) : (e.setLatch i f).job = e.job := by cases e; rfl
@[simp] theorem setLatch_host (e : Engine) (i : Nat) (f : PortLatch → PortLatch) : (e.setLatch i f).host = e.host := by cases e; rfl
@[simp] theorem setLatch_i2c (e : Engine) (i : Nat) (f : PortLatch → PortLatch) : (e.setLatch i f).i2c = e.i2c := by cases e; rfl
@[simp] theorem setLatch_hinge (e : Engine) (i : Nat) (f : PortLatch → PortLatch) : (e.setLatch i f).hinge = e.hinge := by cases e; rfl
@[simp] theorem setLatch_sec (e : Engine) (i : Nat) (f : PortLatch → PortLatch) : (e.setLatch i f).sec = e.sec := by cases e; rfl
@[simp] theorem setLatch_tap (e : Engine) (i : Nat) (f : PortLatch → PortLatch) : (e.setLatch i f).tap = e.tap := by cases e; rfl
@[simp] theorem setLatch_arriving (e : Engine) (i : Nat) (f : PortLatch → PortLatch) : (e.setLatch i f).arriving = e.arriving := by cases e; rfl
@[simp] theorem setLatch_tx (e : Engine) (i : Nat) (f : PortLatch → PortLatch) : (e.setLatch i f).tx = e.tx := by cases e; rfl

/-! ### setBlk -/

@[simp] theorem setBlk_regs (e : Engine) (i : Nat) (f : BlkPwr → BlkPwr) : (e.setBlk i f).regs = e.regs := by cases e; rfl
@[simp] theorem setBlk_cyc (e : Engine) (i : Nat) (f : BlkPwr → BlkPwr) : (e.setBlk i f).cyc = e.cyc := by cases e; rfl
@[simp] theorem setBlk_time (e : Engine) (i : Nat) (f : BlkPwr → BlkPwr) : (e.setBlk i f).time = e.time := by cases e; rfl
@[simp] theorem setBlk_clk (e : Engine) (i : Nat) (f : BlkPwr → BlkPwr) : (e.setBlk i f).clk = e.clk := by cases e; rfl
@[simp] theorem setBlk_tide (e : Engine) (i : Nat) (f : BlkPwr → BlkPwr) : (e.setBlk i f).tide = e.tide := by cases e; rfl
@[simp] theorem setBlk_sys (e : Engine) (i : Nat) (f : BlkPwr → BlkPwr) : (e.setBlk i f).sys = e.sys := by cases e; rfl
@[simp] theorem setBlk_lanes (e : Engine) (i : Nat) (f : BlkPwr → BlkPwr) : (e.setBlk i f).lanes = e.lanes := by cases e; rfl
@[simp] theorem setBlk_pods (e : Engine) (i : Nat) (f : BlkPwr → BlkPwr) : (e.setBlk i f).pods = e.pods := by cases e; rfl
@[simp] theorem setBlk_bus (e : Engine) (i : Nat) (f : BlkPwr → BlkPwr) : (e.setBlk i f).bus = e.bus := by cases e; rfl
@[simp] theorem setBlk_tdc (e : Engine) (i : Nat) (f : BlkPwr → BlkPwr) : (e.setBlk i f).tdc = e.tdc := by cases e; rfl
@[simp] theorem setBlk_seq (e : Engine) (i : Nat) (f : BlkPwr → BlkPwr) : (e.setBlk i f).seq = e.seq := by cases e; rfl
@[simp] theorem setBlk_recb (e : Engine) (i : Nat) (f : BlkPwr → BlkPwr) : (e.setBlk i f).recb = e.recb := by cases e; rfl
@[simp] theorem setBlk_stg (e : Engine) (i : Nat) (f : BlkPwr → BlkPwr) : (e.setBlk i f).stg = e.stg := by cases e; rfl
@[simp] theorem setBlk_mem (e : Engine) (i : Nat) (f : BlkPwr → BlkPwr) : (e.setBlk i f).mem = e.mem := by cases e; rfl
@[simp] theorem setBlk_job (e : Engine) (i : Nat) (f : BlkPwr → BlkPwr) : (e.setBlk i f).job = e.job := by cases e; rfl
@[simp] theorem setBlk_host (e : Engine) (i : Nat) (f : BlkPwr → BlkPwr) : (e.setBlk i f).host = e.host := by cases e; rfl
@[simp] theorem setBlk_i2c (e : Engine) (i : Nat) (f : BlkPwr → BlkPwr) : (e.setBlk i f).i2c = e.i2c := by cases e; rfl
@[simp] theorem setBlk_hinge (e : Engine) (i : Nat) (f : BlkPwr → BlkPwr) : (e.setBlk i f).hinge = e.hinge := by cases e; rfl
@[simp] theorem setBlk_sec (e : Engine) (i : Nat) (f : BlkPwr → BlkPwr) : (e.setBlk i f).sec = e.sec := by cases e; rfl
@[simp] theorem setBlk_tap (e : Engine) (i : Nat) (f : BlkPwr → BlkPwr) : (e.setBlk i f).tap = e.tap := by cases e; rfl
@[simp] theorem setBlk_latch (e : Engine) (i : Nat) (f : BlkPwr → BlkPwr) : (e.setBlk i f).latch = e.latch := by cases e; rfl
@[simp] theorem setBlk_arriving (e : Engine) (i : Nat) (f : BlkPwr → BlkPwr) : (e.setBlk i f).arriving = e.arriving := by cases e; rfl
@[simp] theorem setBlk_tx (e : Engine) (i : Nat) (f : BlkPwr → BlkPwr) : (e.setBlk i f).tx = e.tx := by cases e; rfl

/-! ### demand -/

@[simp] theorem demand_regs (e : Engine) (i : Nat) : (e.demand i).regs = e.regs := by unfold demand; dsimp only; repeat (first | rfl | split)
@[simp] theorem demand_cyc (e : Engine) (i : Nat) : (e.demand i).cyc = e.cyc := by unfold demand; dsimp only; repeat (first | rfl | split)
@[simp] theorem demand_time (e : Engine) (i : Nat) : (e.demand i).time = e.time := by unfold demand; dsimp only; repeat (first | rfl | split)
@[simp] theorem demand_clk (e : Engine) (i : Nat) : (e.demand i).clk = e.clk := by unfold demand; dsimp only; repeat (first | rfl | split)
@[simp] theorem demand_tide (e : Engine) (i : Nat) : (e.demand i).tide = e.tide := by unfold demand; dsimp only; repeat (first | rfl | split)
@[simp] theorem demand_sys (e : Engine) (i : Nat) : (e.demand i).sys = e.sys := by unfold demand; dsimp only; repeat (first | rfl | split)
@[simp] theorem demand_lanes (e : Engine) (i : Nat) : (e.demand i).lanes = e.lanes := by unfold demand; dsimp only; repeat (first | rfl | split)
@[simp] theorem demand_pods (e : Engine) (i : Nat) : (e.demand i).pods = e.pods := by unfold demand; dsimp only; repeat (first | rfl | split)
@[simp] theorem demand_bus (e : Engine) (i : Nat) : (e.demand i).bus = e.bus := by unfold demand; dsimp only; repeat (first | rfl | split)
@[simp] theorem demand_tdc (e : Engine) (i : Nat) : (e.demand i).tdc = e.tdc := by unfold demand; dsimp only; repeat (first | rfl | split)
@[simp] theorem demand_seq (e : Engine) (i : Nat) : (e.demand i).seq = e.seq := by unfold demand; dsimp only; repeat (first | rfl | split)
@[simp] theorem demand_recb (e : Engine) (i : Nat) : (e.demand i).recb = e.recb := by unfold demand; dsimp only; repeat (first | rfl | split)
@[simp] theorem demand_stg (e : Engine) (i : Nat) : (e.demand i).stg = e.stg := by unfold demand; dsimp only; repeat (first | rfl | split)
@[simp] theorem demand_mem (e : Engine) (i : Nat) : (e.demand i).mem = e.mem := by unfold demand; dsimp only; repeat (first | rfl | split)
@[simp] theorem demand_job (e : Engine) (i : Nat) : (e.demand i).job = e.job := by unfold demand; dsimp only; repeat (first | rfl | split)
@[simp] theorem demand_host (e : Engine) (i : Nat) : (e.demand i).host = e.host := by unfold demand; dsimp only; repeat (first | rfl | split)
@[simp] theorem demand_i2c (e : Engine) (i : Nat) : (e.demand i).i2c = e.i2c := by unfold demand; dsimp only; repeat (first | rfl | split)
@[simp] theorem demand_hinge (e : Engine) (i : Nat) : (e.demand i).hinge = e.hinge := by unfold demand; dsimp only; repeat (first | rfl | split)
@[simp] theorem demand_sec (e : Engine) (i : Nat) : (e.demand i).sec = e.sec := by unfold demand; dsimp only; repeat (first | rfl | split)
@[simp] theorem demand_tap (e : Engine) (i : Nat) : (e.demand i).tap = e.tap := by unfold demand; dsimp only; repeat (first | rfl | split)
@[simp] theorem demand_latch (e : Engine) (i : Nat) : (e.demand i).latch = e.latch := by unfold demand; dsimp only; repeat (first | rfl | split)
@[simp] theorem demand_arriving (e : Engine) (i : Nat) : (e.demand i).arriving = e.arriving := by unfold demand; dsimp only; repeat (first | rfl | split)
@[simp] theorem demand_tx (e : Engine) (i : Nat) : (e.demand i).tx = e.tx := by unfold demand; dsimp only; repeat (first | rfl | split)

/-! ### inCyc -/

@[simp] theorem inCyc_regs (e : Engine) (i n : Nat) (f : CycAcc → CycAcc) : (e.inCyc i n f).regs = e.regs := by cases e; rfl
@[simp] theorem inCyc_cyc (e : Engine) (i n : Nat) (f : CycAcc → CycAcc) : (e.inCyc i n f).cyc = e.cyc := by cases e; rfl
@[simp] theorem inCyc_time (e : Engine) (i n : Nat) (f : CycAcc → CycAcc) : (e.inCyc i n f).time = e.time := by cases e; rfl
@[simp] theorem inCyc_clk (e : Engine) (i n : Nat) (f : CycAcc → CycAcc) : (e.inCyc i n f).clk = e.clk := by cases e; rfl
@[simp] theorem inCyc_tide (e : Engine) (i n : Nat) (f : CycAcc → CycAcc) : (e.inCyc i n f).tide = e.tide := by cases e; rfl
@[simp] theorem inCyc_sys (e : Engine) (i n : Nat) (f : CycAcc → CycAcc) : (e.inCyc i n f).sys = e.sys := by cases e; rfl
@[simp] theorem inCyc_pwr (e : Engine) (i n : Nat) (f : CycAcc → CycAcc) : (e.inCyc i n f).pwr = e.pwr := by cases e; rfl
@[simp] theorem inCyc_lanes (e : Engine) (i n : Nat) (f : CycAcc → CycAcc) : (e.inCyc i n f).lanes = e.lanes := by cases e; rfl
@[simp] theorem inCyc_pods (e : Engine) (i n : Nat) (f : CycAcc → CycAcc) : (e.inCyc i n f).pods = e.pods := by cases e; rfl
@[simp] theorem inCyc_bus (e : Engine) (i n : Nat) (f : CycAcc → CycAcc) : (e.inCyc i n f).bus = e.bus := by cases e; rfl
@[simp] theorem inCyc_tdc (e : Engine) (i n : Nat) (f : CycAcc → CycAcc) : (e.inCyc i n f).tdc = e.tdc := by cases e; rfl
@[simp] theorem inCyc_seq (e : Engine) (i n : Nat) (f : CycAcc → CycAcc) : (e.inCyc i n f).seq = e.seq := by cases e; rfl
@[simp] theorem inCyc_stg (e : Engine) (i n : Nat) (f : CycAcc → CycAcc) : (e.inCyc i n f).stg = e.stg := by cases e; rfl
@[simp] theorem inCyc_mem (e : Engine) (i n : Nat) (f : CycAcc → CycAcc) : (e.inCyc i n f).mem = e.mem := by cases e; rfl
@[simp] theorem inCyc_job (e : Engine) (i n : Nat) (f : CycAcc → CycAcc) : (e.inCyc i n f).job = e.job := by cases e; rfl
@[simp] theorem inCyc_host (e : Engine) (i n : Nat) (f : CycAcc → CycAcc) : (e.inCyc i n f).host = e.host := by cases e; rfl
@[simp] theorem inCyc_i2c (e : Engine) (i n : Nat) (f : CycAcc → CycAcc) : (e.inCyc i n f).i2c = e.i2c := by cases e; rfl
@[simp] theorem inCyc_hinge (e : Engine) (i n : Nat) (f : CycAcc → CycAcc) : (e.inCyc i n f).hinge = e.hinge := by cases e; rfl
@[simp] theorem inCyc_sec (e : Engine) (i n : Nat) (f : CycAcc → CycAcc) : (e.inCyc i n f).sec = e.sec := by cases e; rfl
@[simp] theorem inCyc_tap (e : Engine) (i n : Nat) (f : CycAcc → CycAcc) : (e.inCyc i n f).tap = e.tap := by cases e; rfl
@[simp] theorem inCyc_latch (e : Engine) (i n : Nat) (f : CycAcc → CycAcc) : (e.inCyc i n f).latch = e.latch := by cases e; rfl
@[simp] theorem inCyc_arriving (e : Engine) (i n : Nat) (f : CycAcc → CycAcc) : (e.inCyc i n f).arriving = e.arriving := by cases e; rfl
@[simp] theorem inCyc_tx (e : Engine) (i n : Nat) (f : CycAcc → CycAcc) : (e.inCyc i n f).tx = e.tx := by cases e; rfl

/-! ### setSBlk -/

@[simp] theorem setSBlk_regs (e : Engine) (i : Nat) (f : SBlk → SBlk) : (e.setSBlk i f).regs = e.regs := by cases e; rfl
@[simp] theorem setSBlk_cyc (e : Engine) (i : Nat) (f : SBlk → SBlk) : (e.setSBlk i f).cyc = e.cyc := by cases e; rfl
@[simp] theorem setSBlk_time (e : Engine) (i : Nat) (f : SBlk → SBlk) : (e.setSBlk i f).time = e.time := by cases e; rfl
@[simp] theorem setSBlk_clk (e : Engine) (i : Nat) (f : SBlk → SBlk) : (e.setSBlk i f).clk = e.clk := by cases e; rfl
@[simp] theorem setSBlk_tide (e : Engine) (i : Nat) (f : SBlk → SBlk) : (e.setSBlk i f).tide = e.tide := by cases e; rfl
@[simp] theorem setSBlk_sys (e : Engine) (i : Nat) (f : SBlk → SBlk) : (e.setSBlk i f).sys = e.sys := by cases e; rfl
@[simp] theorem setSBlk_pwr (e : Engine) (i : Nat) (f : SBlk → SBlk) : (e.setSBlk i f).pwr = e.pwr := by cases e; rfl
@[simp] theorem setSBlk_lanes (e : Engine) (i : Nat) (f : SBlk → SBlk) : (e.setSBlk i f).lanes = e.lanes := by cases e; rfl
@[simp] theorem setSBlk_pods (e : Engine) (i : Nat) (f : SBlk → SBlk) : (e.setSBlk i f).pods = e.pods := by cases e; rfl
@[simp] theorem setSBlk_bus (e : Engine) (i : Nat) (f : SBlk → SBlk) : (e.setSBlk i f).bus = e.bus := by cases e; rfl
@[simp] theorem setSBlk_tdc (e : Engine) (i : Nat) (f : SBlk → SBlk) : (e.setSBlk i f).tdc = e.tdc := by cases e; rfl
@[simp] theorem setSBlk_seq (e : Engine) (i : Nat) (f : SBlk → SBlk) : (e.setSBlk i f).seq = e.seq := by cases e; rfl
@[simp] theorem setSBlk_recb (e : Engine) (i : Nat) (f : SBlk → SBlk) : (e.setSBlk i f).recb = e.recb := by cases e; rfl
@[simp] theorem setSBlk_mem (e : Engine) (i : Nat) (f : SBlk → SBlk) : (e.setSBlk i f).mem = e.mem := by cases e; rfl
@[simp] theorem setSBlk_job (e : Engine) (i : Nat) (f : SBlk → SBlk) : (e.setSBlk i f).job = e.job := by cases e; rfl
@[simp] theorem setSBlk_host (e : Engine) (i : Nat) (f : SBlk → SBlk) : (e.setSBlk i f).host = e.host := by cases e; rfl
@[simp] theorem setSBlk_i2c (e : Engine) (i : Nat) (f : SBlk → SBlk) : (e.setSBlk i f).i2c = e.i2c := by cases e; rfl
@[simp] theorem setSBlk_hinge (e : Engine) (i : Nat) (f : SBlk → SBlk) : (e.setSBlk i f).hinge = e.hinge := by cases e; rfl
@[simp] theorem setSBlk_sec (e : Engine) (i : Nat) (f : SBlk → SBlk) : (e.setSBlk i f).sec = e.sec := by cases e; rfl
@[simp] theorem setSBlk_tap (e : Engine) (i : Nat) (f : SBlk → SBlk) : (e.setSBlk i f).tap = e.tap := by cases e; rfl
@[simp] theorem setSBlk_latch (e : Engine) (i : Nat) (f : SBlk → SBlk) : (e.setSBlk i f).latch = e.latch := by cases e; rfl
@[simp] theorem setSBlk_arriving (e : Engine) (i : Nat) (f : SBlk → SBlk) : (e.setSBlk i f).arriving = e.arriving := by cases e; rfl
@[simp] theorem setSBlk_tx (e : Engine) (i : Nat) (f : SBlk → SBlk) : (e.setSBlk i f).tx = e.tx := by cases e; rfl

/-! ### setLink -/

@[simp] theorem setLink_regs (e : Engine) (l : Bool) (f : HingeLink → HingeLink) : (e.setLink l f).regs = e.regs := by unfold setLink; split <;> rfl
@[simp] theorem setLink_cyc (e : Engine) (l : Bool) (f : HingeLink → HingeLink) : (e.setLink l f).cyc = e.cyc := by unfold setLink; split <;> rfl
@[simp] theorem setLink_time (e : Engine) (l : Bool) (f : HingeLink → HingeLink) : (e.setLink l f).time = e.time := by unfold setLink; split <;> rfl
@[simp] theorem setLink_clk (e : Engine) (l : Bool) (f : HingeLink → HingeLink) : (e.setLink l f).clk = e.clk := by unfold setLink; split <;> rfl
@[simp] theorem setLink_tide (e : Engine) (l : Bool) (f : HingeLink → HingeLink) : (e.setLink l f).tide = e.tide := by unfold setLink; split <;> rfl
@[simp] theorem setLink_sys (e : Engine) (l : Bool) (f : HingeLink → HingeLink) : (e.setLink l f).sys = e.sys := by unfold setLink; split <;> rfl
@[simp] theorem setLink_pwr (e : Engine) (l : Bool) (f : HingeLink → HingeLink) : (e.setLink l f).pwr = e.pwr := by unfold setLink; split <;> rfl
@[simp] theorem setLink_lanes (e : Engine) (l : Bool) (f : HingeLink → HingeLink) : (e.setLink l f).lanes = e.lanes := by unfold setLink; split <;> rfl
@[simp] theorem setLink_pods (e : Engine) (l : Bool) (f : HingeLink → HingeLink) : (e.setLink l f).pods = e.pods := by unfold setLink; split <;> rfl
@[simp] theorem setLink_bus (e : Engine) (l : Bool) (f : HingeLink → HingeLink) : (e.setLink l f).bus = e.bus := by unfold setLink; split <;> rfl
@[simp] theorem setLink_tdc (e : Engine) (l : Bool) (f : HingeLink → HingeLink) : (e.setLink l f).tdc = e.tdc := by unfold setLink; split <;> rfl
@[simp] theorem setLink_seq (e : Engine) (l : Bool) (f : HingeLink → HingeLink) : (e.setLink l f).seq = e.seq := by unfold setLink; split <;> rfl
@[simp] theorem setLink_recb (e : Engine) (l : Bool) (f : HingeLink → HingeLink) : (e.setLink l f).recb = e.recb := by unfold setLink; split <;> rfl
@[simp] theorem setLink_stg (e : Engine) (l : Bool) (f : HingeLink → HingeLink) : (e.setLink l f).stg = e.stg := by unfold setLink; split <;> rfl
@[simp] theorem setLink_mem (e : Engine) (l : Bool) (f : HingeLink → HingeLink) : (e.setLink l f).mem = e.mem := by unfold setLink; split <;> rfl
@[simp] theorem setLink_job (e : Engine) (l : Bool) (f : HingeLink → HingeLink) : (e.setLink l f).job = e.job := by unfold setLink; split <;> rfl
@[simp] theorem setLink_host (e : Engine) (l : Bool) (f : HingeLink → HingeLink) : (e.setLink l f).host = e.host := by unfold setLink; split <;> rfl
@[simp] theorem setLink_i2c (e : Engine) (l : Bool) (f : HingeLink → HingeLink) : (e.setLink l f).i2c = e.i2c := by unfold setLink; split <;> rfl
@[simp] theorem setLink_sec (e : Engine) (l : Bool) (f : HingeLink → HingeLink) : (e.setLink l f).sec = e.sec := by unfold setLink; split <;> rfl
@[simp] theorem setLink_tap (e : Engine) (l : Bool) (f : HingeLink → HingeLink) : (e.setLink l f).tap = e.tap := by unfold setLink; split <;> rfl
@[simp] theorem setLink_latch (e : Engine) (l : Bool) (f : HingeLink → HingeLink) : (e.setLink l f).latch = e.latch := by unfold setLink; split <;> rfl
@[simp] theorem setLink_arriving (e : Engine) (l : Bool) (f : HingeLink → HingeLink) : (e.setLink l f).arriving = e.arriving := by unfold setLink; split <;> rfl
@[simp] theorem setLink_tx (e : Engine) (l : Bool) (f : HingeLink → HingeLink) : (e.setLink l f).tx = e.tx := by unfold setLink; split <;> rfl

/-! ### setEnd -/

@[simp] theorem setEnd_regs (e : Engine) (l h : Bool) (f : LinkEnd → LinkEnd) : (e.setEnd l h f).regs = e.regs := by unfold setEnd; simp
@[simp] theorem setEnd_cyc (e : Engine) (l h : Bool) (f : LinkEnd → LinkEnd) : (e.setEnd l h f).cyc = e.cyc := by unfold setEnd; simp
@[simp] theorem setEnd_time (e : Engine) (l h : Bool) (f : LinkEnd → LinkEnd) : (e.setEnd l h f).time = e.time := by unfold setEnd; simp
@[simp] theorem setEnd_clk (e : Engine) (l h : Bool) (f : LinkEnd → LinkEnd) : (e.setEnd l h f).clk = e.clk := by unfold setEnd; simp
@[simp] theorem setEnd_tide (e : Engine) (l h : Bool) (f : LinkEnd → LinkEnd) : (e.setEnd l h f).tide = e.tide := by unfold setEnd; simp
@[simp] theorem setEnd_sys (e : Engine) (l h : Bool) (f : LinkEnd → LinkEnd) : (e.setEnd l h f).sys = e.sys := by unfold setEnd; simp
@[simp] theorem setEnd_pwr (e : Engine) (l h : Bool) (f : LinkEnd → LinkEnd) : (e.setEnd l h f).pwr = e.pwr := by unfold setEnd; simp
@[simp] theorem setEnd_lanes (e : Engine) (l h : Bool) (f : LinkEnd → LinkEnd) : (e.setEnd l h f).lanes = e.lanes := by unfold setEnd; simp
@[simp] theorem setEnd_pods (e : Engine) (l h : Bool) (f : LinkEnd → LinkEnd) : (e.setEnd l h f).pods = e.pods := by unfold setEnd; simp
@[simp] theorem setEnd_bus (e : Engine) (l h : Bool) (f : LinkEnd → LinkEnd) : (e.setEnd l h f).bus = e.bus := by unfold setEnd; simp
@[simp] theorem setEnd_tdc (e : Engine) (l h : Bool) (f : LinkEnd → LinkEnd) : (e.setEnd l h f).tdc = e.tdc := by unfold setEnd; simp
@[simp] theorem setEnd_seq (e : Engine) (l h : Bool) (f : LinkEnd → LinkEnd) : (e.setEnd l h f).seq = e.seq := by unfold setEnd; simp
@[simp] theorem setEnd_recb (e : Engine) (l h : Bool) (f : LinkEnd → LinkEnd) : (e.setEnd l h f).recb = e.recb := by unfold setEnd; simp
@[simp] theorem setEnd_stg (e : Engine) (l h : Bool) (f : LinkEnd → LinkEnd) : (e.setEnd l h f).stg = e.stg := by unfold setEnd; simp
@[simp] theorem setEnd_mem (e : Engine) (l h : Bool) (f : LinkEnd → LinkEnd) : (e.setEnd l h f).mem = e.mem := by unfold setEnd; simp
@[simp] theorem setEnd_job (e : Engine) (l h : Bool) (f : LinkEnd → LinkEnd) : (e.setEnd l h f).job = e.job := by unfold setEnd; simp
@[simp] theorem setEnd_host (e : Engine) (l h : Bool) (f : LinkEnd → LinkEnd) : (e.setEnd l h f).host = e.host := by unfold setEnd; simp
@[simp] theorem setEnd_i2c (e : Engine) (l h : Bool) (f : LinkEnd → LinkEnd) : (e.setEnd l h f).i2c = e.i2c := by unfold setEnd; simp
@[simp] theorem setEnd_sec (e : Engine) (l h : Bool) (f : LinkEnd → LinkEnd) : (e.setEnd l h f).sec = e.sec := by unfold setEnd; simp
@[simp] theorem setEnd_tap (e : Engine) (l h : Bool) (f : LinkEnd → LinkEnd) : (e.setEnd l h f).tap = e.tap := by unfold setEnd; simp
@[simp] theorem setEnd_latch (e : Engine) (l h : Bool) (f : LinkEnd → LinkEnd) : (e.setEnd l h f).latch = e.latch := by unfold setEnd; simp
@[simp] theorem setEnd_arriving (e : Engine) (l h : Bool) (f : LinkEnd → LinkEnd) : (e.setEnd l h f).arriving = e.arriving := by unfold setEnd; simp
@[simp] theorem setEnd_tx (e : Engine) (l h : Bool) (f : LinkEnd → LinkEnd) : (e.setEnd l h f).tx = e.tx := by unfold setEnd; simp

/-! ### linkFlush -/

@[simp] theorem linkFlush_regs (e : Engine) (l h : Bool) : (e.linkFlush l h).regs = e.regs := by unfold linkFlush; split <;> simp
@[simp] theorem linkFlush_cyc (e : Engine) (l h : Bool) : (e.linkFlush l h).cyc = e.cyc := by unfold linkFlush; split <;> simp
@[simp] theorem linkFlush_time (e : Engine) (l h : Bool) : (e.linkFlush l h).time = e.time := by unfold linkFlush; split <;> simp
@[simp] theorem linkFlush_clk (e : Engine) (l h : Bool) : (e.linkFlush l h).clk = e.clk := by unfold linkFlush; split <;> simp
@[simp] theorem linkFlush_tide (e : Engine) (l h : Bool) : (e.linkFlush l h).tide = e.tide := by unfold linkFlush; split <;> simp
@[simp] theorem linkFlush_sys (e : Engine) (l h : Bool) : (e.linkFlush l h).sys = e.sys := by unfold linkFlush; split <;> simp
@[simp] theorem linkFlush_pwr (e : Engine) (l h : Bool) : (e.linkFlush l h).pwr = e.pwr := by unfold linkFlush; split <;> simp
@[simp] theorem linkFlush_lanes (e : Engine) (l h : Bool) : (e.linkFlush l h).lanes = e.lanes := by unfold linkFlush; split <;> simp
@[simp] theorem linkFlush_pods (e : Engine) (l h : Bool) : (e.linkFlush l h).pods = e.pods := by unfold linkFlush; split <;> simp
@[simp] theorem linkFlush_bus (e : Engine) (l h : Bool) : (e.linkFlush l h).bus = e.bus := by unfold linkFlush; split <;> simp
@[simp] theorem linkFlush_tdc (e : Engine) (l h : Bool) : (e.linkFlush l h).tdc = e.tdc := by unfold linkFlush; split <;> simp
@[simp] theorem linkFlush_seq (e : Engine) (l h : Bool) : (e.linkFlush l h).seq = e.seq := by unfold linkFlush; split <;> simp
@[simp] theorem linkFlush_recb (e : Engine) (l h : Bool) : (e.linkFlush l h).recb = e.recb := by unfold linkFlush; split <;> simp
@[simp] theorem linkFlush_stg (e : Engine) (l h : Bool) : (e.linkFlush l h).stg = e.stg := by unfold linkFlush; split <;> simp
@[simp] theorem linkFlush_mem (e : Engine) (l h : Bool) : (e.linkFlush l h).mem = e.mem := by unfold linkFlush; split <;> simp
@[simp] theorem linkFlush_job (e : Engine) (l h : Bool) : (e.linkFlush l h).job = e.job := by unfold linkFlush; split <;> simp
@[simp] theorem linkFlush_host (e : Engine) (l h : Bool) : (e.linkFlush l h).host = e.host := by unfold linkFlush; split <;> simp
@[simp] theorem linkFlush_i2c (e : Engine) (l h : Bool) : (e.linkFlush l h).i2c = e.i2c := by unfold linkFlush; split <;> simp
@[simp] theorem linkFlush_sec (e : Engine) (l h : Bool) : (e.linkFlush l h).sec = e.sec := by unfold linkFlush; split <;> simp
@[simp] theorem linkFlush_tap (e : Engine) (l h : Bool) : (e.linkFlush l h).tap = e.tap := by unfold linkFlush; split <;> simp
@[simp] theorem linkFlush_latch (e : Engine) (l h : Bool) : (e.linkFlush l h).latch = e.latch := by unfold linkFlush; split <;> simp
@[simp] theorem linkFlush_arriving (e : Engine) (l h : Bool) : (e.linkFlush l h).arriving = e.arriving := by unfold linkFlush; split <;> simp
@[simp] theorem linkFlush_tx (e : Engine) (l h : Bool) : (e.linkFlush l h).tx = e.tx := by unfold linkFlush; split <;> simp

/-! ### linkPut -/

@[simp] theorem linkPut_regs (e : Engine) (l h : Bool) (o : Option HingeOp) : (e.linkPut l h o).regs = e.regs := by unfold linkPut; split <;> simp
@[simp] theorem linkPut_cyc (e : Engine) (l h : Bool) (o : Option HingeOp) : (e.linkPut l h o).cyc = e.cyc := by unfold linkPut; split <;> simp
@[simp] theorem linkPut_time (e : Engine) (l h : Bool) (o : Option HingeOp) : (e.linkPut l h o).time = e.time := by unfold linkPut; split <;> simp
@[simp] theorem linkPut_clk (e : Engine) (l h : Bool) (o : Option HingeOp) : (e.linkPut l h o).clk = e.clk := by unfold linkPut; split <;> simp
@[simp] theorem linkPut_tide (e : Engine) (l h : Bool) (o : Option HingeOp) : (e.linkPut l h o).tide = e.tide := by unfold linkPut; split <;> simp
@[simp] theorem linkPut_sys (e : Engine) (l h : Bool) (o : Option HingeOp) : (e.linkPut l h o).sys = e.sys := by unfold linkPut; split <;> simp
@[simp] theorem linkPut_pwr (e : Engine) (l h : Bool) (o : Option HingeOp) : (e.linkPut l h o).pwr = e.pwr := by unfold linkPut; split <;> simp
@[simp] theorem linkPut_lanes (e : Engine) (l h : Bool) (o : Option HingeOp) : (e.linkPut l h o).lanes = e.lanes := by unfold linkPut; split <;> simp
@[simp] theorem linkPut_pods (e : Engine) (l h : Bool) (o : Option HingeOp) : (e.linkPut l h o).pods = e.pods := by unfold linkPut; split <;> simp
@[simp] theorem linkPut_bus (e : Engine) (l h : Bool) (o : Option HingeOp) : (e.linkPut l h o).bus = e.bus := by unfold linkPut; split <;> simp
@[simp] theorem linkPut_tdc (e : Engine) (l h : Bool) (o : Option HingeOp) : (e.linkPut l h o).tdc = e.tdc := by unfold linkPut; split <;> simp
@[simp] theorem linkPut_seq (e : Engine) (l h : Bool) (o : Option HingeOp) : (e.linkPut l h o).seq = e.seq := by unfold linkPut; split <;> simp
@[simp] theorem linkPut_recb (e : Engine) (l h : Bool) (o : Option HingeOp) : (e.linkPut l h o).recb = e.recb := by unfold linkPut; split <;> simp
@[simp] theorem linkPut_stg (e : Engine) (l h : Bool) (o : Option HingeOp) : (e.linkPut l h o).stg = e.stg := by unfold linkPut; split <;> simp
@[simp] theorem linkPut_mem (e : Engine) (l h : Bool) (o : Option HingeOp) : (e.linkPut l h o).mem = e.mem := by unfold linkPut; split <;> simp
@[simp] theorem linkPut_job (e : Engine) (l h : Bool) (o : Option HingeOp) : (e.linkPut l h o).job = e.job := by unfold linkPut; split <;> simp
@[simp] theorem linkPut_host (e : Engine) (l h : Bool) (o : Option HingeOp) : (e.linkPut l h o).host = e.host := by unfold linkPut; split <;> simp
@[simp] theorem linkPut_i2c (e : Engine) (l h : Bool) (o : Option HingeOp) : (e.linkPut l h o).i2c = e.i2c := by unfold linkPut; split <;> simp
@[simp] theorem linkPut_sec (e : Engine) (l h : Bool) (o : Option HingeOp) : (e.linkPut l h o).sec = e.sec := by unfold linkPut; split <;> simp
@[simp] theorem linkPut_tap (e : Engine) (l h : Bool) (o : Option HingeOp) : (e.linkPut l h o).tap = e.tap := by unfold linkPut; split <;> simp
@[simp] theorem linkPut_latch (e : Engine) (l h : Bool) (o : Option HingeOp) : (e.linkPut l h o).latch = e.latch := by unfold linkPut; split <;> simp
@[simp] theorem linkPut_arriving (e : Engine) (l h : Bool) (o : Option HingeOp) : (e.linkPut l h o).arriving = e.arriving := by unfold linkPut; split <;> simp
@[simp] theorem linkPut_tx (e : Engine) (l h : Bool) (o : Option HingeOp) : (e.linkPut l h o).tx = e.tx := by unfold linkPut; split <;> simp

/-! ### linkSend -/

@[simp] theorem linkSend_regs (e : Engine) (l : Bool) : (e.linkSend l).regs = e.regs := by unfold linkSend; simp
@[simp] theorem linkSend_cyc (e : Engine) (l : Bool) : (e.linkSend l).cyc = e.cyc := by unfold linkSend; simp
@[simp] theorem linkSend_time (e : Engine) (l : Bool) : (e.linkSend l).time = e.time := by unfold linkSend; simp
@[simp] theorem linkSend_clk (e : Engine) (l : Bool) : (e.linkSend l).clk = e.clk := by unfold linkSend; simp
@[simp] theorem linkSend_tide (e : Engine) (l : Bool) : (e.linkSend l).tide = e.tide := by unfold linkSend; simp
@[simp] theorem linkSend_sys (e : Engine) (l : Bool) : (e.linkSend l).sys = e.sys := by unfold linkSend; simp
@[simp] theorem linkSend_pwr (e : Engine) (l : Bool) : (e.linkSend l).pwr = e.pwr := by unfold linkSend; simp
@[simp] theorem linkSend_lanes (e : Engine) (l : Bool) : (e.linkSend l).lanes = e.lanes := by unfold linkSend; simp
@[simp] theorem linkSend_pods (e : Engine) (l : Bool) : (e.linkSend l).pods = e.pods := by unfold linkSend; simp
@[simp] theorem linkSend_bus (e : Engine) (l : Bool) : (e.linkSend l).bus = e.bus := by unfold linkSend; simp
@[simp] theorem linkSend_tdc (e : Engine) (l : Bool) : (e.linkSend l).tdc = e.tdc := by unfold linkSend; simp
@[simp] theorem linkSend_seq (e : Engine) (l : Bool) : (e.linkSend l).seq = e.seq := by unfold linkSend; simp
@[simp] theorem linkSend_recb (e : Engine) (l : Bool) : (e.linkSend l).recb = e.recb := by unfold linkSend; simp
@[simp] theorem linkSend_stg (e : Engine) (l : Bool) : (e.linkSend l).stg = e.stg := by unfold linkSend; simp
@[simp] theorem linkSend_mem (e : Engine) (l : Bool) : (e.linkSend l).mem = e.mem := by unfold linkSend; simp
@[simp] theorem linkSend_job (e : Engine) (l : Bool) : (e.linkSend l).job = e.job := by unfold linkSend; simp
@[simp] theorem linkSend_host (e : Engine) (l : Bool) : (e.linkSend l).host = e.host := by unfold linkSend; simp
@[simp] theorem linkSend_i2c (e : Engine) (l : Bool) : (e.linkSend l).i2c = e.i2c := by unfold linkSend; simp
@[simp] theorem linkSend_sec (e : Engine) (l : Bool) : (e.linkSend l).sec = e.sec := by unfold linkSend; simp
@[simp] theorem linkSend_tap (e : Engine) (l : Bool) : (e.linkSend l).tap = e.tap := by unfold linkSend; simp
@[simp] theorem linkSend_latch (e : Engine) (l : Bool) : (e.linkSend l).latch = e.latch := by unfold linkSend; simp
@[simp] theorem linkSend_arriving (e : Engine) (l : Bool) : (e.linkSend l).arriving = e.arriving := by unfold linkSend; simp
@[simp] theorem linkSend_tx (e : Engine) (l : Bool) : (e.linkSend l).tx = e.tx := by unfold linkSend; simp

/-! ### linkAck -/

@[simp] theorem linkAck_regs (e : Engine) (l h : Bool) (a : Nat) : (e.linkAck l h a).regs = e.regs := by unfold linkAck; simp
@[simp] theorem linkAck_cyc (e : Engine) (l h : Bool) (a : Nat) : (e.linkAck l h a).cyc = e.cyc := by unfold linkAck; simp
@[simp] theorem linkAck_time (e : Engine) (l h : Bool) (a : Nat) : (e.linkAck l h a).time = e.time := by unfold linkAck; simp
@[simp] theorem linkAck_clk (e : Engine) (l h : Bool) (a : Nat) : (e.linkAck l h a).clk = e.clk := by unfold linkAck; simp
@[simp] theorem linkAck_tide (e : Engine) (l h : Bool) (a : Nat) : (e.linkAck l h a).tide = e.tide := by unfold linkAck; simp
@[simp] theorem linkAck_sys (e : Engine) (l h : Bool) (a : Nat) : (e.linkAck l h a).sys = e.sys := by unfold linkAck; simp
@[simp] theorem linkAck_pwr (e : Engine) (l h : Bool) (a : Nat) : (e.linkAck l h a).pwr = e.pwr := by unfold linkAck; simp
@[simp] theorem linkAck_lanes (e : Engine) (l h : Bool) (a : Nat) : (e.linkAck l h a).lanes = e.lanes := by unfold linkAck; simp
@[simp] theorem linkAck_pods (e : Engine) (l h : Bool) (a : Nat) : (e.linkAck l h a).pods = e.pods := by unfold linkAck; simp
@[simp] theorem linkAck_bus (e : Engine) (l h : Bool) (a : Nat) : (e.linkAck l h a).bus = e.bus := by unfold linkAck; simp
@[simp] theorem linkAck_tdc (e : Engine) (l h : Bool) (a : Nat) : (e.linkAck l h a).tdc = e.tdc := by unfold linkAck; simp
@[simp] theorem linkAck_seq (e : Engine) (l h : Bool) (a : Nat) : (e.linkAck l h a).seq = e.seq := by unfold linkAck; simp
@[simp] theorem linkAck_recb (e : Engine) (l h : Bool) (a : Nat) : (e.linkAck l h a).recb = e.recb := by unfold linkAck; simp
@[simp] theorem linkAck_stg (e : Engine) (l h : Bool) (a : Nat) : (e.linkAck l h a).stg = e.stg := by unfold linkAck; simp
@[simp] theorem linkAck_mem (e : Engine) (l h : Bool) (a : Nat) : (e.linkAck l h a).mem = e.mem := by unfold linkAck; simp
@[simp] theorem linkAck_job (e : Engine) (l h : Bool) (a : Nat) : (e.linkAck l h a).job = e.job := by unfold linkAck; simp
@[simp] theorem linkAck_host (e : Engine) (l h : Bool) (a : Nat) : (e.linkAck l h a).host = e.host := by unfold linkAck; simp
@[simp] theorem linkAck_i2c (e : Engine) (l h : Bool) (a : Nat) : (e.linkAck l h a).i2c = e.i2c := by unfold linkAck; simp
@[simp] theorem linkAck_sec (e : Engine) (l h : Bool) (a : Nat) : (e.linkAck l h a).sec = e.sec := by unfold linkAck; simp
@[simp] theorem linkAck_tap (e : Engine) (l h : Bool) (a : Nat) : (e.linkAck l h a).tap = e.tap := by unfold linkAck; simp
@[simp] theorem linkAck_latch (e : Engine) (l h : Bool) (a : Nat) : (e.linkAck l h a).latch = e.latch := by unfold linkAck; simp
@[simp] theorem linkAck_arriving (e : Engine) (l h : Bool) (a : Nat) : (e.linkAck l h a).arriving = e.arriving := by unfold linkAck; simp
@[simp] theorem linkAck_tx (e : Engine) (l h : Bool) (a : Nat) : (e.linkAck l h a).tx = e.tx := by unfold linkAck; simp

/-! ### setSeen -/

@[simp] theorem setSeen_regs (e : Engine) (n : Nat) (f : Seen → Seen) : (e.setSeen n f).regs = e.regs := by unfold setSeen; split <;> rfl
@[simp] theorem setSeen_cyc (e : Engine) (n : Nat) (f : Seen → Seen) : (e.setSeen n f).cyc = e.cyc := by unfold setSeen; split <;> rfl
@[simp] theorem setSeen_time (e : Engine) (n : Nat) (f : Seen → Seen) : (e.setSeen n f).time = e.time := by unfold setSeen; split <;> rfl
@[simp] theorem setSeen_clk (e : Engine) (n : Nat) (f : Seen → Seen) : (e.setSeen n f).clk = e.clk := by unfold setSeen; split <;> rfl
@[simp] theorem setSeen_tide (e : Engine) (n : Nat) (f : Seen → Seen) : (e.setSeen n f).tide = e.tide := by unfold setSeen; split <;> rfl
@[simp] theorem setSeen_sys (e : Engine) (n : Nat) (f : Seen → Seen) : (e.setSeen n f).sys = e.sys := by unfold setSeen; split <;> rfl
@[simp] theorem setSeen_pwr (e : Engine) (n : Nat) (f : Seen → Seen) : (e.setSeen n f).pwr = e.pwr := by unfold setSeen; split <;> rfl
@[simp] theorem setSeen_lanes (e : Engine) (n : Nat) (f : Seen → Seen) : (e.setSeen n f).lanes = e.lanes := by unfold setSeen; split <;> rfl
@[simp] theorem setSeen_pods (e : Engine) (n : Nat) (f : Seen → Seen) : (e.setSeen n f).pods = e.pods := by unfold setSeen; split <;> rfl
@[simp] theorem setSeen_bus (e : Engine) (n : Nat) (f : Seen → Seen) : (e.setSeen n f).bus = e.bus := by unfold setSeen; split <;> rfl
@[simp] theorem setSeen_tdc (e : Engine) (n : Nat) (f : Seen → Seen) : (e.setSeen n f).tdc = e.tdc := by unfold setSeen; split <;> rfl
@[simp] theorem setSeen_recb (e : Engine) (n : Nat) (f : Seen → Seen) : (e.setSeen n f).recb = e.recb := by unfold setSeen; split <;> rfl
@[simp] theorem setSeen_stg (e : Engine) (n : Nat) (f : Seen → Seen) : (e.setSeen n f).stg = e.stg := by unfold setSeen; split <;> rfl
@[simp] theorem setSeen_mem (e : Engine) (n : Nat) (f : Seen → Seen) : (e.setSeen n f).mem = e.mem := by unfold setSeen; split <;> rfl
@[simp] theorem setSeen_job (e : Engine) (n : Nat) (f : Seen → Seen) : (e.setSeen n f).job = e.job := by unfold setSeen; split <;> rfl
@[simp] theorem setSeen_host (e : Engine) (n : Nat) (f : Seen → Seen) : (e.setSeen n f).host = e.host := by unfold setSeen; split <;> rfl
@[simp] theorem setSeen_i2c (e : Engine) (n : Nat) (f : Seen → Seen) : (e.setSeen n f).i2c = e.i2c := by unfold setSeen; split <;> rfl
@[simp] theorem setSeen_hinge (e : Engine) (n : Nat) (f : Seen → Seen) : (e.setSeen n f).hinge = e.hinge := by unfold setSeen; split <;> rfl
@[simp] theorem setSeen_sec (e : Engine) (n : Nat) (f : Seen → Seen) : (e.setSeen n f).sec = e.sec := by unfold setSeen; split <;> rfl
@[simp] theorem setSeen_tap (e : Engine) (n : Nat) (f : Seen → Seen) : (e.setSeen n f).tap = e.tap := by unfold setSeen; split <;> rfl
@[simp] theorem setSeen_latch (e : Engine) (n : Nat) (f : Seen → Seen) : (e.setSeen n f).latch = e.latch := by unfold setSeen; split <;> rfl
@[simp] theorem setSeen_arriving (e : Engine) (n : Nat) (f : Seen → Seen) : (e.setSeen n f).arriving = e.arriving := by unfold setSeen; split <;> rfl
@[simp] theorem setSeen_tx (e : Engine) (n : Nat) (f : Seen → Seen) : (e.setSeen n f).tx = e.tx := by unfold setSeen; split <;> rfl

/-! ### touchSess -/

@[simp] theorem touchSess_regs (e : Engine) (p s : Nat) : (e.touchSess p s).regs = e.regs := by cases e; rfl
@[simp] theorem touchSess_cyc (e : Engine) (p s : Nat) : (e.touchSess p s).cyc = e.cyc := by cases e; rfl
@[simp] theorem touchSess_time (e : Engine) (p s : Nat) : (e.touchSess p s).time = e.time := by cases e; rfl
@[simp] theorem touchSess_clk (e : Engine) (p s : Nat) : (e.touchSess p s).clk = e.clk := by cases e; rfl
@[simp] theorem touchSess_tide (e : Engine) (p s : Nat) : (e.touchSess p s).tide = e.tide := by cases e; rfl
@[simp] theorem touchSess_sys (e : Engine) (p s : Nat) : (e.touchSess p s).sys = e.sys := by cases e; rfl
@[simp] theorem touchSess_pwr (e : Engine) (p s : Nat) : (e.touchSess p s).pwr = e.pwr := by cases e; rfl
@[simp] theorem touchSess_lanes (e : Engine) (p s : Nat) : (e.touchSess p s).lanes = e.lanes := by cases e; rfl
@[simp] theorem touchSess_pods (e : Engine) (p s : Nat) : (e.touchSess p s).pods = e.pods := by cases e; rfl
@[simp] theorem touchSess_bus (e : Engine) (p s : Nat) : (e.touchSess p s).bus = e.bus := by cases e; rfl
@[simp] theorem touchSess_tdc (e : Engine) (p s : Nat) : (e.touchSess p s).tdc = e.tdc := by cases e; rfl
@[simp] theorem touchSess_seq (e : Engine) (p s : Nat) : (e.touchSess p s).seq = e.seq := by cases e; rfl
@[simp] theorem touchSess_recb (e : Engine) (p s : Nat) : (e.touchSess p s).recb = e.recb := by cases e; rfl
@[simp] theorem touchSess_stg (e : Engine) (p s : Nat) : (e.touchSess p s).stg = e.stg := by cases e; rfl
@[simp] theorem touchSess_mem (e : Engine) (p s : Nat) : (e.touchSess p s).mem = e.mem := by cases e; rfl
@[simp] theorem touchSess_job (e : Engine) (p s : Nat) : (e.touchSess p s).job = e.job := by cases e; rfl
@[simp] theorem touchSess_host (e : Engine) (p s : Nat) : (e.touchSess p s).host = e.host := by cases e; rfl
@[simp] theorem touchSess_i2c (e : Engine) (p s : Nat) : (e.touchSess p s).i2c = e.i2c := by cases e; rfl
@[simp] theorem touchSess_hinge (e : Engine) (p s : Nat) : (e.touchSess p s).hinge = e.hinge := by cases e; rfl
@[simp] theorem touchSess_tap (e : Engine) (p s : Nat) : (e.touchSess p s).tap = e.tap := by cases e; rfl
@[simp] theorem touchSess_latch (e : Engine) (p s : Nat) : (e.touchSess p s).latch = e.latch := by cases e; rfl
@[simp] theorem touchSess_arriving (e : Engine) (p s : Nat) : (e.touchSess p s).arriving = e.arriving := by cases e; rfl
@[simp] theorem touchSess_tx (e : Engine) (p s : Nat) : (e.touchSess p s).tx = e.tx := by cases e; rfl

/-! ### censusTo -/

@[simp] theorem censusTo_regs (e : Engine) (n s : Nat) : (e.censusTo n s).regs = e.regs := by unfold censusTo; simp only [setPod_regs]
@[simp] theorem censusTo_cyc (e : Engine) (n s : Nat) : (e.censusTo n s).cyc = e.cyc := by unfold censusTo; simp only [setPod_cyc]
@[simp] theorem censusTo_time (e : Engine) (n s : Nat) : (e.censusTo n s).time = e.time := by unfold censusTo; simp only [setPod_time]
@[simp] theorem censusTo_clk (e : Engine) (n s : Nat) : (e.censusTo n s).clk = e.clk := by unfold censusTo; simp only [setPod_clk]
@[simp] theorem censusTo_tide (e : Engine) (n s : Nat) : (e.censusTo n s).tide = e.tide := by unfold censusTo; simp only [setPod_tide]
@[simp] theorem censusTo_sys (e : Engine) (n s : Nat) : (e.censusTo n s).sys = e.sys := by unfold censusTo; simp only [setPod_sys]
@[simp] theorem censusTo_pwr (e : Engine) (n s : Nat) : (e.censusTo n s).pwr = e.pwr := by unfold censusTo; simp only [setPod_pwr]
@[simp] theorem censusTo_lanes (e : Engine) (n s : Nat) : (e.censusTo n s).lanes = e.lanes := by unfold censusTo; simp only [setPod_lanes]
@[simp] theorem censusTo_bus (e : Engine) (n s : Nat) : (e.censusTo n s).bus = e.bus := by unfold censusTo; simp only [setPod_bus]
@[simp] theorem censusTo_tdc (e : Engine) (n s : Nat) : (e.censusTo n s).tdc = e.tdc := by unfold censusTo; simp only [setPod_tdc]
@[simp] theorem censusTo_seq (e : Engine) (n s : Nat) : (e.censusTo n s).seq = e.seq := by unfold censusTo; simp only [setPod_seq]
@[simp] theorem censusTo_recb (e : Engine) (n s : Nat) : (e.censusTo n s).recb = e.recb := by unfold censusTo; simp only [setPod_recb]
@[simp] theorem censusTo_stg (e : Engine) (n s : Nat) : (e.censusTo n s).stg = e.stg := by unfold censusTo; simp only [setPod_stg]
@[simp] theorem censusTo_mem (e : Engine) (n s : Nat) : (e.censusTo n s).mem = e.mem := by unfold censusTo; simp only [setPod_mem]
@[simp] theorem censusTo_job (e : Engine) (n s : Nat) : (e.censusTo n s).job = e.job := by unfold censusTo; simp only [setPod_job]
@[simp] theorem censusTo_host (e : Engine) (n s : Nat) : (e.censusTo n s).host = e.host := by unfold censusTo; simp only [setPod_host]
@[simp] theorem censusTo_i2c (e : Engine) (n s : Nat) : (e.censusTo n s).i2c = e.i2c := by unfold censusTo; simp only [setPod_i2c]
@[simp] theorem censusTo_hinge (e : Engine) (n s : Nat) : (e.censusTo n s).hinge = e.hinge := by unfold censusTo; simp only [setPod_hinge]
@[simp] theorem censusTo_sec (e : Engine) (n s : Nat) : (e.censusTo n s).sec = e.sec := by unfold censusTo; simp only [setPod_sec]
@[simp] theorem censusTo_tap (e : Engine) (n s : Nat) : (e.censusTo n s).tap = e.tap := by unfold censusTo; simp only [setPod_tap]
@[simp] theorem censusTo_latch (e : Engine) (n s : Nat) : (e.censusTo n s).latch = e.latch := by unfold censusTo; simp only [setPod_latch]
@[simp] theorem censusTo_arriving (e : Engine) (n s : Nat) : (e.censusTo n s).arriving = e.arriving := by unfold censusTo; simp only [setPod_arriving]
@[simp] theorem censusTo_tx (e : Engine) (n s : Nat) : (e.censusTo n s).tx = e.tx := by unfold censusTo; simp only [setPod_tx]

/-! ### entriesTo -/

@[simp] theorem entriesTo_regs (e : Engine) (n s : Nat) : (e.entriesTo n s).regs = e.regs := by cases e; rfl
@[simp] theorem entriesTo_cyc (e : Engine) (n s : Nat) : (e.entriesTo n s).cyc = e.cyc := by cases e; rfl
@[simp] theorem entriesTo_time (e : Engine) (n s : Nat) : (e.entriesTo n s).time = e.time := by cases e; rfl
@[simp] theorem entriesTo_clk (e : Engine) (n s : Nat) : (e.entriesTo n s).clk = e.clk := by cases e; rfl
@[simp] theorem entriesTo_tide (e : Engine) (n s : Nat) : (e.entriesTo n s).tide = e.tide := by cases e; rfl
@[simp] theorem entriesTo_sys (e : Engine) (n s : Nat) : (e.entriesTo n s).sys = e.sys := by cases e; rfl
@[simp] theorem entriesTo_pwr (e : Engine) (n s : Nat) : (e.entriesTo n s).pwr = e.pwr := by cases e; rfl
@[simp] theorem entriesTo_lanes (e : Engine) (n s : Nat) : (e.entriesTo n s).lanes = e.lanes := by cases e; rfl
@[simp] theorem entriesTo_pods (e : Engine) (n s : Nat) : (e.entriesTo n s).pods = e.pods := by cases e; rfl
@[simp] theorem entriesTo_tdc (e : Engine) (n s : Nat) : (e.entriesTo n s).tdc = e.tdc := by cases e; rfl
@[simp] theorem entriesTo_seq (e : Engine) (n s : Nat) : (e.entriesTo n s).seq = e.seq := by cases e; rfl
@[simp] theorem entriesTo_recb (e : Engine) (n s : Nat) : (e.entriesTo n s).recb = e.recb := by cases e; rfl
@[simp] theorem entriesTo_stg (e : Engine) (n s : Nat) : (e.entriesTo n s).stg = e.stg := by cases e; rfl
@[simp] theorem entriesTo_mem (e : Engine) (n s : Nat) : (e.entriesTo n s).mem = e.mem := by cases e; rfl
@[simp] theorem entriesTo_job (e : Engine) (n s : Nat) : (e.entriesTo n s).job = e.job := by cases e; rfl
@[simp] theorem entriesTo_host (e : Engine) (n s : Nat) : (e.entriesTo n s).host = e.host := by cases e; rfl
@[simp] theorem entriesTo_i2c (e : Engine) (n s : Nat) : (e.entriesTo n s).i2c = e.i2c := by cases e; rfl
@[simp] theorem entriesTo_hinge (e : Engine) (n s : Nat) : (e.entriesTo n s).hinge = e.hinge := by cases e; rfl
@[simp] theorem entriesTo_sec (e : Engine) (n s : Nat) : (e.entriesTo n s).sec = e.sec := by cases e; rfl
@[simp] theorem entriesTo_tap (e : Engine) (n s : Nat) : (e.entriesTo n s).tap = e.tap := by cases e; rfl
@[simp] theorem entriesTo_latch (e : Engine) (n s : Nat) : (e.entriesTo n s).latch = e.latch := by cases e; rfl
@[simp] theorem entriesTo_arriving (e : Engine) (n s : Nat) : (e.entriesTo n s).arriving = e.arriving := by cases e; rfl
@[simp] theorem entriesTo_tx (e : Engine) (n s : Nat) : (e.entriesTo n s).tx = e.tx := by cases e; rfl

/-! ### noGain -/

@[simp] theorem noGain_cyc (e : Engine) (n : Nat) : (e.noGain n).cyc = e.cyc := by unfold noGain; simp only [wr_cyc]
@[simp] theorem noGain_time (e : Engine) (n : Nat) : (e.noGain n).time = e.time := by unfold noGain; simp only [wr_time]
@[simp] theorem noGain_clk (e : Engine) (n : Nat) : (e.noGain n).clk = e.clk := by unfold noGain; simp only [wr_clk]
@[simp] theorem noGain_tide (e : Engine) (n : Nat) : (e.noGain n).tide = e.tide := by unfold noGain; simp only [wr_tide]
@[simp] theorem noGain_sys (e : Engine) (n : Nat) : (e.noGain n).sys = e.sys := by unfold noGain; simp only [wr_sys]
@[simp] theorem noGain_pwr (e : Engine) (n : Nat) : (e.noGain n).pwr = e.pwr := by unfold noGain; simp only [wr_pwr]
@[simp] theorem noGain_lanes (e : Engine) (n : Nat) : (e.noGain n).lanes = e.lanes := by unfold noGain; simp only [wr_lanes]
@[simp] theorem noGain_pods (e : Engine) (n : Nat) : (e.noGain n).pods = e.pods := by unfold noGain; simp only [wr_pods]
@[simp] theorem noGain_bus (e : Engine) (n : Nat) : (e.noGain n).bus = e.bus := by unfold noGain; simp only [wr_bus]
@[simp] theorem noGain_tdc (e : Engine) (n : Nat) : (e.noGain n).tdc = e.tdc := by unfold noGain; simp only [wr_tdc]
@[simp] theorem noGain_seq (e : Engine) (n : Nat) : (e.noGain n).seq = e.seq := by unfold noGain; simp only [wr_seq]
@[simp] theorem noGain_recb (e : Engine) (n : Nat) : (e.noGain n).recb = e.recb := by unfold noGain; simp only [wr_recb]
@[simp] theorem noGain_stg (e : Engine) (n : Nat) : (e.noGain n).stg = e.stg := by unfold noGain; simp only [wr_stg]
@[simp] theorem noGain_mem (e : Engine) (n : Nat) : (e.noGain n).mem = e.mem := by unfold noGain; simp only [wr_mem]
@[simp] theorem noGain_job (e : Engine) (n : Nat) : (e.noGain n).job = e.job := by unfold noGain; simp only [wr_job]
@[simp] theorem noGain_host (e : Engine) (n : Nat) : (e.noGain n).host = e.host := by unfold noGain; simp only [wr_host]
@[simp] theorem noGain_i2c (e : Engine) (n : Nat) : (e.noGain n).i2c = e.i2c := by unfold noGain; simp only [wr_i2c]
@[simp] theorem noGain_hinge (e : Engine) (n : Nat) : (e.noGain n).hinge = e.hinge := by unfold noGain; simp only [wr_hinge]
@[simp] theorem noGain_sec (e : Engine) (n : Nat) : (e.noGain n).sec = e.sec := by unfold noGain; simp only [wr_sec]
@[simp] theorem noGain_tap (e : Engine) (n : Nat) : (e.noGain n).tap = e.tap := by unfold noGain; simp only [wr_tap]
@[simp] theorem noGain_latch (e : Engine) (n : Nat) : (e.noGain n).latch = e.latch := by unfold noGain; simp only [wr_latch]
@[simp] theorem noGain_arriving (e : Engine) (n : Nat) : (e.noGain n).arriving = e.arriving := by unfold noGain; simp only [wr_arriving]
@[simp] theorem noGain_tx (e : Engine) (n : Nat) : (e.noGain n).tx = e.tx := by unfold noGain; simp only [wr_tx]

/-! ### podLast -/

@[simp] theorem podLast_cyc (e : Engine) (k n : Nat) : (e.podLast k n).cyc = e.cyc := by unfold podLast; simp only [wr_cyc]
@[simp] theorem podLast_time (e : Engine) (k n : Nat) : (e.podLast k n).time = e.time := by unfold podLast; simp only [wr_time]
@[simp] theorem podLast_clk (e : Engine) (k n : Nat) : (e.podLast k n).clk = e.clk := by unfold podLast; simp only [wr_clk]
@[simp] theorem podLast_tide (e : Engine) (k n : Nat) : (e.podLast k n).tide = e.tide := by unfold podLast; simp only [wr_tide]
@[simp] theorem podLast_sys (e : Engine) (k n : Nat) : (e.podLast k n).sys = e.sys := by unfold podLast; simp only [wr_sys]
@[simp] theorem podLast_pwr (e : Engine) (k n : Nat) : (e.podLast k n).pwr = e.pwr := by unfold podLast; simp only [wr_pwr]
@[simp] theorem podLast_lanes (e : Engine) (k n : Nat) : (e.podLast k n).lanes = e.lanes := by unfold podLast; simp only [wr_lanes]
@[simp] theorem podLast_pods (e : Engine) (k n : Nat) : (e.podLast k n).pods = e.pods := by unfold podLast; simp only [wr_pods]
@[simp] theorem podLast_bus (e : Engine) (k n : Nat) : (e.podLast k n).bus = e.bus := by unfold podLast; simp only [wr_bus]
@[simp] theorem podLast_tdc (e : Engine) (k n : Nat) : (e.podLast k n).tdc = e.tdc := by unfold podLast; simp only [wr_tdc]
@[simp] theorem podLast_seq (e : Engine) (k n : Nat) : (e.podLast k n).seq = e.seq := by unfold podLast; simp only [wr_seq]
@[simp] theorem podLast_recb (e : Engine) (k n : Nat) : (e.podLast k n).recb = e.recb := by unfold podLast; simp only [wr_recb]
@[simp] theorem podLast_stg (e : Engine) (k n : Nat) : (e.podLast k n).stg = e.stg := by unfold podLast; simp only [wr_stg]
@[simp] theorem podLast_mem (e : Engine) (k n : Nat) : (e.podLast k n).mem = e.mem := by unfold podLast; simp only [wr_mem]
@[simp] theorem podLast_job (e : Engine) (k n : Nat) : (e.podLast k n).job = e.job := by unfold podLast; simp only [wr_job]
@[simp] theorem podLast_host (e : Engine) (k n : Nat) : (e.podLast k n).host = e.host := by unfold podLast; simp only [wr_host]
@[simp] theorem podLast_i2c (e : Engine) (k n : Nat) : (e.podLast k n).i2c = e.i2c := by unfold podLast; simp only [wr_i2c]
@[simp] theorem podLast_hinge (e : Engine) (k n : Nat) : (e.podLast k n).hinge = e.hinge := by unfold podLast; simp only [wr_hinge]
@[simp] theorem podLast_sec (e : Engine) (k n : Nat) : (e.podLast k n).sec = e.sec := by unfold podLast; simp only [wr_sec]
@[simp] theorem podLast_tap (e : Engine) (k n : Nat) : (e.podLast k n).tap = e.tap := by unfold podLast; simp only [wr_tap]
@[simp] theorem podLast_latch (e : Engine) (k n : Nat) : (e.podLast k n).latch = e.latch := by unfold podLast; simp only [wr_latch]
@[simp] theorem podLast_arriving (e : Engine) (k n : Nat) : (e.podLast k n).arriving = e.arriving := by unfold podLast; simp only [wr_arriving]
@[simp] theorem podLast_tx (e : Engine) (k n : Nat) : (e.podLast k n).tx = e.tx := by unfold podLast; simp only [wr_tx]

/-! ### podMark -/

@[simp] theorem podMark_regs (e : Engine) (n k a : Nat) : (e.podMark n k a).regs = e.regs := by unfold podMark; simp only [inCyc_regs]
@[simp] theorem podMark_cyc (e : Engine) (n k a : Nat) : (e.podMark n k a).cyc = e.cyc := by unfold podMark; simp only [inCyc_cyc]
@[simp] theorem podMark_time (e : Engine) (n k a : Nat) : (e.podMark n k a).time = e.time := by unfold podMark; simp only [inCyc_time]
@[simp] theorem podMark_clk (e : Engine) (n k a : Nat) : (e.podMark n k a).clk = e.clk := by unfold podMark; simp only [inCyc_clk]
@[simp] theorem podMark_tide (e : Engine) (n k a : Nat) : (e.podMark n k a).tide = e.tide := by unfold podMark; simp only [inCyc_tide]
@[simp] theorem podMark_sys (e : Engine) (n k a : Nat) : (e.podMark n k a).sys = e.sys := by unfold podMark; simp only [inCyc_sys]
@[simp] theorem podMark_pwr (e : Engine) (n k a : Nat) : (e.podMark n k a).pwr = e.pwr := by unfold podMark; simp only [inCyc_pwr]
@[simp] theorem podMark_lanes (e : Engine) (n k a : Nat) : (e.podMark n k a).lanes = e.lanes := by unfold podMark; simp only [inCyc_lanes]
@[simp] theorem podMark_pods (e : Engine) (n k a : Nat) : (e.podMark n k a).pods = e.pods := by unfold podMark; simp only [inCyc_pods]
@[simp] theorem podMark_bus (e : Engine) (n k a : Nat) : (e.podMark n k a).bus = e.bus := by unfold podMark; simp only [inCyc_bus]
@[simp] theorem podMark_tdc (e : Engine) (n k a : Nat) : (e.podMark n k a).tdc = e.tdc := by unfold podMark; simp only [inCyc_tdc]
@[simp] theorem podMark_seq (e : Engine) (n k a : Nat) : (e.podMark n k a).seq = e.seq := by unfold podMark; simp only [inCyc_seq]
@[simp] theorem podMark_stg (e : Engine) (n k a : Nat) : (e.podMark n k a).stg = e.stg := by unfold podMark; simp only [inCyc_stg]
@[simp] theorem podMark_mem (e : Engine) (n k a : Nat) : (e.podMark n k a).mem = e.mem := by unfold podMark; simp only [inCyc_mem]
@[simp] theorem podMark_job (e : Engine) (n k a : Nat) : (e.podMark n k a).job = e.job := by unfold podMark; simp only [inCyc_job]
@[simp] theorem podMark_host (e : Engine) (n k a : Nat) : (e.podMark n k a).host = e.host := by unfold podMark; simp only [inCyc_host]
@[simp] theorem podMark_i2c (e : Engine) (n k a : Nat) : (e.podMark n k a).i2c = e.i2c := by unfold podMark; simp only [inCyc_i2c]
@[simp] theorem podMark_hinge (e : Engine) (n k a : Nat) : (e.podMark n k a).hinge = e.hinge := by unfold podMark; simp only [inCyc_hinge]
@[simp] theorem podMark_sec (e : Engine) (n k a : Nat) : (e.podMark n k a).sec = e.sec := by unfold podMark; simp only [inCyc_sec]
@[simp] theorem podMark_tap (e : Engine) (n k a : Nat) : (e.podMark n k a).tap = e.tap := by unfold podMark; simp only [inCyc_tap]
@[simp] theorem podMark_latch (e : Engine) (n k a : Nat) : (e.podMark n k a).latch = e.latch := by unfold podMark; simp only [inCyc_latch]
@[simp] theorem podMark_arriving (e : Engine) (n k a : Nat) : (e.podMark n k a).arriving = e.arriving := by unfold podMark; simp only [inCyc_arriving]
@[simp] theorem podMark_tx (e : Engine) (n k a : Nat) : (e.podMark n k a).tx = e.tx := by unfold podMark; simp only [inCyc_tx]

/-! ### secResult -/

@[simp] theorem secResult_regs (e : Engine) (p r : Nat) : (e.secResult p r).regs = e.regs := by cases e; rfl
@[simp] theorem secResult_cyc (e : Engine) (p r : Nat) : (e.secResult p r).cyc = e.cyc := by cases e; rfl
@[simp] theorem secResult_time (e : Engine) (p r : Nat) : (e.secResult p r).time = e.time := by cases e; rfl
@[simp] theorem secResult_clk (e : Engine) (p r : Nat) : (e.secResult p r).clk = e.clk := by cases e; rfl
@[simp] theorem secResult_tide (e : Engine) (p r : Nat) : (e.secResult p r).tide = e.tide := by cases e; rfl
@[simp] theorem secResult_sys (e : Engine) (p r : Nat) : (e.secResult p r).sys = e.sys := by cases e; rfl
@[simp] theorem secResult_pwr (e : Engine) (p r : Nat) : (e.secResult p r).pwr = e.pwr := by cases e; rfl
@[simp] theorem secResult_lanes (e : Engine) (p r : Nat) : (e.secResult p r).lanes = e.lanes := by cases e; rfl
@[simp] theorem secResult_pods (e : Engine) (p r : Nat) : (e.secResult p r).pods = e.pods := by cases e; rfl
@[simp] theorem secResult_bus (e : Engine) (p r : Nat) : (e.secResult p r).bus = e.bus := by cases e; rfl
@[simp] theorem secResult_tdc (e : Engine) (p r : Nat) : (e.secResult p r).tdc = e.tdc := by cases e; rfl
@[simp] theorem secResult_seq (e : Engine) (p r : Nat) : (e.secResult p r).seq = e.seq := by cases e; rfl
@[simp] theorem secResult_recb (e : Engine) (p r : Nat) : (e.secResult p r).recb = e.recb := by cases e; rfl
@[simp] theorem secResult_stg (e : Engine) (p r : Nat) : (e.secResult p r).stg = e.stg := by cases e; rfl
@[simp] theorem secResult_mem (e : Engine) (p r : Nat) : (e.secResult p r).mem = e.mem := by cases e; rfl
@[simp] theorem secResult_job (e : Engine) (p r : Nat) : (e.secResult p r).job = e.job := by cases e; rfl
@[simp] theorem secResult_host (e : Engine) (p r : Nat) : (e.secResult p r).host = e.host := by cases e; rfl
@[simp] theorem secResult_i2c (e : Engine) (p r : Nat) : (e.secResult p r).i2c = e.i2c := by cases e; rfl
@[simp] theorem secResult_hinge (e : Engine) (p r : Nat) : (e.secResult p r).hinge = e.hinge := by cases e; rfl
@[simp] theorem secResult_tap (e : Engine) (p r : Nat) : (e.secResult p r).tap = e.tap := by cases e; rfl
@[simp] theorem secResult_latch (e : Engine) (p r : Nat) : (e.secResult p r).latch = e.latch := by cases e; rfl
@[simp] theorem secResult_arriving (e : Engine) (p r : Nat) : (e.secResult p r).arriving = e.arriving := by cases e; rfl
@[simp] theorem secResult_tx (e : Engine) (p r : Nat) : (e.secResult p r).tx = e.tx := by cases e; rfl

/-! ### clearBuf -/

@[simp] theorem clearBuf_regs (e : Engine) (p : Nat) : (e.clearBuf p).regs = e.regs := by cases e; rfl
@[simp] theorem clearBuf_cyc (e : Engine) (p : Nat) : (e.clearBuf p).cyc = e.cyc := by cases e; rfl
@[simp] theorem clearBuf_time (e : Engine) (p : Nat) : (e.clearBuf p).time = e.time := by cases e; rfl
@[simp] theorem clearBuf_clk (e : Engine) (p : Nat) : (e.clearBuf p).clk = e.clk := by cases e; rfl
@[simp] theorem clearBuf_tide (e : Engine) (p : Nat) : (e.clearBuf p).tide = e.tide := by cases e; rfl
@[simp] theorem clearBuf_sys (e : Engine) (p : Nat) : (e.clearBuf p).sys = e.sys := by cases e; rfl
@[simp] theorem clearBuf_pwr (e : Engine) (p : Nat) : (e.clearBuf p).pwr = e.pwr := by cases e; rfl
@[simp] theorem clearBuf_lanes (e : Engine) (p : Nat) : (e.clearBuf p).lanes = e.lanes := by cases e; rfl
@[simp] theorem clearBuf_pods (e : Engine) (p : Nat) : (e.clearBuf p).pods = e.pods := by cases e; rfl
@[simp] theorem clearBuf_bus (e : Engine) (p : Nat) : (e.clearBuf p).bus = e.bus := by cases e; rfl
@[simp] theorem clearBuf_tdc (e : Engine) (p : Nat) : (e.clearBuf p).tdc = e.tdc := by cases e; rfl
@[simp] theorem clearBuf_seq (e : Engine) (p : Nat) : (e.clearBuf p).seq = e.seq := by cases e; rfl
@[simp] theorem clearBuf_recb (e : Engine) (p : Nat) : (e.clearBuf p).recb = e.recb := by cases e; rfl
@[simp] theorem clearBuf_stg (e : Engine) (p : Nat) : (e.clearBuf p).stg = e.stg := by cases e; rfl
@[simp] theorem clearBuf_mem (e : Engine) (p : Nat) : (e.clearBuf p).mem = e.mem := by cases e; rfl
@[simp] theorem clearBuf_job (e : Engine) (p : Nat) : (e.clearBuf p).job = e.job := by cases e; rfl
@[simp] theorem clearBuf_host (e : Engine) (p : Nat) : (e.clearBuf p).host = e.host := by cases e; rfl
@[simp] theorem clearBuf_i2c (e : Engine) (p : Nat) : (e.clearBuf p).i2c = e.i2c := by cases e; rfl
@[simp] theorem clearBuf_hinge (e : Engine) (p : Nat) : (e.clearBuf p).hinge = e.hinge := by cases e; rfl
@[simp] theorem clearBuf_tap (e : Engine) (p : Nat) : (e.clearBuf p).tap = e.tap := by cases e; rfl
@[simp] theorem clearBuf_latch (e : Engine) (p : Nat) : (e.clearBuf p).latch = e.latch := by cases e; rfl
@[simp] theorem clearBuf_arriving (e : Engine) (p : Nat) : (e.clearBuf p).arriving = e.arriving := by cases e; rfl
@[simp] theorem clearBuf_tx (e : Engine) (p : Nat) : (e.clearBuf p).tx = e.tx := by cases e; rfl

/-! ### settle -/

/-- What send leaves of the engine, a run of sends leaves. -/
theorem sends_keep {α : Type} (g : Engine → α) (h : ∀ e x, g (e.send x) = g e) (l : List Tx) :
    ∀ e : Engine, g (l.foldl send e) = g e := by
  induction l with
  | nil => intro e; rfl
  | cons a t ih => intro e; rw [List.foldl_cons, ih, h]

@[simp] theorem settle_regs (e : Engine) : (e.settle).regs = e.regs := sends_keep (·.regs) (by simp) e.spoken e
@[simp] theorem settle_cyc (e : Engine) : (e.settle).cyc = e.cyc := sends_keep (·.cyc) (by simp) e.spoken e
@[simp] theorem settle_time (e : Engine) : (e.settle).time = e.time := sends_keep (·.time) (by simp) e.spoken e
@[simp] theorem settle_clk (e : Engine) : (e.settle).clk = e.clk := sends_keep (·.clk) (by simp) e.spoken e
@[simp] theorem settle_tide (e : Engine) : (e.settle).tide = e.tide := sends_keep (·.tide) (by simp) e.spoken e
@[simp] theorem settle_sys (e : Engine) : (e.settle).sys = e.sys := sends_keep (·.sys) (by simp) e.spoken e
@[simp] theorem settle_pwr (e : Engine) : (e.settle).pwr = e.pwr := sends_keep (·.pwr) (by simp) e.spoken e
@[simp] theorem settle_lanes (e : Engine) : (e.settle).lanes = e.lanes := sends_keep (·.lanes) (by simp) e.spoken e
@[simp] theorem settle_pods (e : Engine) : (e.settle).pods = e.pods := sends_keep (·.pods) (by simp) e.spoken e
@[simp] theorem settle_bus (e : Engine) : (e.settle).bus = e.bus := sends_keep (·.bus) (by simp) e.spoken e
@[simp] theorem settle_tdc (e : Engine) : (e.settle).tdc = e.tdc := sends_keep (·.tdc) (by simp) e.spoken e
@[simp] theorem settle_seq (e : Engine) : (e.settle).seq = e.seq := sends_keep (·.seq) (by simp) e.spoken e
@[simp] theorem settle_recb (e : Engine) : (e.settle).recb = e.recb := sends_keep (·.recb) (by simp) e.spoken e
@[simp] theorem settle_stg (e : Engine) : (e.settle).stg = e.stg := sends_keep (·.stg) (by simp) e.spoken e
@[simp] theorem settle_mem (e : Engine) : (e.settle).mem = e.mem := sends_keep (·.mem) (by simp) e.spoken e
@[simp] theorem settle_hinge (e : Engine) : (e.settle).hinge = e.hinge := sends_keep (·.hinge) (by simp) e.spoken e
@[simp] theorem settle_sec (e : Engine) : (e.settle).sec = e.sec := sends_keep (·.sec) (by simp) e.spoken e
@[simp] theorem settle_tap (e : Engine) : (e.settle).tap = e.tap := sends_keep (·.tap) (by simp) e.spoken e
@[simp] theorem settle_latch (e : Engine) : (e.settle).latch = e.latch := sends_keep (·.latch) (by simp) e.spoken e
@[simp] theorem settle_arriving (e : Engine) : (e.settle).arriving = e.arriving := sends_keep (·.arriving) (by simp) e.spoken e

end Sys2Proof.Machine.Engine
end

