-- ==== Sys2Proof/Laws/Beat.lean ====
section
/-! SUPPORT. What the passing of a cycle and the work of a tide boundary leave alone: the count of cycles, the time base,
the count of tides, the snapshot of the time base and the shadow store. One lemma per operation that either goes through. -/

namespace Sys2Proof.Machine.Engine

set_option linter.all false

/-- The fields that only the beat of the machine moves: cycle, time base, counting, tides, the time base's snapshot, the
shadow store. -/
def beat (e : Engine) : Nat × Time × Bool × Nat × Time × List Pend :=
  (e.time.now, e.time.tb, e.time.counting, e.time.tides, e.tide.snapTb, e.tide.store)
@[simp] theorem beat_fold (e : Engine) :
    (e.time.now, e.time.tb, e.time.counting, e.time.tides, e.tide.snapTb, e.tide.store) = e.beat := rfl
theorem foldl_beat {α : Type} (f : Engine → α → Engine) (h : ∀ e x, (f e x).beat = e.beat) (l : List α) :
    ∀ e, (l.foldl f e).beat = e.beat := by
  induction l with
  | nil => intro e; rfl
  | cons a t ih => intro e; rw [List.foldl_cons, ih, h]
theorem foldl_beat1 {α β : Type} (f : Engine × β → α → Engine × β) (h : ∀ e x, (f e x).1.beat = e.1.beat) (l : List α) :
    ∀ e, (l.foldl f e).1.beat = e.1.beat := by
  induction l with
  | nil => intro e; rfl
  | cons a t ih => intro e; rw [List.foldl_cons, ih, h]
@[simp] theorem beat_mk (a b c d e f g h i j k l m n o p q r s t u v w x) :
    (mk a b c d e f g h i j k l m n o p q r s t u v w x).beat = (c.now, c.tb, c.counting, c.tides, e.snapTb, e.store) := rfl
theorem mk_beat (a b c d e f g h i j k l m n o p q r s t u v w x) (y : Engine) (hc : c = y.time) (he : e = y.tide) :
    (mk a b c d e f g h i j k l m n o p q r s t u v w x).beat = y.beat := by subst hc; subst he; rfl

@[simp] theorem wr_beat (e : Engine) (k : Nat) (v : Word) : (e.wr k v).beat = e.beat := by
  unfold wr; simp
@[simp] theorem clearRegs_beat (e : Engine) (sel : Nat → Bool) : (e.clearRegs sel).beat = e.beat := by
  unfold clearRegs; simp
@[simp] theorem hwSet_beat (e : Engine) (k : Nat) (m : Word) : (e.hwSet k m).beat = e.beat := by
  unfold hwSet; simp
@[simp] theorem w1c_beat (e : Engine) (k : Nat) (m : Word) : (e.w1c k m).beat = e.beat := by
  unfold w1c; simp
@[simp] theorem hwUpd_beat (e : Engine) (k : Nat) (f : Word → Word) : (e.hwUpd k f).beat = e.beat := by
  unfold hwUpd; simp
@[simp] theorem count_beat (e : Engine) (k : Nat) : (e.count k).beat = e.beat := by
  unfold count; simp
@[simp] theorem countN_beat (e : Engine) (k n : Nat) : (e.countN k n).beat = e.beat := by
  unfold countN
  repeat' (first
    | (simp [-List.reduceReplicate]; done) | split
    | (refine (foldl_beat _ ?_ _ _).trans ?_ <;> intros) | (refine (foldl_beat1 _ ?_ _ _).trans ?_ <;> intros)
    | (dsimp only) | (simp only [beat_mk, beat_fold])
    | (rename_i h; replace h := congrArg (fun r => r.1.beat) h; simp [-List.reduceReplicate] at h; simp [h]; done))
@[simp] theorem rcClear_beat (e : Engine) (k : Nat) : (e.rcClear k).beat = e.beat := by
  unfold rcClear; split <;> simp
@[simp] theorem istat_beat (e : Engine) (page bits : Nat) : (e.istat page bits).beat = e.beat := by
  unfold istat; simp
@[simp] theorem estat_beat (e : Engine) (page bits : Nat) : (e.estat page bits).beat = e.beat := by
  unfold estat; simp
@[simp] theorem pushAt_beat (e : Engine) (source code prio arg time : Nat) :
    (e.pushAt source code prio arg time).beat = e.beat := by
  unfold pushAt; simp
@[simp] theorem push_beat (e : Engine) (source code prio arg : Nat) : (e.push source code prio arg).beat = e.beat := by
  unfold push; simp
@[simp] theorem pushIf_beat (e : Engine) (c : Bool) (source code prio arg : Nat) :
    (e.pushIf c source code prio arg).beat = e.beat := by
  unfold pushIf; split <;> simp
@[simp] theorem linkWake_beat (e : Engine) : e.linkWake.beat = e.beat := by
  unfold linkWake; split <;> simp
@[simp] theorem emit_beat (e : Engine) (t : Tx) : (e.emit t).beat = e.beat := by
  unfold emit; split <;> simp
@[simp] theorem send_beat (e : Engine) (t : Tx) : (e.send t).beat = e.beat := by
  unfold send; split <;> simp
@[simp] theorem setLane_beat (e : Engine) (m : Nat) (f : Lane → Lane) : (e.setLane m f).beat = e.beat := by
  unfold setLane; simp
@[simp] theorem setPod_beat (e : Engine) (n : Nat) (f : Pod → Pod) : (e.setPod n f).beat = e.beat := by
  unfold setPod; simp
@[simp] theorem setTin_beat (e : Engine) (i : Nat) (f : Tin → Tin) : (e.setTin i f).beat = e.beat := by
  unfold setTin; simp
@[simp] theorem setUnit_beat (e : Engine) (k : Nat) (f : DiffUnit → DiffUnit) : (e.setUnit k f).beat = e.beat := by
  unfold setUnit; simp
@[simp] theorem setStream_beat (e : Engine) (s : Nat) (f : Stream → Stream) : (e.setStream s f).beat = e.beat := by
  unfold setStream; simp
@[simp] theorem setMem_beat (e : Engine) (s : Nat) (f : MemStream → MemStream) : (e.setMem s f).beat = e.beat := by
  unfold setMem; simp
@[simp] theorem setEnt_beat (e : Engine) (i : Nat) (f : JobEnt → JobEnt) : (e.setEnt i f).beat = e.beat := by
  unfold setEnt; simp
@[simp] theorem setSlot_beat (e : Engine) (k : Nat) (f : JobSlot → JobSlot) : (e.setSlot k f).beat = e.beat := by
  unfold setSlot; simp
@[simp] theorem setPort_beat (e : Engine) (p : Nat) (f : PortSec → PortSec) : (e.setPort p f).beat = e.beat := by
  unfold setPort; simp
@[simp] theorem setLatch_beat (e : Engine) (p : Nat) (f : PortLatch → PortLatch) : (e.setLatch p f).beat = e.beat := by
  unfold setLatch; simp
@[simp] theorem setBlk_beat (e : Engine) (i : Nat) (f : BlkPwr → BlkPwr) : (e.setBlk i f).beat = e.beat := by
  unfold setBlk; simp
@[simp] theorem demand_beat (e : Engine) (i : Nat) : (e.demand i).beat = e.beat := by
  unfold demand
  repeat' (first
    | (simp [-List.reduceReplicate]; done) | split
    | (refine (foldl_beat _ ?_ _ _).trans ?_ <;> intros) | (refine (foldl_beat1 _ ?_ _ _).trans ?_ <;> intros)
    | (dsimp only) | (simp only [beat_mk, beat_fold])
    | (rename_i h; replace h := congrArg (fun r => r.1.beat) h; simp [-List.reduceReplicate] at h; simp [h]; done))
@[simp] theorem touchSess_beat (e : Engine) (p slot : Nat) : (e.touchSess p slot).beat = e.beat := by
  unfold touchSess; simp
@[simp] theorem guardReject_beat (e : Engine) (p page slotOff slot : Nat) :
    (e.guardReject p page slotOff slot).beat = e.beat := by
  unfold guardReject
  extract_lets t e1 e2 e3
  have h1 : e1.beat = e.beat := count_beat _ _
  clear_value e1
  have h2 : e2.beat = e.beat := (wr_beat _ _ _).trans h1
  clear_value e2
  have h3 : e3.beat = e.beat := (istat_beat _ _ _).trans h2
  clear_value e3
  split
  · exact h3
  · exact (mk_beat _ _ _ _ _ _ _ _ _ _ _ _ _ _ _ _ _ _ _ _ _ _ _ _ _ rfl rfl).trans ((pushIf_beat _ _ _ _ _ _).trans h3)
@[simp] theorem shoalErrors_beat (e : Engine) (reader : Nat) (bad : List (Nat × Ecc)) :
    (e.shoalErrors reader bad).beat = e.beat := by
  unfold shoalErrors
  repeat' (first
    | (simp [-List.reduceReplicate]; done) | split
    | (refine (foldl_beat _ ?_ _ _).trans ?_ <;> intros) | (refine (foldl_beat1 _ ?_ _ _).trans ?_ <;> intros)
    | (dsimp only) | (simp only [beat_mk, beat_fold])
    | (rename_i h; replace h := congrArg (fun r => r.1.beat) h; simp [-List.reduceReplicate] at h; simp [h]; done))
@[simp] theorem inCyc_beat (e : Engine) (s n : Nat) (f : CycAcc → CycAcc) : (e.inCyc s n f).beat = e.beat := by
  unfold inCyc; simp
@[simp] theorem inAll_beat (e : Engine) (n : Nat) (f : CycAcc → CycAcc) : (e.inAll n f).beat = e.beat := by
  unfold inAll
  repeat' (first
    | (simp [-List.reduceReplicate]; done) | split
    | (refine (foldl_beat _ ?_ _ _).trans ?_ <;> intros) | (refine (foldl_beat1 _ ?_ _ _).trans ?_ <;> intros)
    | (dsimp only) | (simp only [beat_mk, beat_fold])
    | (rename_i h; replace h := congrArg (fun r => r.1.beat) h; simp [-List.reduceReplicate] at h; simp [h]; done))
@[simp] theorem anchorAll_beat (e : Engine) (a : Nat) : (e.anchorAll a).beat = e.beat := by
  unfold anchorAll; simp
theorem sends_beat (l : List Tx) : ∀ e : Engine, (l.foldl send e).beat = e.beat := foldl_beat _ (fun _ _ => send_beat _ _) l
@[simp] theorem settle_beat (e : Engine) : e.settle.beat = e.beat := sends_beat e.spoken e
@[simp] theorem chanAdd_beat (e : Engine) (k : Nat) : (e.chanAdd k).beat = e.beat := by
  unfold chanAdd; simp
@[simp] theorem catchUp_beat (e : Engine) (k : Nat) : (e.catchUp k).beat = e.beat := by
  unfold catchUp
  repeat' (first
    | (simp [-List.reduceReplicate]; done) | split
    | (refine (foldl_beat _ ?_ _ _).trans ?_ <;> intros) | (refine (foldl_beat1 _ ?_ _ _).trans ?_ <;> intros)
    | (dsimp only) | (simp only [beat_mk, beat_fold])
    | (rename_i h; replace h := congrArg (fun r => r.1.beat) h; simp [-List.reduceReplicate] at h; simp [h]; done))
@[simp] theorem catchAll_beat (e : Engine) : e.catchAll.beat = e.beat := by
  unfold catchAll
  repeat' (first
    | (simp [-List.reduceReplicate]; done) | split
    | (refine (foldl_beat _ ?_ _ _).trans ?_ <;> intros) | (refine (foldl_beat1 _ ?_ _ _).trans ?_ <;> intros)
    | (dsimp only) | (simp only [beat_mk, beat_fold])
    | (rename_i h; replace h := congrArg (fun r => r.1.beat) h; simp [-List.reduceReplicate] at h; simp [h]; done))
@[simp] theorem enterHoldover_beat (e : Engine) : e.enterHoldover.beat = e.beat := by
  unfold enterHoldover; simp
@[simp] theorem refChange_beat (e : Engine) : e.refChange.beat = e.beat := by
  unfold refChange; split <;> simp
@[simp] theorem setSeen_beat (e : Engine) (n : Nat) (f : Seen → Seen) : (e.setSeen n f).beat = e.beat := by
  unfold setSeen; split <;> simp
@[simp] theorem setChan_beat (e : Engine) (m b : Nat) (f : ChanSt → ChanSt) : (e.setChan m b f).beat = e.beat := by
  unfold setChan; simp
@[simp] theorem vecs_beat (e : Engine) (m : Nat) : (e.vecs m).beat = e.beat := by
  unfold vecs; split <;> simp
@[simp] theorem chanMark_beat (e : Engine) (m b n : Nat) (opens ambig : Bool) :
    (e.chanMark m b n opens ambig).beat = e.beat := by
  unfold chanMark; simp
@[simp] theorem rangeExit_beat (e : Engine) (m b : Nat) : (e.rangeExit m b).beat = e.beat := by
  unfold rangeExit; simp
@[simp] theorem ambigEnd_beat (e : Engine) (m b : Nat) : (e.ambigEnd m b).beat = e.beat := by
  unfold ambigEnd; simp
@[simp] theorem closeConds_beat (e : Engine) (m : Nat) (rg am : Nat → Bool) : (e.closeConds m rg am).beat = e.beat := by
  unfold closeConds
  repeat' (first
    | (simp [-List.reduceReplicate]; done) | split
    | (refine (foldl_beat _ ?_ _ _).trans ?_ <;> intros) | (refine (foldl_beat1 _ ?_ _ _).trans ?_ <;> intros)
    | (dsimp only) | (simp only [beat_mk, beat_fold])
    | (rename_i h; replace h := congrArg (fun r => r.1.beat) h; simp [-List.reduceReplicate] at h; simp [h]; done))
@[simp] theorem feCommitted_beat (e : Engine) (m : Nat) : (e.feCommitted m).beat = e.beat := by
  unfold feCommitted; dsimp only; split <;> simp
@[simp] theorem setRail_beat (e : Engine) (r : Rail) (on : Bool) : (e.setRail r on).beat = e.beat := by
  unfold setRail; simp
@[simp] theorem railsStart_beat (e : Engine) (l : List RailStep) : (e.railsStart l).beat = e.beat := by
  unfold railsStart; split <;> simp
@[simp] theorem wakeBlk_beat (e : Engine) (i : Nat) : (e.wakeBlk i).beat = e.beat := by
  unfold wakeBlk; split <;> simp
@[simp] theorem powerUp_beat (e : Engine) (m : Mode) : (e.powerUp m).beat = e.beat := by
  unfold powerUp
  repeat' (first
    | (simp [-List.reduceReplicate]; done) | split
    | (refine (foldl_beat _ ?_ _ _).trans ?_ <;> intros) | (refine (foldl_beat1 _ ?_ _ _).trans ?_ <;> intros)
    | (dsimp only) | (simp only [beat_mk, beat_fold])
    | (rename_i h; replace h := congrArg (fun r => r.1.beat) h; simp [-List.reduceReplicate] at h; simp [h]; done))
@[simp] theorem powerEnter_beat (e : Engine) (m : Mode) : (e.powerEnter m).beat = e.beat := by
  unfold powerEnter
  repeat' (first
    | (simp [-List.reduceReplicate]; done) | split
    | (refine (foldl_beat _ ?_ _ _).trans ?_ <;> intros) | (refine (foldl_beat1 _ ?_ _ _).trans ?_ <;> intros)
    | (dsimp only) | (simp only [beat_mk, beat_fold])
    | (rename_i h; replace h := congrArg (fun r => r.1.beat) h; simp [-List.reduceReplicate] at h; simp [h]; done))
@[simp] theorem podAffect_beat (e : Engine) (n : Nat) : (e.podAffect n).beat = e.beat := by
  unfold podAffect; split <;> simp
@[simp] theorem entriesTo_beat (e : Engine) (n st : Nat) : (e.entriesTo n st).beat = e.beat := by
  unfold entriesTo; simp
@[simp] theorem censusTo_beat (e : Engine) (n st : Nat) : (e.censusTo n st).beat = e.beat := by
  unfold censusTo; simp
@[simp] theorem noGain_beat (e : Engine) (n : Nat) : (e.noGain n).beat = e.beat := by
  unfold noGain; simp
@[simp] theorem walkStale_beat (e : Engine) (w : Walk) : (e.walkStale w).beat = e.beat := by
  unfold walkStale
  repeat' (first
    | (simp [-List.reduceReplicate]; done) | split
    | (refine (foldl_beat _ ?_ _ _).trans ?_ <;> intros) | (refine (foldl_beat1 _ ?_ _ _).trans ?_ <;> intros)
    | (dsimp only) | (simp only [beat_mk, beat_fold])
    | (rename_i h; replace h := congrArg (fun r => r.1.beat) h; simp [-List.reduceReplicate] at h; simp [h]; done))
@[simp] theorem walkEnd_beat (e : Engine) (w : Walk) : (e.walkEnd w).beat = e.beat := by
  unfold walkEnd; simp
@[simp] theorem visit_beat (l : List Nat) : ∀ (e : Engine) (w : Walk), (e.visit w l).1.beat = e.beat := by
  induction l with
  | nil => intro e w; rfl
  | cons a t ih => intro e w; unfold visit; dsimp only; split; · rfl
                   · rw [ih]; simp
@[simp] theorem busStart_beat (e : Engine) : e.busStart.beat = e.beat := by
  unfold busStart
  repeat' (first
    | (simp [-List.reduceReplicate]; done) | split
    | (refine (foldl_beat _ ?_ _ _).trans ?_ <;> intros) | (refine (foldl_beat1 _ ?_ _ _).trans ?_ <;> intros)
    | (dsimp only) | (simp only [beat_mk, beat_fold])
    | (rename_i h; replace h := congrArg (fun r => r.1.beat) h; simp [-List.reduceReplicate] at h; simp [h]; done))
@[simp] theorem censusReq_beat (e : Engine) (mask : BitVec 4) : (e.censusReq mask).beat = e.beat := by
  unfold censusReq; split <;> (try split) <;> simp
@[simp] theorem podLast_beat (e : Engine) (kind n : Nat) : (e.podLast kind n).beat = e.beat := by
  unfold podLast; simp
@[simp] theorem podMark_beat (e : Engine) (n key arg : Nat) : (e.podMark n key arg).beat = e.beat := by
  unfold podMark; simp
@[simp] theorem idleNow_beat (e : Engine) (m : Nat) : (e.idleNow m).beat = e.beat := by
  unfold idleNow
  repeat' (first
    | (simp [-List.reduceReplicate]; done) | split
    | (refine (foldl_beat _ ?_ _ _).trans ?_ <;> intros) | (refine (foldl_beat1 _ ?_ _ _).trans ?_ <;> intros)
    | (dsimp only) | (simp only [beat_mk, beat_fold])
    | (rename_i h; replace h := congrArg (fun r => r.1.beat) h; simp [-List.reduceReplicate] at h; simp [h]; done))
@[simp] theorem podTo_beat (e : Engine) (n : Nat) (st : PodState) (cause : Nat) : (e.podTo n st cause).beat = e.beat := by
  unfold podTo
  dsimp only
  split
  · rw [idleNow_beat, podAffect_beat, podMark_beat, setPod_beat, closeConds_beat]
  · split
    · rw [podMark_beat, setLane_beat, setPod_beat]
    · rw [setPod_beat]
@[simp] theorem podOn_beat (e : Engine) (n : Nat) : (e.podOn n).beat = e.beat := by
  unfold podOn; split <;> simp
@[simp] theorem podOff_beat (e : Engine) (n : Nat) : (e.podOff n).beat = e.beat := by
  unfold podOff; split <;> simp
@[simp] theorem podCmd_beat (e : Engine) (v : Word) : (e.podCmd v).beat = e.beat := by
  unfold podCmd
  repeat' (first
    | (simp [-List.reduceReplicate]; done) | split
    | (refine (foldl_beat _ ?_ _ _).trans ?_ <;> intros) | (refine (foldl_beat1 _ ?_ _ _).trans ?_ <;> intros)
    | (dsimp only) | (simp only [beat_mk, beat_fold])
    | (rename_i h; replace h := congrArg (fun r => r.1.beat) h; simp [-List.reduceReplicate] at h; simp [h]; done))
@[simp] theorem podWake_beat (e : Engine) : e.podWake.beat = e.beat := by
  unfold podWake
  repeat' (first
    | (simp [-List.reduceReplicate]; done) | split
    | (refine (foldl_beat _ ?_ _ _).trans ?_ <;> intros) | (refine (foldl_beat1 _ ?_ _ _).trans ?_ <;> intros)
    | (dsimp only) | (simp only [beat_mk, beat_fold])
    | (rename_i h; replace h := congrArg (fun r => r.1.beat) h; simp [-List.reduceReplicate] at h; simp [h]; done))
@[simp] theorem pmeAttach_beat (e : Engine) : e.pmeAttach.beat = e.beat := by
  unfold pmeAttach
  repeat' (first
    | (simp [-List.reduceReplicate]; done) | split
    | (refine (foldl_beat _ ?_ _ _).trans ?_ <;> intros) | (refine (foldl_beat1 _ ?_ _ _).trans ?_ <;> intros)
    | (dsimp only) | (simp only [beat_mk, beat_fold])
    | (rename_i h; replace h := congrArg (fun r => r.1.beat) h; simp [-List.reduceReplicate] at h; simp [h]; done))
@[simp] theorem noResults_beat (e : Engine) (n : Nat) : (e.noResults n).beat = e.beat := by
  unfold noResults
  repeat' (first
    | (simp [-List.reduceReplicate]; done) | split
    | (refine (foldl_beat _ ?_ _ _).trans ?_ <;> intros) | (refine (foldl_beat1 _ ?_ _ _).trans ?_ <;> intros)
    | (dsimp only) | (simp only [beat_mk, beat_fold])
    | (rename_i h; replace h := congrArg (fun r => r.1.beat) h; simp [-List.reduceReplicate] at h; simp [h]; done))
@[simp] theorem podReport_beat (e : Engine) (n : Nat) (f : PodFlag) : (e.podReport n f).beat = e.beat := by
  unfold podReport
  repeat' (first
    | (simp [-List.reduceReplicate]; done) | split
    | (refine (foldl_beat _ ?_ _ _).trans ?_ <;> intros) | (refine (foldl_beat1 _ ?_ _ _).trans ?_ <;> intros)
    | (dsimp only) | (simp only [beat_mk, beat_fold])
    | (rename_i h; replace h := congrArg (fun r => r.1.beat) h; simp [-List.reduceReplicate] at h; simp [h]; done))
@[simp] theorem podReports_beat (e : Engine) : e.podReports.beat = e.beat := by
  unfold podReports
  repeat' (first
    | (simp [-List.reduceReplicate]; done) | split
    | (refine (foldl_beat _ ?_ _ _).trans ?_ <;> intros) | (refine (foldl_beat1 _ ?_ _ _).trans ?_ <;> intros)
    | (dsimp only) | (simp only [beat_mk, beat_fold])
    | (rename_i h; replace h := congrArg (fun r => r.1.beat) h; simp [-List.reduceReplicate] at h; simp [h]; done))
@[simp] theorem podBoundary_beat (e : Engine) : e.podBoundary.beat = e.beat :=
  (mk_beat (y := e.podReports) (hc := rfl) (he := rfl) ..).trans (podReports_beat e)
@[simp] theorem tinSync_beat (e : Engine) : e.tinSync.beat = e.beat := by
  unfold tinSync
  repeat' (first
    | (simp [-List.reduceReplicate]; done) | split
    | (refine (foldl_beat _ ?_ _ _).trans ?_ <;> intros) | (refine (foldl_beat1 _ ?_ _ _).trans ?_ <;> intros)
    | (dsimp only) | (simp only [beat_mk, beat_fold])
    | (rename_i h; replace h := congrArg (fun r => r.1.beat) h; simp [-List.reduceReplicate] at h; simp [h]; done))
@[simp] theorem unitResult_beat (e : Engine) (r : DiffRes) : (e.unitResult r).beat = e.beat := by
  unfold unitResult
  repeat' (first
    | (simp [-List.reduceReplicate]; done) | split
    | (refine (foldl_beat _ ?_ _ _).trans ?_ <;> intros) | (refine (foldl_beat1 _ ?_ _ _).trans ?_ <;> intros)
    | (dsimp only) | (simp only [beat_mk, beat_fold])
    | (rename_i h; replace h := congrArg (fun r => r.1.beat) h; simp [-List.reduceReplicate] at h; simp [h]; done))
@[simp] theorem twSettle_beat (e : Engine) : e.twSettle.beat = e.beat := by
  unfold twSettle
  repeat' (first
    | (simp [-List.reduceReplicate]; done) | split
    | (refine (foldl_beat _ ?_ _ _).trans ?_ <;> intros) | (refine (foldl_beat1 _ ?_ _ _).trans ?_ <;> intros)
    | (dsimp only) | (simp only [beat_mk, beat_fold])
    | (rename_i h; replace h := congrArg (fun r => r.1.beat) h; simp [-List.reduceReplicate] at h; simp [h]; done))
@[simp] theorem dropStarts_beat (e : Engine) : e.dropStarts.beat = e.beat := by
  unfold dropStarts; simp
@[simp] theorem tdcSnap_beat (e : Engine) : e.tdcSnap.beat = e.beat := by
  unfold tdcSnap; simp
@[simp] theorem tdcLost_beat (e : Engine) : e.tdcLost.beat = e.beat := by
  unfold tdcLost
  repeat' (first
    | (simp [-List.reduceReplicate]; done) | split
    | (refine (foldl_beat _ ?_ _ _).trans ?_ <;> intros) | (refine (foldl_beat1 _ ?_ _ _).trans ?_ <;> intros)
    | (dsimp only) | (simp only [beat_mk, beat_fold])
    | (rename_i h; replace h := congrArg (fun r => r.1.beat) h; simp [-List.reduceReplicate] at h; simp [h]; done))
@[simp] theorem buildTable_beat (e : Engine) (i n : Nat) : (e.buildTable i n).beat = e.beat := by
  unfold buildTable
  repeat' (first
    | (simp [-List.reduceReplicate]; done) | split
    | (refine (foldl_beat _ ?_ _ _).trans ?_ <;> intros) | (refine (foldl_beat1 _ ?_ _ _).trans ?_ <;> intros)
    | (dsimp only) | (simp only [beat_mk, beat_fold])
    | (rename_i h; replace h := congrArg (fun r => r.1.beat) h; simp [-List.reduceReplicate] at h; simp [h]; done))
@[simp] theorem foldAll_beat (e : Engine) (hits : List CalHit) : (e.foldAll hits).beat = e.beat := by
  unfold foldAll; simp
@[simp] theorem calFold_beat (e : Engine) (hits : List CalHit) : (e.calFold hits).beat = e.beat := by
  unfold calFold
  repeat' (first
    | (simp [-List.reduceReplicate]; done) | split
    | (refine (foldl_beat _ ?_ _ _).trans ?_ <;> intros) | (refine (foldl_beat1 _ ?_ _ _).trans ?_ <;> intros)
    | (dsimp only) | (simp only [beat_mk, beat_fold])
    | (rename_i h; replace h := congrArg (fun r => r.1.beat) h; simp [-List.reduceReplicate] at h; simp [h]; done))
@[simp] theorem tablesReset_beat (e : Engine) : e.tablesReset.beat = e.beat := by
  unfold tablesReset; simp [-List.reduceReplicate]
@[simp] theorem injectEnd_beat (e : Engine) : e.injectEnd.beat = e.beat := by
  unfold injectEnd; simp
@[simp] theorem inject_beat (e : Engine) (kind : Nat) : (e.inject kind).1.beat = e.beat := by
  unfold inject
  repeat' (first
    | (simp [-List.reduceReplicate]; done) | split
    | (refine (foldl_beat _ ?_ _ _).trans ?_ <;> intros) | (refine (foldl_beat1 _ ?_ _ _).trans ?_ <;> intros)
    | (dsimp only) | (simp only [beat_mk, beat_fold])
    | (rename_i h; replace h := congrArg (fun r => r.1.beat) h; simp [-List.reduceReplicate] at h; simp [h]; done))
@[simp] theorem injectArm_beat (e : Engine) : e.injectArm.beat = e.beat := by
  unfold injectArm; simp
@[simp] theorem injectStop_beat (e : Engine) : e.injectStop.beat = e.beat := by
  unfold injectStop; simp
@[simp] theorem closeLive_beat (e : Engine) (b : Block) : (e.closeLive b).beat = e.beat := by
  unfold closeLive; dsimp only; split <;> simp
@[simp] theorem closeOpen_beat (e : Engine) (s : Nat) (stop : Option Nat) (leave : Bool) :
    (e.closeOpen s stop leave).beat = e.beat := by
  unfold closeOpen
  repeat' (first
    | (simp [-List.reduceReplicate]; done) | split
    | (refine (foldl_beat _ ?_ _ _).trans ?_ <;> intros) | (refine (foldl_beat1 _ ?_ _ _).trans ?_ <;> intros)
    | (dsimp only) | (simp only [beat_mk, beat_fold])
    | (rename_i h; replace h := congrArg (fun r => r.1.beat) h; simp [-List.reduceReplicate] at h; simp [h]; done))
@[simp] theorem carryOn_beat (e : Engine) (s : Nat) (c : CycAcc) (f : CycAcc → CycAcc) :
    (e.carryOn s c f).beat = e.beat := by
  unfold carryOn; simp
@[simp] theorem carryMarks_beat (e : Engine) (s : Nat) (c : CycAcc) : (e.carryMarks s c).beat = e.beat := by
  unfold carryMarks; simp
@[simp] theorem discard_beat (e : Engine) (s : Nat) : (e.discard s).beat = e.beat := by
  unfold discard; simp
@[simp] theorem accept_beat (e : Engine) (s : Nat) (c : CycAcc) (f : Formed) (opens : Bool) :
    (e.accept s c f opens).beat = e.beat := by
  unfold accept
  extract_lets st live b fill e1 r e2
  have h1 : e1.beat = e.beat := setStream_beat _ _ _
  have h2 : e2.beat = e.beat := by
    simp only [e2]; split
    · exact h1
    · exact (mk_beat (y := e1) (hc := rfl) (he := rfl) ..).trans h1
  clear_value e2
  split
  · rw [closeOpen_beat, setStream_beat, h2]
  · exact h2
@[simp] theorem format_beat (e : Engine) (s : Nat) (c : CycAcc) : (e.format s c).beat = e.beat := by
  unfold format
  extract_lets e1 usable
  have h1 : e1.beat = e.beat := by simp only [e1]; split <;> simp
  clear_value e1
  split
  · rw [carryMarks_beat, h1]
  · rename_i c' st owed due f0 fits e2 f e3 left src e4 wait hu
    have h2 : e2.beat = e.beat := by simp only [e2]; split <;> simp [h1]
    clear_value e2
    have h3 : e3.beat = e.beat := (accept_beat _ _ _ _ _).trans h2
    clear_value e3
    have h4 : e4.beat = e.beat := by
      simp only [e4]; split
      · exact (beat_mk _ _ _ _ _ _ _ _ _ _ _ _ _ _ _ _ _ _ _ _ _ _ _ _).trans h3
      · exact h3
    clear_value e4
    split
    · rw [setStream_beat, h1]
    · split
      · rw [discard_beat, h1]
      · split
        · rw [discard_beat, h2]
        · split
          · rw [carryOn_beat, h4]
          · exact h4
@[simp] theorem formatUpto_beat (s n fuel : Nat) : ∀ e : Engine, (e.formatUpto s n fuel).beat = e.beat := by
  induction fuel with
  | zero => intro e; rfl
  | succ k ih =>
    intro e
    unfold formatUpto
    split
    · split
      · rw [ih, format_beat, setStream_beat]
      · rfl
    · rfl
@[simp] theorem formatAll_beat (e : Engine) (n : Nat) : (e.formatAll n).beat = e.beat := by
  unfold formatAll
  repeat' (first
    | (simp [-List.reduceReplicate]; done) | split
    | (refine (foldl_beat _ ?_ _ _).trans ?_ <;> intros) | (refine (foldl_beat1 _ ?_ _ _).trans ?_ <;> intros)
    | (dsimp only) | (simp only [beat_mk, beat_fold])
    | (rename_i h; replace h := congrArg (fun r => r.1.beat) h; simp [-List.reduceReplicate] at h; simp [h]; done))
@[simp] theorem shared_beat (e : Engine) (used : List Nat) : (e.shared used).1.beat = e.beat := by
  unfold shared; split <;> simp
@[simp] theorem serve_beat (e : Engine) : e.serve.beat = e.beat := by
  unfold serve
  repeat' (first
    | (simp [-List.reduceReplicate]; done) | split
    | (refine (foldl_beat _ ?_ _ _).trans ?_ <;> intros) | (refine (foldl_beat1 _ ?_ _ _).trans ?_ <;> intros)
    | (dsimp only) | (simp only [beat_mk, beat_fold])
    | (rename_i h; replace h := congrArg (fun r => r.1.beat) h; simp [-List.reduceReplicate] at h; simp [h]; done))
@[simp] theorem streamStart_beat (e : Engine) (s : Nat) (on run : Bool) : (e.streamStart s on run).beat = e.beat := by
  unfold streamStart; simp
@[simp] theorem takeParams_beat (e : Engine) : e.takeParams.beat = e.beat := by
  unfold takeParams; simp
@[simp] theorem measLive_beat (e : Engine) : e.measLive.beat = e.beat := by
  unfold measLive
  repeat' (first
    | (simp [-List.reduceReplicate]; done) | split
    | (refine (foldl_beat _ ?_ _ _).trans ?_ <;> intros) | (refine (foldl_beat1 _ ?_ _ _).trans ?_ <;> intros)
    | (dsimp only) | (simp only [beat_mk, beat_fold])
    | (rename_i h; replace h := congrArg (fun r => r.1.beat) h; simp [-List.reduceReplicate] at h; simp [h]; done))
@[simp] theorem stopStream_beat (e : Engine) (s n cause : Nat) : (e.stopStream s n cause).beat = e.beat := by
  unfold stopStream; split <;> simp
@[simp] theorem recUser_beat (e : Engine) (p : Nat) (streams arg : Nat) : (e.recUser p streams arg).beat = e.beat := by
  unfold recUser; dsimp only; split <;> simp
@[simp] theorem placeUsers_beat (e : Engine) : e.placeUsers.beat = e.beat := by
  unfold placeUsers
  repeat' (first
    | (simp [-List.reduceReplicate]; done) | split
    | (refine (foldl_beat _ ?_ _ _).trans ?_ <;> intros) | (refine (foldl_beat1 _ ?_ _ _).trans ?_ <;> intros)
    | (dsimp only) | (simp only [beat_mk, beat_fold])
    | (rename_i h; replace h := congrArg (fun r => r.1.beat) h; simp [-List.reduceReplicate] at h; simp [h]; done))
@[simp] theorem pulse_beat (e : Engine) : e.pulse.beat = e.beat := by
  unfold pulse; simp
@[simp] theorem tmRestart_beat (e : Engine) (k : Nat) (c : Int) : (e.tmRestart k c).beat = e.beat := by
  unfold tmRestart; simp
@[simp] theorem protect_beat (e : Engine) (t : Time) : (e.protect t).beat = e.beat := by
  unfold protect
  repeat' (first
    | (simp [-List.reduceReplicate]; done) | split
    | (refine (foldl_beat _ ?_ _ _).trans ?_ <;> intros) | (refine (foldl_beat1 _ ?_ _ _).trans ?_ <;> intros)
    | (dsimp only) | (simp only [beat_mk, beat_fold])
    | (rename_i h; replace h := congrArg (fun r => r.1.beat) h; simp [-List.reduceReplicate] at h; simp [h]; done))
@[simp] theorem trigger_beat (e : Engine) (c : Nat) (forced : Bool) (br sub : Nat) :
    (e.trigger c forced br sub).beat = e.beat := by
  unfold trigger
  repeat' (first
    | (simp [-List.reduceReplicate]; done) | split
    | (refine (foldl_beat _ ?_ _ _).trans ?_ <;> intros) | (refine (foldl_beat1 _ ?_ _ _).trans ?_ <;> intros)
    | (dsimp only) | (simp only [beat_mk, beat_fold])
    | (rename_i h; replace h := congrArg (fun r => r.1.beat) h; simp [-List.reduceReplicate] at h; simp [h]; done))
@[simp] theorem seqStart_beat (e : Engine) (arm : Nat) : (e.seqStart arm).beat = e.beat := by
  unfold seqStart; dsimp only; split <;> simp
@[simp] theorem seqStop_beat (e : Engine) : e.seqStop.beat = e.beat := by
  unfold seqStop; simp
@[simp] theorem trigIn_beat (e : Engine) (level : Bool) : (e.trigIn level).beat = e.beat := by
  unfold trigIn; simp
@[simp] theorem injectWords_beat (e : Engine) (w lo hi : Nat) : (e.injectWords w lo hi).1.beat = e.beat := by
  unfold injectWords
  split
  · rw [foldl_beat1]
    intro a x
    dsimp only
    split
    · rename_i h
      have h := congrArg (fun r => r.1.beat) h
      simp only [inject_beat] at h
      split <;> exact h.symm
    · rename_i h
      have h := congrArg (fun r => r.1.beat) h
      simp only [inject_beat] at h
      exact h.symm
  · rfl
@[simp] theorem arrived_beat (e : Engine) (b : Block) (isOpen placed : Bool) :
    (e.arrived b isOpen placed).beat = e.beat := by
  unfold arrived; split <;> simp
@[simp] theorem setSBlk_beat (e : Engine) (i : Nat) (f : SBlk → SBlk) : (e.setSBlk i f).beat = e.beat := by
  unfold setSBlk; simp
@[simp] theorem liveWords_beat (e : Engine) : e.liveWords.beat = e.beat := by
  unfold liveWords
  repeat' (first
    | (simp [-List.reduceReplicate]; done) | split
    | (refine (foldl_beat _ ?_ _ _).trans ?_ <;> intros) | (refine (foldl_beat1 _ ?_ _ _).trans ?_ <;> intros)
    | (dsimp only) | (simp only [beat_mk, beat_fold])
    | (rename_i h; replace h := congrArg (fun r => r.1.beat) h; simp [-List.reduceReplicate] at h; simp [h]; done))
@[simp] theorem setLink_beat (e : Engine) (s : Bool) (f : HingeLink → HingeLink) : (e.setLink s f).beat = e.beat := by
  unfold setLink; split <;> simp
@[simp] theorem linkLast_beat (e : Engine) (s : Bool) (kind seq : Nat) : (e.linkLast s kind seq).beat = e.beat := by
  unfold linkLast; simp
@[simp] theorem setEnd_beat (e : Engine) (s h : Bool) (f : LinkEnd → LinkEnd) : (e.setEnd s h f).beat = e.beat := by
  unfold setEnd; simp
@[simp] theorem linkFlush_beat (e : Engine) (s h : Bool) : (e.linkFlush s h).beat = e.beat := by
  unfold linkFlush; split <;> simp
@[simp] theorem linkPut_beat (e : Engine) (s h : Bool) (o : Option HingeOp) : (e.linkPut s h o).beat = e.beat := by
  unfold linkPut; split <;> simp
@[simp] theorem linkSend_beat (e : Engine) (s : Bool) : (e.linkSend s).beat = e.beat := by
  unfold linkSend; simp
@[simp] theorem retrain_beat (e : Engine) (s : Bool) : (e.retrain s).beat = e.beat := by
  unfold retrain; split <;> simp
@[simp] theorem retrainCmd_beat (e : Engine) (s : Bool) : (e.retrainCmd s).beat = e.beat := by
  unfold retrainCmd; split <;> simp
@[simp] theorem memStart_beat (e : Engine) (rec : Nat → Bool) : (e.memStart rec).beat = e.beat := by
  unfold memStart; simp
@[simp] theorem injectShoal_beat (e : Engine) (word n hdr : Nat) : (e.injectShoal word n hdr).1.beat = e.beat := by
  unfold injectShoal
  repeat' (first
    | (simp [-List.reduceReplicate]; done) | split
    | (refine (foldl_beat _ ?_ _ _).trans ?_ <;> intros) | (refine (foldl_beat1 _ ?_ _ _).trans ?_ <;> intros)
    | (dsimp only) | (simp only [beat_mk, beat_fold])
    | (rename_i h; replace h := congrArg (fun r => r.1.beat) h; simp [-List.reduceReplicate] at h; simp [h]; done))
@[simp] theorem runEnd_beat (e : Engine) : e.runEnd.beat = e.beat := by
  unfold runEnd
  have h1 : ((List.range 5).foldl (fun e s =>
    if (e.memS s).writing && e.streamDone s then e.setMem s fun m => { m with writing := false } else e) e).beat = e.beat := by
    refine foldl_beat _ ?_ _ _
    intro e x; split
    · exact setMem_beat _ _ _
    · rfl
  dsimp only
  split
  · rw [push_beat, istat_beat]; exact (mk_beat _ _ _ _ _ _ _ _ _ _ _ _ _ _ _ _ _ _ _ _ _ _ _ _ _ rfl rfl).trans h1
  · exact (mk_beat _ _ _ _ _ _ _ _ _ _ _ _ _ _ _ _ _ _ _ _ _ _ _ _ _ rfl rfl).trans h1
@[simp] theorem headerLog_beat (e : Engine) (fn : Nat) : (e.headerLog fn).beat = e.beat := by
  unfold headerLog
  exact (mk_beat (y := _) (hc := rfl) (he := rfl) ..).trans (foldl_beat _ (fun e x => wr_beat _ _ _) _ _)
@[simp] theorem aer_beat (e : Engine) (fn : Nat) (x : PciErr) (advisory : Bool) : (e.aer fn x advisory).beat = e.beat := by
  unfold aer
  extract_lets b fatal masked first e1 e2 e3 e4 e5 e6 e7 e8
  have h1 : e1.beat = e.beat := hwSet_beat _ _ _
  clear_value e1
  have h2 : e2.beat = e.beat := by simp only [e2]; split <;> simp [h1]
  clear_value e2
  have h3 : e3.beat = e.beat := by simp only [e3]; split <;> simp [h2]
  clear_value e3
  have h4 : e4.beat = e.beat := by simp only [e4]; split <;> simp [h3]
  clear_value e4
  split
  · have h5 : e5.beat = e.beat := by simp only [e5]; simp [h4]
    clear_value e5
    have h6 : e6.beat = e.beat := by simp only [e6]; simp [h5]
    clear_value e6
    split <;> simp [h6]
  · have h7 : e7.beat = e.beat := (hwSet_beat _ _ _).trans h4
    clear_value e7
    have h8 : e8.beat = e.beat := by simp only [e8]; split <;> simp [h7]
    clear_value e8
    exact (apply_ite beat _ _ _).trans (by rw [send_beat, h8, ite_self])
@[simp] theorem lastErr_beat (e : Engine) (fn : Nat) (x : PciErr) : (e.lastErr fn x).beat = e.beat := by
  unfold lastErr; rw [istat_beat, beat_mk]; rfl
@[simp] theorem breakwater_beat (e : Engine) (x : PciErr) : (e.breakwater x).beat = e.beat := by
  unfold breakwater
  repeat' (first
    | (simp [-List.reduceReplicate]; done) | split
    | (refine (foldl_beat _ ?_ _ _).trans ?_ <;> intros) | (refine (foldl_beat1 _ ?_ _ _).trans ?_ <;> intros)
    | (dsimp only) | (simp only [beat_mk, beat_fold])
    | (rename_i h; replace h := congrArg (fun r => r.1.beat) h; simp [-List.reduceReplicate] at h; simp [h]; done))
@[simp] theorem hostErr_beat (e : Engine) (fn : Nat) (x : PciErr) (advisory : Bool) :
    (e.hostErr fn x advisory).beat = e.beat := by
  unfold hostErr
  repeat' (first
    | (simp [-List.reduceReplicate]; done) | split
    | (refine (foldl_beat _ ?_ _ _).trans ?_ <;> intros) | (refine (foldl_beat1 _ ?_ _ _).trans ?_ <;> intros)
    | (dsimp only) | (simp only [beat_mk, beat_fold])
    | (rename_i h; replace h := congrArg (fun r => r.1.beat) h; simp [-List.reduceReplicate] at h; simp [h]; done))
@[simp] theorem endJob_beat (e : Engine) (ring status cause : Nat) : (e.endJob ring status cause).beat = e.beat := by
  unfold endJob; simp
@[simp] theorem issue_beat (e : Engine) (w : OutWr) : (e.issue w).beat = e.beat := by
  unfold issue; split <;> simp
@[simp] theorem drainOut_beat (e : Engine) : e.drainOut.beat = e.beat := by
  unfold drainOut
  repeat' (first
    | (simp [-List.reduceReplicate]; done) | split
    | (refine (foldl_beat _ ?_ _ _).trans ?_ <;> intros) | (refine (foldl_beat1 _ ?_ _ _).trans ?_ <;> intros)
    | (dsimp only) | (simp only [beat_mk, beat_fold])
    | (rename_i h; replace h := congrArg (fun r => r.1.beat) h; simp [-List.reduceReplicate] at h; simp [h]; done))
@[simp] theorem cutJob_beat (e : Engine) (ring status cause : Nat) : (e.cutJob ring status cause).beat = e.beat := by
  unfold cutJob
  split
  · rfl
  · rw [endJob_beat, drainOut_beat]
    exact mk_beat (y := e) (hc := rfl) (he := rfl) ..
@[simp] theorem jobWrite_beat (e : Engine) (ring off : Nat) (bs : List Byte) : (e.jobWrite ring off bs).beat = e.beat := by
  unfold jobWrite; simp
@[simp] theorem tailCommit_beat (e : Engine) (v : Nat) : (e.tailCommit v).beat = e.beat := by
  unfold tailCommit
  dsimp only
  split
  · simp only [istat_beat, estat_beat, wr_beat]
  · rw [demand_beat, beat_mk]
    exact foldl_beat _ (fun e x => setEnt_beat _ _ _) _ _
@[simp] theorem cancelCommit_beat (e : Engine) (i : Nat) : (e.cancelCommit i).beat = e.beat := by
  unfold cancelCommit
  repeat' (first
    | (simp [-List.reduceReplicate]; done) | split
    | (refine (foldl_beat _ ?_ _ _).trans ?_ <;> intros) | (refine (foldl_beat1 _ ?_ _ _).trans ?_ <;> intros)
    | (dsimp only) | (simp only [beat_mk, beat_fold])
    | (rename_i h; replace h := congrArg (fun r => r.1.beat) h; simp [-List.reduceReplicate] at h; simp [h]; done))
@[simp] theorem fetch_beat (fuel : Nat) : ∀ (room : Nat) (e : Engine), (e.fetch fuel room).beat = e.beat := by
  induction fuel with
  | zero => intro r e; rfl
  | succ k ih =>
    intro r e
    unfold fetch
    split
    · rfl
    · dsimp only
      split
      · rfl
      · split
        · rfl
        · rw [ih, foldl_beat]
          · rw [beat_mk]; simp only [beat_fold, send_beat]
          · intro e x; exact setEnt_beat _ _ _
@[simp] theorem activate_beat (e : Engine) (ring k : Nat) : (e.activate ring k).beat = e.beat := by
  unfold activate
  repeat' (first
    | (simp [-List.reduceReplicate]; done) | split
    | (refine (foldl_beat _ ?_ _ _).trans ?_ <;> intros) | (refine (foldl_beat1 _ ?_ _ _).trans ?_ <;> intros)
    | (dsimp only) | (simp only [beat_mk, beat_fold])
    | (rename_i h; replace h := congrArg (fun r => r.1.beat) h; simp [-List.reduceReplicate] at h; simp [h]; done))
@[simp] theorem activateAll_beat (e : Engine) : e.activateAll.beat = e.beat := by
  unfold activateAll
  repeat' (first
    | (simp [-List.reduceReplicate]; done) | split
    | (refine (foldl_beat _ ?_ _ _).trans ?_ <;> intros) | (refine (foldl_beat1 _ ?_ _ _).trans ?_ <;> intros)
    | (dsimp only) | (simp only [beat_mk, beat_fold])
    | (rename_i h; replace h := congrArg (fun r => r.1.beat) h; simp [-List.reduceReplicate] at h; simp [h]; done))
@[simp] theorem jobTide_beat (e : Engine) : e.jobTide.beat = e.beat := by
  unfold jobTide; split <;> (try split) <;> simp
@[simp] theorem stallTide_beat (e : Engine) : e.stallTide.beat = e.beat := by
  unfold stallTide
  repeat' (first
    | (simp [-List.reduceReplicate]; done) | split
    | (refine (foldl_beat _ ?_ _ _).trans ?_ <;> intros) | (refine (foldl_beat1 _ ?_ _ _).trans ?_ <;> intros)
    | (dsimp only) | (simp only [beat_mk, beat_fold])
    | (rename_i h; replace h := congrArg (fun r => r.1.beat) h; simp [-List.reduceReplicate] at h; simp [h]; done))
@[simp] theorem entryFails_beat (e : Engine) (r : JobRead) (i cause : Nat) : (e.entryFails r i cause).beat = e.beat := by
  unfold entryFails
  repeat' (first
    | (simp [-List.reduceReplicate]; done) | split
    | (refine (foldl_beat _ ?_ _ _).trans ?_ <;> intros) | (refine (foldl_beat1 _ ?_ _ _).trans ?_ <;> intros)
    | (dsimp only) | (simp only [beat_mk, beat_fold])
    | (rename_i h; replace h := congrArg (fun r => r.1.beat) h; simp [-List.reduceReplicate] at h; simp [h]; done))
@[simp] theorem readOver_beat (e : Engine) (r : JobRead) : (e.readOver r).beat = e.beat := by
  unfold readOver
  repeat' (first
    | (simp [-List.reduceReplicate]; done) | split
    | (refine (foldl_beat _ ?_ _ _).trans ?_ <;> intros) | (refine (foldl_beat1 _ ?_ _ _).trans ?_ <;> intros)
    | (dsimp only) | (simp only [beat_mk, beat_fold])
    | (rename_i h; replace h := congrArg (fun r => r.1.beat) h; simp [-List.reduceReplicate] at h; simp [h]; done))
@[simp] theorem fetchErr_beat (e : Engine) (r : JobRead) (cause : Nat) : (e.fetchErr r cause).beat = e.beat := by
  unfold fetchErr
  repeat' (first
    | (simp [-List.reduceReplicate]; done) | split
    | (refine (foldl_beat _ ?_ _ _).trans ?_ <;> intros) | (refine (foldl_beat1 _ ?_ _ _).trans ?_ <;> intros)
    | (dsimp only) | (simp only [beat_mk, beat_fold])
    | (rename_i h; replace h := congrArg (fun r => r.1.beat) h; simp [-List.reduceReplicate] at h; simp [h]; done))
@[simp] theorem fetched_beat (e : Engine) (r : JobRead) : (e.fetched r).beat = e.beat := by
  unfold fetched
  repeat' (first
    | (simp [-List.reduceReplicate]; done) | split
    | (refine (foldl_beat _ ?_ _ _).trans ?_ <;> intros) | (refine (foldl_beat1 _ ?_ _ _).trans ?_ <;> intros)
    | (dsimp only) | (simp only [beat_mk, beat_fold])
    | (rename_i h; replace h := congrArg (fun r => r.1.beat) h; simp [-List.reduceReplicate] at h; simp [h]; done))
@[simp] theorem poisonedCpl_beat (e : Engine) : e.poisonedCpl.beat = e.beat := by
  unfold poisonedCpl
  repeat' (first
    | (simp [-List.reduceReplicate]; done) | split
    | (refine (foldl_beat _ ?_ _ _).trans ?_ <;> intros) | (refine (foldl_beat1 _ ?_ _ _).trans ?_ <;> intros)
    | (dsimp only) | (simp only [beat_mk, beat_fold])
    | (rename_i h; replace h := congrArg (fun r => r.1.beat) h; simp [-List.reduceReplicate] at h; simp [h]; done))
@[simp] theorem completion_beat (e : Engine) (tag : Nat) (status : CplStatus) (poisoned : Bool) (data : List Word) :
    (e.completion tag status poisoned data).beat = e.beat := by
  unfold completion
  repeat' (first
    | (simp [-List.reduceReplicate]; done) | split
    | (refine (foldl_beat _ ?_ _ _).trans ?_ <;> intros) | (refine (foldl_beat1 _ ?_ _ _).trans ?_ <;> intros)
    | (dsimp only) | (simp only [beat_mk, beat_fold])
    | (rename_i h; replace h := congrArg (fun r => r.1.beat) h; simp [-List.reduceReplicate] at h; simp [h]; done))
@[simp] theorem released_beat (e : Engine) : e.released.beat = e.beat := by
  unfold released; split <;> simp
@[simp] theorem countEnded_beat (e : Engine) : e.countEnded.beat = e.beat := by
  unfold countEnded
  repeat' (first
    | (simp [-List.reduceReplicate]; done) | split
    | (refine (foldl_beat _ ?_ _ _).trans ?_ <;> intros) | (refine (foldl_beat1 _ ?_ _ _).trans ?_ <;> intros)
    | (dsimp only) | (simp only [beat_mk, beat_fold])
    | (rename_i h; replace h := congrArg (fun r => r.1.beat) h; simp [-List.reduceReplicate] at h; simp [h]; done))
@[simp] theorem bwRelease_beat (e : Engine) : e.bwRelease.beat = e.beat := by
  unfold bwRelease
  split
  · rfl
  · rw [released_beat, foldl_beat _ (fun e x => fetchErr_beat _ _ _)]
    refine (mk_beat (y := drainOut _) (hc := rfl) (he := rfl) ..).trans ?_
    rw [drainOut_beat]
    refine (foldl_beat _ ?_ _ _).trans (mk_beat _ _ _ _ _ _ _ _ _ _ _ _ _ _ _ _ _ _ _ _ _ _ _ _ _ rfl rfl)
    intro e x
    rw [setEnt_beat]; exact (mk_beat _ _ _ _ _ _ _ _ _ _ _ _ _ _ _ _ _ _ _ _ _ _ _ _ _ rfl rfl)
@[simp] theorem liveEnds_beat (e : Engine) (k : Nat) (last : Bool) : (e.liveEnds k last).beat = e.beat := by
  unfold liveEnds; split <;> simp
@[simp] theorem routeStep_beat (e : Engine) : e.routeStep.beat = e.beat := by
  unfold routeStep
  repeat' (first
    | (simp [-List.reduceReplicate]; done) | split
    | (refine (foldl_beat _ ?_ _ _).trans ?_ <;> intros) | (refine (foldl_beat1 _ ?_ _ _).trans ?_ <;> intros)
    | (dsimp only) | (simp only [beat_mk, beat_fold])
    | (rename_i h; replace h := congrArg (fun r => r.1.beat) h; simp [-List.reduceReplicate] at h; simp [h]; done))
@[simp] theorem soleEnd_beat (e : Engine) : e.soleEnd.beat = e.beat := by
  unfold soleEnd
  repeat' (first
    | (simp [-List.reduceReplicate]; done) | split
    | (refine (foldl_beat _ ?_ _ _).trans ?_ <;> intros) | (refine (foldl_beat1 _ ?_ _ _).trans ?_ <;> intros)
    | (dsimp only) | (simp only [beat_mk, beat_fold])
    | (rename_i h; replace h := congrArg (fun r => r.1.beat) h; simp [-List.reduceReplicate] at h; simp [h]; done))
@[simp] theorem liveDone_beat (e : Engine) (k : Nat) (b : SBlk) (bytes : List Byte) (w : Nat) :
    (e.liveDone k b bytes w).beat = e.beat := by
  unfold liveDone; dsimp only; split <;> simp
@[simp] theorem dropRest_beat (e : Engine) : e.dropRest.beat = e.beat := by
  unfold dropRest
  repeat' (first
    | (simp [-List.reduceReplicate]; done) | split
    | (refine (foldl_beat _ ?_ _ _).trans ?_ <;> intros) | (refine (foldl_beat1 _ ?_ _ _).trans ?_ <;> intros)
    | (dsimp only) | (simp only [beat_mk, beat_fold])
    | (rename_i h; replace h := congrArg (fun r => r.1.beat) h; simp [-List.reduceReplicate] at h; simp [h]; done))
@[simp] theorem overwrite_beat (e : Engine) (rec : Nat → Bool) : (e.overwrite rec).beat = e.beat := by
  unfold overwrite
  repeat' (first
    | (simp [-List.reduceReplicate]; done) | split
    | (refine (foldl_beat _ ?_ _ _).trans ?_ <;> intros) | (refine (foldl_beat1 _ ?_ _ _).trans ?_ <;> intros)
    | (dsimp only) | (simp only [beat_mk, beat_fold])
    | (rename_i h; replace h := congrArg (fun r => r.1.beat) h; simp [-List.reduceReplicate] at h; simp [h]; done))
@[simp] theorem overtake_beat (e : Engine) (rec : Nat → Bool) : (e.overtake rec).beat = e.beat := by
  unfold overtake
  repeat' (first
    | (simp [-List.reduceReplicate]; done) | split
    | (refine (foldl_beat _ ?_ _ _).trans ?_ <;> intros) | (refine (foldl_beat1 _ ?_ _ _).trans ?_ <;> intros)
    | (dsimp only) | (simp only [beat_mk, beat_fold])
    | (rename_i h; replace h := congrArg (fun r => r.1.beat) h; simp [-List.reduceReplicate] at h; simp [h]; done))
@[simp] theorem clearBuf_beat (e : Engine) (p : Nat) : (e.clearBuf p).beat = e.beat := by
  unfold clearBuf; simp
@[simp] theorem secBuf_beat (e : Engine) (p : Nat) (v : Word) : (e.secBuf p v).beat = e.beat := by
  unfold secBuf; simp
@[simp] theorem secResult_beat (e : Engine) (p r : Nat) : (e.secResult p r).beat = e.beat := by
  unfold secResult; simp
@[simp] theorem challenge_beat (e : Engine) (p s : Nat) : (e.challenge p s).beat = e.beat := by
  unfold challenge
  repeat' (first
    | (simp [-List.reduceReplicate]; done) | split
    | (refine (foldl_beat _ ?_ _ _).trans ?_ <;> intros) | (refine (foldl_beat1 _ ?_ _ _).trans ?_ <;> intros)
    | (dsimp only) | (simp only [beat_mk, beat_fold])
    | (rename_i h; replace h := congrArg (fun r => r.1.beat) h; simp [-List.reduceReplicate] at h; simp [h]; done))
@[simp] theorem respond_beat (e : Engine) (p s : Nat) : (e.respond p s).beat = e.beat := by
  unfold respond; dsimp only; split <;> simp
@[simp] theorem keepSess_beat (e : Engine) (p s : Nat) : (e.keepSess p s).beat = e.beat := by
  unfold keepSess
  repeat' (first
    | (simp [-List.reduceReplicate]; done) | split
    | (refine (foldl_beat _ ?_ _ _).trans ?_ <;> intros) | (refine (foldl_beat1 _ ?_ _ _).trans ?_ <;> intros)
    | (dsimp only) | (simp only [beat_mk, beat_fold])
    | (rename_i h; replace h := congrArg (fun r => r.1.beat) h; simp [-List.reduceReplicate] at h; simp [h]; done))
@[simp] theorem secClose_beat (e : Engine) (p s : Nat) : (e.secClose p s).beat = e.beat := by
  unfold secClose; dsimp only; split <;> simp
@[simp] theorem program_beat (e : Engine) (p s confirm : Nat) : (e.program p s confirm).beat = e.beat := by
  unfold program; split <;> simp
@[simp] theorem secCmdTouch_beat (e : Engine) (p s : Nat) : (e.secCmdTouch p s).beat = e.beat := by
  unfold secCmdTouch; split <;> simp
@[simp] theorem secCmd_beat (e : Engine) (p : Nat) (v : Word) : (e.secCmd p v).beat = e.beat := by
  unfold secCmd; split <;> (try split) <;> simp
@[simp] theorem secTide_beat (e : Engine) : e.secTide.beat = e.beat := by
  unfold secTide; simp
@[simp] theorem chartReport_beat (e : Engine) : e.chartReport.beat = e.beat := by
  unfold chartReport; split <;> simp
@[simp] theorem laneStop_beat (e : Engine) (m n : Nat) : (e.laneStop m n).beat = e.beat := by
  unfold laneStop
  split
  · rfl
  · rw [setLane_beat]
    refine foldl_beat _ ?_ _ _
    intro e b
    extract_lets r a e1
    have h1 : e1.beat = e.beat := by simp only [e1]; split <;> simp
    clear_value e1
    split
    · rw [chanMark_beat, h1]
    · exact h1
@[simp] theorem dropShoal_beat (e : Engine) : e.dropShoal.beat = e.beat := by
  unfold dropShoal
  dsimp only
  rw [runEnd_beat]
  exact (mk_beat _ _ _ _ _ _ _ _ _ _ _ _ _ _ _ _ _ _ _ _ _ _ _ _ _ rfl rfl).trans (countN_beat _ _ _)
@[simp] theorem storeRest_beat (e : Engine) : e.storeRest.beat = e.beat := by
  unfold storeRest; simp
@[simp] theorem setRunning_beat (e : Engine) (on : Bool) : (e.setRunning on).beat = e.beat := by
  unfold setRunning; simp
@[simp] theorem drain_beat (c n k : Nat) : ∀ e : Engine, (e.drain c n k).beat = e.beat := by
  induction k generalizing c with
  | zero => intro e; rfl
  | succ k ih =>
    intro e
    unfold drain
    split
    · rfl
    · dsimp only
      rw [ih, formatAll_beat]
      exact (mk_beat (y := e.serve) (hc := rfl) (he := rfl) ..).trans (serve_beat e)
@[simp] theorem endRun_beat (e : Engine) (n cause : Nat) : (e.endRun n cause).beat = e.beat := by
  unfold endRun
  split
  · rfl
  · extract_lets e1 e2 e3
    have h1 : e1.beat = e.beat := by
      simp only [e1]; rw [foldl_beat _ (fun e x => laneStop_beat _ _ _)]; simp
    clear_value e1
    have h2 : e2.beat = e.beat := by
      simp only [e2]; rw [drain_beat, foldl_beat _ (fun e x => stopStream_beat _ _ _ _)]; exact h1
    clear_value e2
    have h3 : e3.beat = e.beat := by simp only [e3]; rw [setRunning_beat, seqStop_beat]; exact h2
    clear_value e3
    split
    · rw [dropShoal_beat, h3]
    · rw [runEnd_beat, h3]
@[simp] theorem lanesStart_beat (e : Engine) (arm : Nat) : (e.lanesStart arm).beat = e.beat := by
  unfold lanesStart
  repeat' (first
    | (simp [-List.reduceReplicate]; done) | split
    | (refine (foldl_beat _ ?_ _ _).trans ?_ <;> intros) | (refine (foldl_beat1 _ ?_ _ _).trans ?_ <;> intros)
    | (dsimp only) | (simp only [beat_mk, beat_fold])
    | (rename_i h; replace h := congrArg (fun r => r.1.beat) h; simp [-List.reduceReplicate] at h; simp [h]; done))
@[simp] theorem tideMarks_beat (e : Engine) : e.tideMarks.beat = e.beat := by
  unfold tideMarks
  repeat' (first
    | (simp [-List.reduceReplicate]; done) | split
    | (refine (foldl_beat _ ?_ _ _).trans ?_ <;> intros) | (refine (foldl_beat1 _ ?_ _ _).trans ?_ <;> intros)
    | (dsimp only) | (simp only [beat_mk, beat_fold])
    | (rename_i h; replace h := congrArg (fun r => r.1.beat) h; simp [-List.reduceReplicate] at h; simp [h]; done))
@[simp] theorem runStart_beat (e : Engine) (arm : Nat) : (e.runStart arm).beat = e.beat := by
  have key : ∀ a b : Engine, a.time = b.time → a.tide = b.tide → b.beat = e.beat →
      (if (a.inAll arm fun c => c).cyc.boundary then (a.inAll arm fun c => c).tideMarks else a.inAll arm fun c => c).beat = e.beat := by
    intro a b h1 h2 h3
    have h4 : a.beat = e.beat := by rw [← h3]; unfold beat; rw [h1, h2]
    split
    · rw [tideMarks_beat, inAll_beat, h4]
    · rw [inAll_beat, h4]
  unfold runStart
  extract_lets r on sel e1 e2 e3
  refine key _ e3 rfl rfl ?_
  simp only [e3]
  rw [seqStart_beat, memStart_beat, takeParams_beat]
  simp only [e2]
  rw [foldl_beat _ (fun e x => streamStart_beat _ _ _ _)]
  simp only [e1]
  simp
@[simp] theorem modeDone_beat (e : Engine) (tag : Nat) (m : Mode) : (e.modeDone tag m).beat = e.beat := by
  unfold modeDone; simp
@[simp] theorem modeReject_beat (e : Engine) (tag reason : Nat) : (e.modeReject tag reason).beat = e.beat := by
  unfold modeReject; simp
@[simp] theorem lastReq_beat (e : Engine) (tag reason : Nat) : (e.lastReq tag reason).beat = e.beat := by
  unfold lastReq; simp
@[simp] theorem requestCommit_beat (e : Engine) (tag : Nat) (tgt : Mode) : (e.requestCommit tag tgt).beat = e.beat := by
  unfold requestCommit; split <;> simp
@[simp] theorem entered_beat (e : Engine) (m : Mode) : (e.entered m).beat = e.beat := by
  unfold entered; split <;> simp
@[simp] theorem leaveRun_beat (e : Engine) (src tgt : Mode) : (e.leaveRun src tgt).beat = e.beat := by
  unfold leaveRun; split <;> simp
@[simp] theorem transBegin_beat (e : Engine) (tag : Nat) (src tgt : Mode) : (e.transBegin tag src tgt).beat = e.beat := by
  have h4 : ∀ x : Engine, x.beat = e.beat →
      (if tgt = .doze ∧ x.ltrEnabled then x.send (.ltr (x.rd R.HOST_LTR_IDLE)) else x).beat = e.beat := by
    intro x hx; split
    · rw [send_beat, hx]
    · exact hx
  exact (powerUp_beat _ _).trans (h4 _ ((leaveRun_beat _ _ _).trans
    ((mk_beat (y := e.lastReq tag 0) (hc := rfl) (he := rfl) ..).trans (lastReq_beat _ _ _))))
@[simp] theorem evalRequest_beat (e : Engine) : e.evalRequest.beat = e.beat := by
  unfold evalRequest
  repeat' (first
    | (simp [-List.reduceReplicate]; done) | split
    | (refine (foldl_beat _ ?_ _ _).trans ?_ <;> intros) | (refine (foldl_beat1 _ ?_ _ _).trans ?_ <;> intros)
    | (dsimp only) | (simp only [beat_mk, beat_fold])
    | (rename_i h; replace h := congrArg (fun r => r.1.beat) h; simp [-List.reduceReplicate] at h; simp [h]; done))
@[simp] theorem transBack_beat (e : Engine) (t : Trans) (why : Nat) : (e.transBack t why).beat = e.beat := by
  unfold transBack; simp
@[simp] theorem wakeComplete_beat (e : Engine) (w : Wake) : (e.wakeComplete w).beat = e.beat := by
  unfold wakeComplete; dsimp only; split <;> simp
@[simp] theorem modeTide_beat (e : Engine) : e.modeTide.beat = e.beat := by
  unfold modeTide
  repeat' (first
    | (simp [-List.reduceReplicate]; done) | split
    | (refine (foldl_beat _ ?_ _ _).trans ?_ <;> intros) | (refine (foldl_beat1 _ ?_ _ _).trans ?_ <;> intros)
    | (dsimp only) | (simp only [beat_mk, beat_fold])
    | (rename_i h; replace h := congrArg (fun r => r.1.beat) h; simp [-List.reduceReplicate] at h; simp [h]; done))
@[simp] theorem acceptAccess_beat (e : Engine) : e.acceptAccess.beat = e.beat := by
  unfold acceptAccess
  split
  · exact (mk_beat _ _ _ _ _ _ _ _ _ _ _ _ _ _ _ _ _ _ _ _ _ _ _ _ _ rfl rfl).trans (wr_beat _ _ _)
  · rfl
@[simp] theorem dozeAccess_beat (e : Engine) : e.dozeAccess.beat = e.beat := by
  unfold dozeAccess; split <;> (try split) <;> simp
@[simp] theorem blockTide_beat (e : Engine) (i : Nat) : (e.blockTide i).beat = e.beat := by
  unfold blockTide; simp
@[simp] theorem policyCommit_beat (e : Engine) (i old : Nat) : (e.policyCommit i old).beat = e.beat := by
  unfold policyCommit; dsimp only; split <;> simp
@[simp] theorem timingDemand_beat (e : Engine) : e.timingDemand.beat = e.beat := by
  unfold timingDemand
  repeat' (first
    | (simp [-List.reduceReplicate]; done) | split
    | (refine (foldl_beat _ ?_ _ _).trans ?_ <;> intros) | (refine (foldl_beat1 _ ?_ _ _).trans ?_ <;> intros)
    | (dsimp only) | (simp only [beat_mk, beat_fold])
    | (rename_i h; replace h := congrArg (fun r => r.1.beat) h; simp [-List.reduceReplicate] at h; simp [h]; done))
@[simp] theorem powerTide_beat (e : Engine) : e.powerTide.beat = e.beat := by
  unfold powerTide
  refine (mk_beat _ _ _ _ _ _ _ _ _ _ _ _ _ _ _ _ _ _ _ _ _ _ _ _ _ rfl rfl).trans ?_
  rw [timingDemand_beat]
  exact foldl_beat _ (fun e x => blockTide_beat _ _) _ _
@[simp] theorem overrun_beat (e : Engine) (page : Nat) : (e.overrun page).beat = e.beat := by
  unfold overrun; simp
@[simp] theorem lateOverrun_beat (e : Engine) : e.lateOverrun.beat = e.beat := by
  unfold lateOverrun
  repeat' (first
    | (simp [-List.reduceReplicate]; done) | split
    | (refine (foldl_beat _ ?_ _ _).trans ?_ <;> intros) | (refine (foldl_beat1 _ ?_ _ _).trans ?_ <;> intros)
    | (dsimp only) | (simp only [beat_mk, beat_fold])
    | (rename_i h; replace h := congrArg (fun r => r.1.beat) h; simp [-List.reduceReplicate] at h; simp [h]; done))
@[simp] theorem chanCommit_beat (e : Engine) (k i : Nat) (old new : Word) : (e.chanCommit k i old new).beat = e.beat := by
  unfold chanCommit
  repeat' (first
    | (simp [-List.reduceReplicate]; done) | split
    | (refine (foldl_beat _ ?_ _ _).trans ?_ <;> intros) | (refine (foldl_beat1 _ ?_ _ _).trans ?_ <;> intros)
    | (dsimp only) | (simp only [beat_mk, beat_fold])
    | (rename_i h; replace h := congrArg (fun r => r.1.beat) h; simp [-List.reduceReplicate] at h; simp [h]; done))
@[simp] theorem tdcCommit_beat (e : Engine) (k i : Nat) (old new : Word) : (e.tdcCommit k i old new).beat = e.beat := by
  unfold tdcCommit
  repeat' (first
    | (simp [-List.reduceReplicate]; done) | split
    | (refine (foldl_beat _ ?_ _ _).trans ?_ <;> intros) | (refine (foldl_beat1 _ ?_ _ _).trans ?_ <;> intros)
    | (dsimp only) | (simp only [beat_mk, beat_fold])
    | (rename_i h; replace h := congrArg (fun r => r.1.beat) h; simp [-List.reduceReplicate] at h; simp [h]; done))
@[simp] theorem seqCommit_beat (e : Engine) (k i : Nat) : (e.seqCommit k i).beat = e.beat := by
  unfold seqCommit
  have h : ∀ bs : List Nat, (if i = e.seq.level then
      bs.foldl (fun e b => { e with seq := { e.seq with
        cnt := upd e.seq.cnt b fun _ => 0, xprev := upd e.seq.xprev b fun _ => false } }) e
    else e).beat = e.beat := by
    intro bs
    split
    · exact foldl_beat _ (fun e x => (mk_beat _ _ _ _ _ _ _ _ _ _ _ _ _ _ _ _ _ _ _ _ _ _ _ _ _ rfl rfl)) _ _
    · rfl
  dsimp only
  split
  · exact h _
  · split
    · exact h _
    · split
      · exact h _
      · split
        · exact h _
        · split
          · exact (mk_beat _ _ _ _ _ _ _ _ _ _ _ _ _ _ _ _ _ _ _ _ _ _ _ _ _ rfl rfl)
          · rfl
@[simp] theorem pwrCommit_beat (e : Engine) (k : Nat) (old : Word) : (e.pwrCommit k old).beat = e.beat := by
  unfold pwrCommit
  repeat' (first
    | (simp [-List.reduceReplicate]; done) | split
    | (refine (foldl_beat _ ?_ _ _).trans ?_ <;> intros) | (refine (foldl_beat1 _ ?_ _ _).trans ?_ <;> intros)
    | (dsimp only) | (simp only [beat_mk, beat_fold])
    | (rename_i h; replace h := congrArg (fun r => r.1.beat) h; simp [-List.reduceReplicate] at h; simp [h]; done))
@[simp] theorem committed_beat (e : Engine) (key : Nat) (old new raw : Word) :
    (e.committed key old new raw).beat = e.beat := by
  unfold committed
  repeat' (first
    | (simp [-List.reduceReplicate]; done) | split
    | (refine (foldl_beat _ ?_ _ _).trans ?_ <;> intros) | (refine (foldl_beat1 _ ?_ _ _).trans ?_ <;> intros)
    | (dsimp only) | (simp only [beat_mk, beat_fold])
    | (rename_i h; replace h := congrArg (fun r => r.1.beat) h; simp [-List.reduceReplicate] at h; simp [h]; done))
@[simp] theorem commit_beat (e : Engine) (p : Pend) : (e.commit p).beat = e.beat := by
  unfold commit
  repeat' (first
    | (simp [-List.reduceReplicate]; done) | split
    | (refine (foldl_beat _ ?_ _ _).trans ?_ <;> intros) | (refine (foldl_beat1 _ ?_ _ _).trans ?_ <;> intros)
    | (dsimp only) | (simp only [beat_mk, beat_fold])
    | (rename_i h; replace h := congrArg (fun r => r.1.beat) h; simp [-List.reduceReplicate] at h; simp [h]; done))
@[simp] theorem commitOne_beat (e : Engine) (p : Pend) : (e.commitOne p).beat = e.beat := by
  unfold commitOne
  repeat' (first
    | (simp [-List.reduceReplicate]; done) | split
    | (refine (foldl_beat _ ?_ _ _).trans ?_ <;> intros) | (refine (foldl_beat1 _ ?_ _ _).trans ?_ <;> intros)
    | (dsimp only) | (simp only [beat_mk, beat_fold])
    | (rename_i h; replace h := congrArg (fun r => r.1.beat) h; simp [-List.reduceReplicate] at h; simp [h]; done))
@[simp] theorem lanesCommitted_beat (e : Engine) (ps : List Pend) : (e.lanesCommitted ps).beat = e.beat := by
  unfold lanesCommitted
  repeat' (first
    | (simp [-List.reduceReplicate]; done) | split
    | (refine (foldl_beat _ ?_ _ _).trans ?_ <;> intros) | (refine (foldl_beat1 _ ?_ _ _).trans ?_ <;> intros)
    | (dsimp only) | (simp only [beat_mk, beat_fold])
    | (rename_i h; replace h := congrArg (fun r => r.1.beat) h; simp [-List.reduceReplicate] at h; simp [h]; done))
@[simp] theorem commitFrame_beat (e : Engine) (ps : List Pend) : (e.commitFrame ps).beat = e.beat := by
  unfold commitFrame; split <;> simp
@[simp] theorem calFrame_beat (e : Engine) : e.calFrame.beat = e.beat := by
  unfold calFrame; split <;> simp
@[simp] theorem jobCommits_beat (e : Engine) (ps : List Pend) : (e.jobCommits ps).beat = e.beat := by
  unfold jobCommits
  repeat' (first
    | (simp [-List.reduceReplicate]; done) | split
    | (refine (foldl_beat _ ?_ _ _).trans ?_ <;> intros) | (refine (foldl_beat1 _ ?_ _ _).trans ?_ <;> intros)
    | (dsimp only) | (simp only [beat_mk, beat_fold])
    | (rename_i h; replace h := congrArg (fun r => r.1.beat) h; simp [-List.reduceReplicate] at h; simp [h]; done))
@[simp] theorem boundaryMarks_beat (e : Engine) : e.boundaryMarks.beat = e.beat := by
  unfold boundaryMarks
  repeat' (first
    | (simp [-List.reduceReplicate]; done) | split
    | (refine (foldl_beat _ ?_ _ _).trans ?_ <;> intros) | (refine (foldl_beat1 _ ?_ _ _).trans ?_ <;> intros)
    | (dsimp only) | (simp only [beat_mk, beat_fold])
    | (rename_i h; replace h := congrArg (fun r => r.1.beat) h; simp [-List.reduceReplicate] at h; simp [h]; done))
@[simp] theorem clockTide_beat (e : Engine) : e.clockTide.beat = e.beat := by
  unfold clockTide
  repeat' (first
    | (simp [-List.reduceReplicate]; done) | split
    | (refine (foldl_beat _ ?_ _ _).trans ?_ <;> intros) | (refine (foldl_beat1 _ ?_ _ _).trans ?_ <;> intros)
    | (dsimp only) | (simp only [beat_mk, beat_fold])
    | (rename_i h; replace h := congrArg (fun r => r.1.beat) h; simp [-List.reduceReplicate] at h; simp [h]; done))
@[simp] theorem hostTide_beat (e : Engine) : e.hostTide.beat = e.beat := by
  unfold hostTide
  repeat' (first
    | (simp [-List.reduceReplicate]; done) | split
    | (refine (foldl_beat _ ?_ _ _).trans ?_ <;> intros) | (refine (foldl_beat1 _ ?_ _ _).trans ?_ <;> intros)
    | (dsimp only) | (simp only [beat_mk, beat_fold])
    | (rename_i h; replace h := congrArg (fun r => r.1.beat) h; simp [-List.reduceReplicate] at h; simp [h]; done))
@[simp] theorem jobsTide_beat (e : Engine) (left : Bool) : (e.jobsTide left).beat = e.beat := by
  unfold jobsTide
  repeat' (first
    | (simp [-List.reduceReplicate]; done) | split
    | (refine (foldl_beat _ ?_ _ _).trans ?_ <;> intros) | (refine (foldl_beat1 _ ?_ _ _).trans ?_ <;> intros)
    | (dsimp only) | (simp only [beat_mk, beat_fold])
    | (rename_i h; replace h := congrArg (fun r => r.1.beat) h; simp [-List.reduceReplicate] at h; simp [h]; done))
@[simp] theorem formatStep_beat (e : Engine) : e.formatStep.beat = e.beat := by
  unfold formatStep
  repeat' (first
    | (simp [-List.reduceReplicate]; done) | split
    | (refine (foldl_beat _ ?_ _ _).trans ?_ <;> intros) | (refine (foldl_beat1 _ ?_ _ _).trans ?_ <;> intros)
    | (dsimp only) | (simp only [beat_mk, beat_fold])
    | (rename_i h; replace h := congrArg (fun r => r.1.beat) h; simp [-List.reduceReplicate] at h; simp [h]; done))
@[simp] theorem laneStep_beat (e : Engine) (m : Nat) (pins : List (List Int)) : (e.laneStep m pins).1.beat = e.beat := setLane_beat _ _ _
@[simp] theorem damage_beat (e : Engine) (s : Nat) (said : Bool) : (e.damage s said).beat = e.beat := by
  unfold damage
  rw [inCyc_beat, pushIf_beat, wr_beat, istat_beat, estat_beat, count_beat]
@[simp] theorem frameOk_beat (e : Engine) (s : Nat) (f : Frame) : (e.frameOk s f).1.beat = e.beat := by
  unfold frameOk
  dsimp only
  split
  · exact inject_beat _ _
  · rfl
@[simp] theorem laneFrame_beat (e : Engine) (m : Nat) (f : Frame) (pins : List (List Int)) : (e.laneFrame m f pins).beat = e.beat := by
  unfold laneFrame
  dsimp only
  split
  · rw [vecs_beat, setSeen_beat, inCyc_beat, setLane_beat, setBlk_beat, frameOk_beat, laneStep_beat]
  · rw [setSeen_beat, setLane_beat, damage_beat, setBlk_beat, frameOk_beat, laneStep_beat]
@[simp] theorem timingFrame_beat (e : Engine) (f : Frame) : (e.timingFrame f).beat = e.beat := by
  have key : ∀ (a : Engine) (g : Engine → Engine), a.beat = e.beat → (∀ x, (g x).time = x.time ∧ (g x).tide = x.tide) →
      (g a).beat = e.beat := by
    intro a g h hg
    rw [← h]; unfold beat; rw [(hg a).1, (hg a).2]
  unfold timingFrame
  dsimp only
  split
  · refine key _ (fun x => { x with tdc.damaged := 0 }) ?_ fun _ => ⟨rfl, rfl⟩
    split
    · exact (mk_beat (y := (e.frameOk 4 f).1) (hc := rfl) (he := rfl) ..).trans (frameOk_beat _ _ _)
    · rw [inCyc_beat]
      exact (mk_beat (y := (e.frameOk 4 f).1) (hc := rfl) (he := rfl) ..).trans (frameOk_beat _ _ _)
  · refine (mk_beat (y := damage _ _ _) (hc := rfl) (he := rfl) ..).trans ?_
    rw [damage_beat]
    exact (mk_beat (y := (e.frameOk 4 f).1) (hc := rfl) (he := rfl) ..).trans (frameOk_beat _ _ _)
@[simp] theorem sampleFrame_beat (e : Engine) (f : Frame) : (e.sampleFrame f).beat = e.beat := by
  unfold sampleFrame
  split <;> split <;> simp
@[simp] theorem framesMissed_beat (e : Engine) : e.framesMissed.beat = e.beat := by
  unfold framesMissed
  extract_lets miss e1
  have h1 : e1.beat = e.beat := foldl_beat _ (fun e m => by split <;> simp) _ _
  clear_value e1
  split
  · rw [sampleFrame_beat, h1]
  · exact h1
@[simp] theorem startRun_beat (e : Engine) : e.startRun.beat = e.beat := by
  unfold startRun
  split
  · split
    · rw [runStart_beat]; exact mk_beat (y := e) (hc := rfl) (he := rfl) ..
    · rfl
  · rfl
@[simp] theorem endByRequest_beat (e : Engine) : e.endByRequest.beat = e.beat := by
  unfold endByRequest
  split
  · rw [endRun_beat]; exact mk_beat (y := e) (hc := rfl) (he := rfl) ..
  · rfl
@[simp] theorem serveStep_beat (e : Engine) : e.serveStep.beat = e.beat := by
  unfold serveStep
  split
  · exact serve_beat e
  · exact mk_beat (y := e) (hc := rfl) (he := rfl) ..
@[simp] theorem stgPeak_beat (e : Engine) : e.stgPeak.beat = e.beat := by
  unfold stgPeak
  repeat' (first
    | (simp [-List.reduceReplicate]; done) | split
    | (refine (foldl_beat _ ?_ _ _).trans ?_ <;> intros) | (refine (foldl_beat1 _ ?_ _ _).trans ?_ <;> intros)
    | (dsimp only) | (simp only [beat_mk, beat_fold])
    | (rename_i h; replace h := congrArg (fun r => r.1.beat) h; simp [-List.reduceReplicate] at h; simp [h]; done))
@[simp] theorem stgPlace_beat (e : Engine) (b : Block) (r : Nat) (o : Bool) : (e.stgPlace b r o).beat = e.beat := by
  unfold stgPlace
  dsimp only
  rw [stgPeak_beat]
  split
  · exact mk_beat (y := e) (hc := rfl) (he := rfl) ..
  · exact (mk_beat (y := (e.injectWords r 0 r).1) (hc := rfl) (he := rfl) ..).trans (injectWords_beat _ _ _ _)
@[simp] theorem bankSwap_beat (e : Engine) : e.bankSwap.beat = e.beat := by
  exact mk_beat (y := e) (hc := rfl) (he := rfl) ..
@[simp] theorem stgDrop_beat (e : Engine) (b : Block) : (e.stgDrop b).beat = e.beat := by
  unfold stgDrop
  repeat' (first
    | (simp [-List.reduceReplicate]; done) | split
    | (refine (foldl_beat _ ?_ _ _).trans ?_ <;> intros) | (refine (foldl_beat1 _ ?_ _ _).trans ?_ <;> intros)
    | (dsimp only) | (simp only [beat_mk, beat_fold])
    | (rename_i h; replace h := congrArg (fun r => r.1.beat) h; simp [-List.reduceReplicate] at h; simp [h]; done))
@[simp] theorem blockArrival_beat (e : Engine) : e.blockArrival.beat = e.beat := by
  unfold blockArrival
  split
  · rfl
  · dsimp only
    split
    · rw [arrived_beat, stgPlace_beat, setBlk_beat]
    · split
      · rw [arrived_beat, stgPlace_beat, bankSwap_beat, setBlk_beat]
      · rw [arrived_beat, stgDrop_beat, setBlk_beat]
@[simp] theorem liveArrival_beat (e : Engine) : e.liveArrival.beat = e.beat := by
  unfold liveArrival; repeat' (first | split | simp)
@[simp] theorem cycleEnd_beat (e : Engine) : e.cycleEnd.beat = e.beat := by
  unfold cycleEnd
  rw [soleEnd_beat, runEnd_beat, liveWords_beat, liveArrival_beat, formatStep_beat, serveStep_beat, routeStep_beat, twSettle_beat,
    endByRequest_beat, framesMissed_beat, startRun_beat]
@[simp] theorem openRun_beat (e : Engine) : e.openRun.beat = e.beat := by
  unfold openRun; split <;> simp
@[simp] theorem peaks_beat (e : Engine) : e.peaks.beat = e.beat := by
  unfold peaks
  repeat' (first
    | (simp [-List.reduceReplicate]; done) | split
    | (refine (foldl_beat _ ?_ _ _).trans ?_ <;> intros) | (refine (foldl_beat1 _ ?_ _ _).trans ?_ <;> intros)
    | (dsimp only) | (simp only [beat_mk, beat_fold])
    | (rename_i h; replace h := congrArg (fun r => r.1.beat) h; simp [-List.reduceReplicate] at h; simp [h]; done))
end Sys2Proof.Machine.Engine

namespace Sys2Proof.Machine

theorem State.evqAdd_eng (s : State) (x : Entry) : (s.evqAdd x).eng = s.eng := rfl
theorem State.evqOverrun_beat (s : State) : s.evqOverrun.eng.beat = s.eng.beat := by
  unfold State.evqOverrun
  split
  · exact Engine.inject_beat _ _
  · rfl
theorem State.evqPush_beat (s : State) (v : Event) : (s.evqPush v).eng.beat = s.eng.beat := by
  unfold State.evqPush
  split
  · exact Engine.inject_beat _ _
  · exact (Engine.istat_beat _ _ _).trans ((Engine.estat_beat _ _ _).trans ((Engine.hwSet_beat _ _ _).trans (Engine.count_beat _ _)))
theorem State.evqPushAll_beat (l : List Event) : ∀ s : State, (l.foldl State.evqPush s).eng.beat = s.eng.beat := by
  induction l with
  | nil => intro s; rfl
  | cons a t ih => intro s; rw [List.foldl_cons, ih, State.evqPush_beat]
theorem State.evqMerge_beat (s : State) : s.evqMerge.eng.beat = s.eng.beat := by
  unfold State.evqMerge
  dsimp only
  rw [State.evqPushAll_beat]
  split
  · rfl
  · exact (State.evqOverrun_beat _).trans rfl
theorem State.evqEnd_beat (s : State) : s.evqEnd.eng.beat = s.eng.beat := (State.evqMerge_beat s)

theorem Engine.advance_time (e : Engine) : e.advance.time.now = e.time.now + 1 ∧
    e.advance.time.tb = (if e.time.counting then e.time.tb + 1#56 else e.time.tb) ∧ e.advance.time.tides = e.time.tides ∧
    e.advance.time.counting = e.time.counting ∧ e.advance.tide = e.tide := by
  unfold Engine.advance
  refine ⟨rfl, rfl, rfl, rfl, ?_⟩
  dsimp only
  split <;> rfl

theorem Engine.cycleBegin_beat (e : Engine) : e.cycleBegin.beat = e.advance.beat := by
  have key : ∀ a : Engine, a.beat = e.advance.beat →
      (if a.openRun.countEnded.peaks.time.counting then a.openRun.countEnded.peaks.catchAll
        else a.openRun.countEnded.peaks).dozeAccess.beat = e.advance.beat := by
    intro a h
    rw [Engine.dozeAccess_beat]
    split
    · rw [Engine.catchAll_beat, Engine.peaks_beat, Engine.countEnded_beat, Engine.openRun_beat, h]
    · rw [Engine.peaks_beat, Engine.countEnded_beat, Engine.openRun_beat, h]
  unfold Engine.cycleBegin
  dsimp only
  exact key _ ((Engine.mk_beat (y := e.advance.placeUsers) (hc := rfl) (he := rfl) ..).trans (Engine.placeUsers_beat _))

namespace Engine

theorem snapshots_beat (e : Engine) : e.snapshots.beat = (e.time.now, e.time.tb, e.time.counting, e.time.tides, e.time.tb, e.tide.store) := by
  unfold snapshots
  extract_lets e1 tm
  have h1 : e1.time = e.time ∧ e1.tide = e.tide := ⟨wr_time _ _ _, wr_tide _ _ _⟩
  clear_value e1
  rw [twSettle_beat, tdcSnap_beat, beat_mk, h1.1]
  dsimp only
  rw [show e.tide = e1.tide from h1.2.symm]
theorem shadowCommit_beat (e : Engine) : e.shadowCommit.beat = (e.time.now, e.time.tb, e.time.counting, e.time.tides, e.tide.snapTb,
    e.tide.store.drop ((e.tide.store.take 64).takeWhile e.ripe).length) := by
  unfold shadowCommit
  extract_lets ps rest was td e1 e2 e3
  have h1 : e1.beat = (e.time.now, e.time.tb, e.time.counting, e.time.tides, e.tide.snapTb, rest) := rfl
  clear_value e1
  have h2 : e2.beat = e1.beat := hwUpd_beat _ _ _
  clear_value e2
  have h3 : e3.beat = e2.beat := by
    simp only [e3]; split
    · rw [istat_beat]
    · rfl
  clear_value e3
  rw [measLive_beat, tinSync_beat, jobCommits_beat, lanesCommitted_beat, foldl_beat _ (fun e x => commitOne_beat _ _),
    commitFrame_beat, h3, h2, h1]
theorem tideClear_beat (e : Engine) : e.tideClear.beat = (e.time.now, e.time.tb, e.time.counting, e.time.tides + 1, e.tide.snapTb, e.tide.store) := rfl
theorem ripe_now (e f : Engine) (h : e.time.now = f.time.now) : e.ripe = f.ripe := by
  funext p; unfold ripe; rw [h]

end Engine
end Sys2Proof.Machine
end

