-- ==== Sys2Proof/Laws/Regs.lean ====
section
/-! SUPPORT. The register file: what a read finds after a write, and the canonical form. Facts about writes to named
registers are proved by rewriting with these lemmas, never by unfolding a write: an unfolded write makes the kernel evaluate
the reset table. -/

namespace Sys2Proof.Machine

/-! ### The file itself -/

theorem RegFile.find_insert (r : RegFile) (k j : Nat) (v : Word) (h : ∀ p ∈ r, p.1 ≠ k) :
    (RegFile.insert r k v).find? (fun p => p.1 == j) =
      if j = k then some (k, v) else r.find? fun p => p.1 == j := by
  induction r with
  | nil =>
    by_cases hj : j = k
    · subst hj; simp [RegFile.insert]
    · have : (k == j) = false := by simpa using fun e : k = j => hj e.symm
      simp [RegFile.insert, List.find?, this, hj]
  | cons p t ih =>
    have hp := h p (by simp)
    have ht := ih fun q hq => h q (by simp [hq])
    by_cases hj : j = k
    · subst hj
      unfold RegFile.insert
      split
      · simp
      · simp [ht, hp]
    · unfold RegFile.insert
      split
      · have : (k == j) = false := by simpa using fun e : k = j => hj e.symm
        simp [List.find?, this]
      · simp only [List.find?, ht, hj, if_false]

theorem RegFile.find_filter_ne (r : RegFile) (k j : Nat) (h : j ≠ k) :
    (r.filter fun p => p.1 != k).find? (fun p => p.1 == j) = r.find? fun p => p.1 == j := by
  induction r with
  | nil => rfl
  | cons p t ih =>
    by_cases hp : p.1 = k
    · have h2 : (p.1 == j) = false := by
        rw [hp]; simpa using fun e : k = j => h e.symm
      rw [List.filter_cons_of_neg (by simp [hp]), ih, List.find?_cons_of_neg (by simp [h2])]
    · rw [List.filter_cons_of_pos (by simp [hp])]
      simp only [List.find?, ih]

theorem RegFile.find_filter_self (r : RegFile) (k : Nat) :
    (r.filter fun p => p.1 != k).find? (fun p => p.1 == k) = none := by
  simp [List.find?_eq_none]

/-- A read is a search of the listed registers. -/
theorem RegFile.get_eq (r : RegFile) (k : Nat) :
    r.get k = ((r.find? fun p => p.1 == k).map (·.2)).getD (resetOf k) := by
  unfold RegFile.get
  cases r.find? fun p => p.1 == k <;> rfl

/-- A register that has been written reads as the value written. -/
theorem RegFile.get_set_same (r : RegFile) (k : Nat) (v : Word) : (r.set k v).get k = v := by
  rw [RegFile.get_eq]
  unfold RegFile.set
  by_cases h : v = resetOf k
  · rw [if_pos h, RegFile.find_filter_self]; exact h.symm
  · rw [if_neg h, RegFile.find_insert _ _ _ _ (by simp), if_pos rfl]; rfl

/-- Every other register keeps its value. -/
theorem RegFile.get_set_other (r : RegFile) (k j : Nat) (v : Word) (h : j ≠ k) : (r.set k v).get j = r.get j := by
  rw [RegFile.get_eq, RegFile.get_eq]
  unfold RegFile.set
  by_cases hv : v = resetOf k
  · rw [if_pos hv, RegFile.find_filter_ne _ _ _ h]
  · rw [if_neg hv, RegFile.find_insert _ _ _ _ (by simp), if_neg h, RegFile.find_filter_ne _ _ _ h]

theorem RegFile.get_set (r : RegFile) (k j : Nat) (v : Word) : (r.set k v).get j = if j = k then v else r.get j := by
  split
  · rename_i h; rw [h, RegFile.get_set_same]
  · rename_i h; exact RegFile.get_set_other _ _ _ _ h

theorem RegFile.pairwise_insert (r : RegFile) (k : Nat) (v : Word) (h : ∀ p ∈ r, p.1 ≠ k)
    (hr : List.Pairwise (fun a b : Nat × Word => a.1 < b.1) r) :
    List.Pairwise (fun a b : Nat × Word => a.1 < b.1) (RegFile.insert r k v) ∧
      ∀ p ∈ RegFile.insert r k v, p = (k, v) ∨ p ∈ r := by
  induction r with
  | nil => simp [RegFile.insert]
  | cons p t ih =>
    have hp := h p (by simp)
    rw [List.pairwise_cons] at hr
    obtain ⟨h1, h2⟩ := hr
    obtain ⟨i1, i2⟩ := ih (fun q hq => h q (by simp [hq])) h2
    unfold RegFile.insert
    split
    · rename_i hk
      refine ⟨?_, by simp⟩
      rw [List.pairwise_cons, List.pairwise_cons]
      refine ⟨fun q hq => ?_, h1, h2⟩
      rcases List.mem_cons.mp hq with rfl | hq
      · exact hk
      · exact Nat.lt_trans hk (h1 q hq)
    · rename_i hk
      refine ⟨?_, fun q hq => ?_⟩
      · rw [List.pairwise_cons]
        refine ⟨fun q hq => ?_, i1⟩
        rcases i2 q hq with rfl | hq
        · simp only; omega
        · exact h1 q hq
      · rcases List.mem_cons.mp hq with rfl | hq
        · simp
        · rcases i2 q hq with rfl | hq <;> simp [*]

/-- A write keeps the canonical form. -/
theorem RegFile.wf_set (r : RegFile) (k : Nat) (v : Word) (h : r.wf = true) : (r.set k v).wf = true := by
  unfold RegFile.wf at h ⊢
  simp only [Bool.and_eq_true, decide_eq_true_eq, List.all_eq_true] at h ⊢
  obtain ⟨h1, h2⟩ := h
  have hf := h1.filter fun p => p.1 != k
  unfold RegFile.set
  split
  · exact ⟨hf, fun p hp => h2 p (List.mem_filter.mp hp).1⟩
  · rename_i hv
    obtain ⟨i1, i2⟩ := RegFile.pairwise_insert (r.filter fun p => p.1 != k) k v (by simp) hf
    refine ⟨i1, fun p hp => ?_⟩
    rcases i2 p hp with rfl | hp
    · simpa using hv
    · exact h2 p (List.mem_filter.mp hp).1

/-- Putting registers back to their reset values keeps the canonical form. -/
theorem RegFile.wf_filter (r : RegFile) (f : Nat × Word → Bool) (h : r.wf = true) : RegFile.wf (r.filter f) = true := by
  unfold RegFile.wf at h ⊢
  simp only [Bool.and_eq_true, decide_eq_true_eq, List.all_eq_true] at h ⊢
  exact ⟨h.1.filter f, fun p hp => h.2 p (List.mem_filter.mp hp).1⟩

namespace Engine

/-! ### Reads after the operations that write registers -/

theorem rd_eq (e : Engine) (k : Nat) : e.rd k = e.regs.get k := by cases e; rfl

/-- A record update reads its registers. -/
@[simp] theorem rd_mk (r a b c d f g h i j k l m n o p q t u v w x y z) (key : Nat) :
    (Engine.mk r a b c d f g h i j k l m n o p q t u v w x y z).rd key = r.get key := rfl

@[simp] theorem get_regs (e : Engine) (k : Nat) : e.regs.get k = e.rd k := (rd_eq e k).symm

theorem regs_wr (e : Engine) (k : Nat) (v : Word) : (e.wr k v).regs = e.regs.set k v := by cases e; rfl

theorem rd_wr (e : Engine) (k j : Nat) (v : Word) : (e.wr k v).rd j = if j = k then v else e.rd j := by
  rw [rd_eq, rd_eq, regs_wr, RegFile.get_set]

@[simp] theorem rd_wr_same (e : Engine) (k : Nat) (v : Word) : (e.wr k v).rd k = v := by rw [rd_wr]; simp

theorem rd_wr_other (e : Engine) (k j : Nat) (v : Word) (h : j ≠ k) : (e.wr k v).rd j = e.rd j := by rw [rd_wr]; simp [h]

theorem regs_hwSet (e : Engine) (k : Nat) (m : Word) : (e.hwSet k m).regs = e.regs.set k (e.rd k ||| m) := by cases e; rfl

theorem rd_hwSet (e : Engine) (k j : Nat) (m : Word) : (e.hwSet k m).rd j = if j = k then e.rd k ||| m else e.rd j := by
  rw [rd_eq, regs_hwSet, RegFile.get_set]; rfl

@[simp] theorem rd_hwSet_same (e : Engine) (k : Nat) (m : Word) : (e.hwSet k m).rd k = e.rd k ||| m := by
  rw [rd_hwSet]; simp

theorem rd_hwSet_other (e : Engine) (k j : Nat) (m : Word) (h : j ≠ k) : (e.hwSet k m).rd j = e.rd j := by
  rw [rd_hwSet]; simp [h]

theorem regs_hwUpd (e : Engine) (k : Nat) (f : Word → Word) : (e.hwUpd k f).regs = e.regs.set k (f (e.rd k)) := by
  cases e; rfl

theorem rd_hwUpd (e : Engine) (k j : Nat) (f : Word → Word) :
    (e.hwUpd k f).rd j = if j = k then f (e.rd k) else e.rd j := by
  rw [rd_eq, regs_hwUpd, RegFile.get_set]; rfl

theorem rd_count (e : Engine) (k j : Nat) : (e.count k).rd j = if j = k then bump16 (e.rd k) else e.rd j := by
  unfold count; rw [rd_hwUpd]

@[simp] theorem rd_count_same (e : Engine) (k : Nat) : (e.count k).rd k = bump16 (e.rd k) := by rw [rd_count]; simp

theorem rd_count_other (e : Engine) (k j : Nat) (h : j ≠ k) : (e.count k).rd j = e.rd j := by rw [rd_count]; simp [h]

theorem rd_istat (e : Engine) (p b j : Nat) :
    (e.istat p b).rd j = if j = istatKey p then e.rd (istatKey p) ||| w32 b else e.rd j := by
  unfold istat; rw [rd_hwSet]

theorem rd_istat_other (e : Engine) (p b j : Nat) (h : j ≠ istatKey p) : (e.istat p b).rd j = e.rd j := by
  rw [rd_istat]; simp [h]

theorem rd_estat (e : Engine) (p b j : Nat) :
    (e.estat p b).rd j = if j = estatKey p then e.rd (estatKey p) ||| w32 b else e.rd j := by
  unfold estat; rw [rd_hwSet]

theorem rd_estat_other (e : Engine) (p b j : Nat) (h : j ≠ estatKey p) : (e.estat p b).rd j = e.rd j := by
  rw [rd_estat]; simp [h]

theorem rd_w1c_other (e : Engine) (k j : Nat) (m : Word) (h : j ≠ k) : (e.w1c k m).rd j = e.rd j := by
  unfold w1c; exact rd_wr_other _ _ _ _ h

/-- What a W1C write clears: the bits written 1 that hardware has not set in this cycle. -/
theorem rd_w1c_same (e : Engine) (k : Nat) (m : Word) :
    (e.w1c k m).rd k = e.rd k &&& ~~~(m &&& ~~~((e.cyc.sets.filter fun p => p.1 == k).foldl (fun a p => a ||| p.2) 0#32)) := by
  unfold w1c; exact rd_wr_same _ _ _

theorem rd_podLast (e : Engine) (kind n j : Nat) : (e.podLast kind n).rd j =
    if j = R.POD_LAST then w32 (kind * 2 ^ 28 + n * 2 ^ 26 + e.time.tb.toNat % 2 ^ 24) else e.rd j := by
  unfold podLast; rw [rd_wr]

theorem rd_podLast_other (e : Engine) (kind n j : Nat) (h : j ≠ R.POD_LAST) : (e.podLast kind n).rd j = e.rd j := by
  rw [rd_podLast]; simp [h]

theorem rd_noGain_other (e : Engine) (n j : Nat) (h : j ≠ R.FEn_GAIN n) : (e.noGain n).rd j = e.rd j := by
  unfold noGain; exact rd_wr_other _ _ _ _ h

@[simp] theorem rd_noGain_same (e : Engine) (n : Nat) : (e.noGain n).rd (R.FEn_GAIN n) = 0#32 := by
  unfold noGain; exact rd_wr_same _ _ _

/-! ### Reads after the operations that write none -/

@[simp] theorem rd_pushAt (e : Engine) (a b c d t : Nat) (j : Nat) : (e.pushAt a b c d t).rd j = e.rd j := by rw [rd_eq, rd_eq, pushAt_regs]
@[simp] theorem rd_push (e : Engine) (a b c d : Nat) (j : Nat) : (e.push a b c d).rd j = e.rd j := by rw [rd_eq, rd_eq, push_regs]
@[simp] theorem rd_pushIf (e : Engine) (w : Bool) (a b c d : Nat) (j : Nat) : (e.pushIf w a b c d).rd j = e.rd j := by rw [rd_eq, rd_eq, pushIf_regs]
@[simp] theorem rd_linkWake (e : Engine) (j : Nat) : (e.linkWake).rd j = e.rd j := by rw [rd_eq, rd_eq, linkWake_regs]
@[simp] theorem rd_emit (e : Engine) (x : Tx) (j : Nat) : (e.emit x).rd j = e.rd j := by rw [rd_eq, rd_eq, emit_regs]
@[simp] theorem rd_complete (e : Engine) (n : Nat) (c : CplStatus) (d : List Word) (b : Bool) (j : Nat) : (e.complete n c d b).rd j = e.rd j := by rw [rd_eq, rd_eq, complete_regs]
@[simp] theorem rd_send (e : Engine) (x : Tx) (j : Nat) : (e.send x).rd j = e.rd j := by rw [rd_eq, rd_eq, send_regs]
@[simp] theorem rd_setLane (e : Engine) (i : Nat) (f : Lane → Lane) (j : Nat) : (e.setLane i f).rd j = e.rd j := by rw [rd_eq, rd_eq, setLane_regs]
@[simp] theorem rd_setPod (e : Engine) (i : Nat) (f : Pod → Pod) (j : Nat) : (e.setPod i f).rd j = e.rd j := by rw [rd_eq, rd_eq, setPod_regs]
@[simp] theorem rd_setTin (e : Engine) (i : Nat) (f : Tin → Tin) (j : Nat) : (e.setTin i f).rd j = e.rd j := by rw [rd_eq, rd_eq, setTin_regs]
@[simp] theorem rd_setUnit (e : Engine) (i : Nat) (f : DiffUnit → DiffUnit) (j : Nat) : (e.setUnit i f).rd j = e.rd j := by rw [rd_eq, rd_eq, setUnit_regs]
@[simp] theorem rd_setStream (e : Engine) (i : Nat) (f : Stream → Stream) (j : Nat) : (e.setStream i f).rd j = e.rd j := by rw [rd_eq, rd_eq, setStream_regs]
@[simp] theorem rd_setMem (e : Engine) (i : Nat) (f : MemStream → MemStream) (j : Nat) : (e.setMem i f).rd j = e.rd j := by rw [rd_eq, rd_eq, setMem_regs]
@[simp] theorem rd_setEnt (e : Engine) (i : Nat) (f : JobEnt → JobEnt) (j : Nat) : (e.setEnt i f).rd j = e.rd j := by rw [rd_eq, rd_eq, setEnt_regs]
@[simp] theorem rd_setSlot (e : Engine) (i : Nat) (f : JobSlot → JobSlot) (j : Nat) : (e.setSlot i f).rd j = e.rd j := by rw [rd_eq, rd_eq, setSlot_regs]
@[simp] theorem rd_setPort (e : Engine) (i : Nat) (f : PortSec → PortSec) (j : Nat) : (e.setPort i f).rd j = e.rd j := by rw [rd_eq, rd_eq, setPort_regs]
@[simp] theorem rd_setKey (e : Engine) (i : Nat) (f : KeySlot → KeySlot) (j : Nat) : (e.setKey i f).rd j = e.rd j := by rw [rd_eq, rd_eq, setKey_regs]
@[simp] theorem rd_setLatch (e : Engine) (i : Nat) (f : PortLatch → PortLatch) (j : Nat) : (e.setLatch i f).rd j = e.rd j := by rw [rd_eq, rd_eq, setLatch_regs]
@[simp] theorem rd_setBlk (e : Engine) (i : Nat) (f : BlkPwr → BlkPwr) (j : Nat) : (e.setBlk i f).rd j = e.rd j := by rw [rd_eq, rd_eq, setBlk_regs]
@[simp] theorem rd_demand (e : Engine) (i : Nat) (j : Nat) : (e.demand i).rd j = e.rd j := by rw [rd_eq, rd_eq, demand_regs]
@[simp] theorem rd_inCyc (e : Engine) (i n : Nat) (f : CycAcc → CycAcc) (j : Nat) : (e.inCyc i n f).rd j = e.rd j := by rw [rd_eq, rd_eq, inCyc_regs]
@[simp] theorem rd_setSBlk (e : Engine) (i : Nat) (f : SBlk → SBlk) (j : Nat) : (e.setSBlk i f).rd j = e.rd j := by rw [rd_eq, rd_eq, setSBlk_regs]
@[simp] theorem rd_setLink (e : Engine) (l : Bool) (f : HingeLink → HingeLink) (j : Nat) : (e.setLink l f).rd j = e.rd j := by rw [rd_eq, rd_eq, setLink_regs]
@[simp] theorem rd_linkSend (e : Engine) (l : Bool) (j : Nat) : (e.linkSend l).rd j = e.rd j := by rw [rd_eq, rd_eq, linkSend_regs]
@[simp] theorem rd_setEnd (e : Engine) (l h : Bool) (f : LinkEnd → LinkEnd) (j : Nat) : (e.setEnd l h f).rd j = e.rd j := by rw [rd_eq, rd_eq, setEnd_regs]
@[simp] theorem rd_linkPut (e : Engine) (l h : Bool) (o : Option HingeOp) (j : Nat) : (e.linkPut l h o).rd j = e.rd j := by rw [rd_eq, rd_eq, linkPut_regs]
@[simp] theorem rd_linkAck (e : Engine) (l h : Bool) (a : Nat) (j : Nat) : (e.linkAck l h a).rd j = e.rd j := by rw [rd_eq, rd_eq, linkAck_regs]
@[simp] theorem rd_setSeen (e : Engine) (n : Nat) (f : Seen → Seen) (j : Nat) : (e.setSeen n f).rd j = e.rd j := by rw [rd_eq, rd_eq, setSeen_regs]
@[simp] theorem rd_touchSess (e : Engine) (p s : Nat) (j : Nat) : (e.touchSess p s).rd j = e.rd j := by rw [rd_eq, rd_eq, touchSess_regs]
@[simp] theorem rd_censusTo (e : Engine) (n s : Nat) (j : Nat) : (e.censusTo n s).rd j = e.rd j := by rw [rd_eq, rd_eq, censusTo_regs]
@[simp] theorem rd_entriesTo (e : Engine) (n s : Nat) (j : Nat) : (e.entriesTo n s).rd j = e.rd j := by rw [rd_eq, rd_eq, entriesTo_regs]
@[simp] theorem rd_podMark (e : Engine) (n k a : Nat) (j : Nat) : (e.podMark n k a).rd j = e.rd j := by rw [rd_eq, rd_eq, podMark_regs]
@[simp] theorem rd_secResult (e : Engine) (p r : Nat) (j : Nat) : (e.secResult p r).rd j = e.rd j := by rw [rd_eq, rd_eq, secResult_regs]
@[simp] theorem rd_clearBuf (e : Engine) (p : Nat) (j : Nat) : (e.clearBuf p).rd j = e.rd j := by rw [rd_eq, rd_eq, clearBuf_regs]
@[simp] theorem rd_settle (e : Engine) (j : Nat) : (e.settle).rd j = e.rd j := by rw [rd_eq, rd_eq, settle_regs]

end Engine
end Sys2Proof.Machine
end

