-- ==== Sys2Proof/Laws/Frame.lean ====
section
/-! SUPPORT. How a statement about what a command leaves is proved: outcomes of the meanings that act on the engine alone,
equality of engines part by part, and the marks of the cycle. -/

namespace Sys2Proof.Machine

/-- A meaning that acts on the engine alone leaves what its function gives. -/
theorem does_of_done {c : Instr} {s : State} {f : Engine → Engine} {p : Engine → Prop}
    (h : exec c s = done s f) (hp : p (f s.eng)) : Does c s p := ⟨f s.eng, h, hp⟩

/-- A meaning that acts where its guard holds. Give g and f, and rfl for h. -/
theorem does_guarded {c : Instr} {s : State} (g : Engine → Bool) (f : Engine → Engine) {p : Engine → Prop}
    (h : exec c s = done s fun e => if g e then f e else e) (hg : g s.eng = true) (hp : p (f s.eng)) : Does c s p := by
  refine ⟨f s.eng, h.trans ?_, hp⟩
  show Host.Outcome.next { s with eng := (if g s.eng = true then f s.eng else s.eng).settle } = _
  rw [if_pos hg]

/-- A meaning that does nothing where its guard fails. -/
theorem idles_guarded {c : Instr} {s : State} (g : Engine → Bool) (f : Engine → Engine)
    (h : exec c s = done s fun e => if g e then f e else e) (hg : g s.eng = false) : Idles c s := by
  refine h.trans ?_
  show Host.Outcome.next { s with eng := (if g s.eng = true then f s.eng else s.eng).settle } = _
  rw [if_neg (by rw [hg]; decide)]

/-- A meaning whose other parts stay leaves the engine of its state. -/
theorem does_of_doneS {c : Instr} {s : State} {e : Engine} {p : Engine → Prop}
    (h : exec c s = doneS { s with eng := e }) (hp : p e) : Does c s p := ⟨e, h, hp⟩

theorem idles_of_doneS {c : Instr} {s : State} (h : exec c s = doneS s) : Idles c s := h

theorem Engine.parts (a b : Engine) (h1 : a.regs = b.regs) (h2 : a.cyc = b.cyc) (h3 : a.time = b.time) (h4 : a.clk = b.clk)
    (h5 : a.tide = b.tide) (h6 : a.sys = b.sys) (h7 : a.pwr = b.pwr) (h8 : a.lanes = b.lanes) (h9 : a.pods = b.pods)
    (h10 : a.bus = b.bus) (h11 : a.tdc = b.tdc) (h12 : a.seq = b.seq) (h13 : a.recb = b.recb) (h14 : a.stg = b.stg)
    (h15 : a.mem = b.mem) (h16 : a.job = b.job) (h17 : a.host = b.host) (h18 : a.i2c = b.i2c) (h19 : a.hinge = b.hinge)
    (h20 : a.sec = b.sec) (h21 : a.tap = b.tap) (h22 : a.latch = b.latch) (h23 : a.arriving = b.arriving)
    (h24 : a.tx = b.tx) : a = b := by
  cases a; cases b; simp only at *; subst_vars; rfl

theorem Cycle.parts (a b : Cycle) (h1 : a.sets = b.sets) (h2 : a.rc = b.rc) (h3 : a.boundary = b.boundary)
    (h4 : a.fresh = b.fresh) (h5 : a.delivered = b.delivered) (h6 : a.users = b.users) (h7 : a.fires = b.fires)
    (h8 : a.edge = b.edge) (h9 : a.trigRise = b.trigRise) (h10 : a.trigFall = b.trigFall) (h11 : a.sess = b.sess)
    (h12 : a.rank = b.rank) : a = b := by
  cases a; cases b; simp only at *; subst_vars; rfl

namespace Engine

/-! ### The marked engine -/

@[simp] theorem marked_regs (a b : Engine) : (a.marked b).regs = b.regs := rfl
@[simp] theorem marked_cyc (a b : Engine) : (a.marked b).cyc = { a.cyc with sets := b.cyc.sets, rc := b.cyc.rc } := rfl
@[simp] theorem marked_time (a b : Engine) : (a.marked b).time = a.time := rfl
@[simp] theorem marked_clk (a b : Engine) : (a.marked b).clk = a.clk := rfl
@[simp] theorem marked_tide (a b : Engine) : (a.marked b).tide = a.tide := rfl
@[simp] theorem marked_sys (a b : Engine) : (a.marked b).sys = a.sys := rfl
@[simp] theorem marked_pwr (a b : Engine) : (a.marked b).pwr = a.pwr := rfl
@[simp] theorem marked_lanes (a b : Engine) : (a.marked b).lanes = a.lanes := rfl
@[simp] theorem marked_pods (a b : Engine) : (a.marked b).pods = a.pods := rfl
@[simp] theorem marked_bus (a b : Engine) : (a.marked b).bus = a.bus := rfl
@[simp] theorem marked_tdc (a b : Engine) : (a.marked b).tdc = a.tdc := rfl
@[simp] theorem marked_seq (a b : Engine) : (a.marked b).seq = a.seq := rfl
@[simp] theorem marked_recb (a b : Engine) : (a.marked b).recb = a.recb := rfl
@[simp] theorem marked_stg (a b : Engine) : (a.marked b).stg = a.stg := rfl
@[simp] theorem marked_mem (a b : Engine) : (a.marked b).mem = a.mem := rfl
@[simp] theorem marked_job (a b : Engine) : (a.marked b).job = a.job := rfl
@[simp] theorem marked_host (a b : Engine) : (a.marked b).host = a.host := rfl
@[simp] theorem marked_i2c (a b : Engine) : (a.marked b).i2c = a.i2c := rfl
@[simp] theorem marked_hinge (a b : Engine) : (a.marked b).hinge = a.hinge := rfl
@[simp] theorem marked_sec (a b : Engine) : (a.marked b).sec = a.sec := rfl
@[simp] theorem marked_tap (a b : Engine) : (a.marked b).tap = a.tap := rfl
@[simp] theorem marked_latch (a b : Engine) : (a.marked b).latch = a.latch := rfl
@[simp] theorem marked_arriving (a b : Engine) : (a.marked b).arriving = a.arriving := rfl
@[simp] theorem marked_tx (a b : Engine) : (a.marked b).tx = a.tx := rfl

/-- Which marks of the cycle an operation moves: those on W1C and RC registers only. -/
def SameCycle (a b : Engine) : Prop := b.cyc = { a.cyc with sets := b.cyc.sets, rc := b.cyc.rc }

theorem sameCycle_rfl (a : Engine) : SameCycle a a := rfl

theorem sameCycle_of_cyc {a b c : Engine} (h : SameCycle a b) (hc : c.cyc = b.cyc) : SameCycle a c := by
  unfold SameCycle; rw [hc]; exact h

theorem sameCycle_hwSet {a b : Engine} (k : Nat) (m : Word) (h : SameCycle a b) : SameCycle a (b.hwSet k m) := by
  have e : (b.hwSet k m).cyc = { b.cyc with sets := (k, m) :: b.cyc.sets } := by cases b; rfl
  unfold SameCycle; rw [e, h]

theorem sameCycle_hwUpd {a b : Engine} (k : Nat) (f : Word → Word) (h : SameCycle a b) : SameCycle a (b.hwUpd k f) := by
  have e : (b.hwUpd k f).cyc = { b.cyc with rc := (b.hwUpd k f).cyc.rc } := by cases b; rfl
  unfold SameCycle; rw [e, h]

theorem sameCycle_count {a b : Engine} (k : Nat) (h : SameCycle a b) : SameCycle a (b.count k) := sameCycle_hwUpd k _ h

theorem sameCycle_istat {a b : Engine} (p n : Nat) (h : SameCycle a b) : SameCycle a (b.istat p n) := sameCycle_hwSet _ _ h

theorem sameCycle_estat {a b : Engine} (p n : Nat) (h : SameCycle a b) : SameCycle a (b.estat p n) := sameCycle_hwSet _ _ h

end Engine
end Sys2Proof.Machine
end

