-- ==== Sys2Proof/Laws/Shoal.lean ====
section
/-! SUPPORT. Shoal: reads after writes, and the canonical form, which every operation on it keeps. -/

namespace Sys2Proof.Machine

/-! ### One byte -/

@[simp] theorem Memory.get_nil (a : Nat) : Memory.get [] a = none := rfl

theorem Memory.get_cons (p : Nat × Byte) (t : Memory) (a : Nat) :
    Memory.get (p :: t) a = if p.1 = a then some p.2 else Memory.get t a := by
  unfold Memory.get
  by_cases h : p.1 = a
  · rw [List.find?_cons_of_pos (by simp [h]), if_pos h]; rfl
  · rw [List.find?_cons_of_neg (by simp [h]), if_neg h]

/-- In a rising list an address below the first is not listed. -/
theorem Memory.get_below (m : Memory) (a : Nat) (h : ∀ p ∈ m, a < p.1) : Memory.get m a = none := by
  induction m with
  | nil => rfl
  | cons p t ih =>
    rw [Memory.get_cons, if_neg (by have := h p (by simp); omega), ih fun q hq => h q (by simp [hq])]

/-- The form of Memory.wf as propositions. -/
theorem Memory.wf_iff (m : Memory) :
    m.wf = true ↔ List.Pairwise (fun a b : Nat × Byte => a.1 < b.1) m ∧ ∀ p ∈ m, p.1 < shoalSize := by
  unfold Memory.wf
  simp

theorem Memory.set_mem (m : Memory) (a : Nat) (b : Byte) : ∀ p ∈ Memory.set m a b, p = (a, b) ∨ p ∈ m := by
  induction m with
  | nil => simp [Memory.set]
  | cons p t ih =>
    intro q hq
    unfold Memory.set at hq
    split at hq
    · simpa using hq
    · split at hq
      · rcases List.mem_cons.mp hq with rfl | hq <;> simp [*]
      · rcases List.mem_cons.mp hq with rfl | hq
        · simp
        · rcases ih q hq with rfl | hq <;> simp [*]

/-- A byte that has been written reads as the byte written. -/
theorem Memory.get_set_same (m : Memory) (a : Nat) (b : Byte) : Memory.get (Memory.set m a b) a = some b := by
  induction m with
  | nil => simp [Memory.set, Memory.get_cons]
  | cons p t ih =>
    unfold Memory.set
    split
    · simp [Memory.get_cons]
    · split
      · simp [Memory.get_cons]
      · rename_i h1 h2
        rw [Memory.get_cons, if_neg (fun e => h2 e.symm), ih]

/-- Every other byte reads as before. -/
theorem Memory.get_set_other (m : Memory) (a c : Nat) (b : Byte) (h : c ≠ a) :
    Memory.get (Memory.set m a b) c = Memory.get m c := by
  induction m with
  | nil => simp [Memory.set, Memory.get_cons, Ne.symm h]
  | cons p t ih =>
    unfold Memory.set
    split
    · rw [Memory.get_cons, if_neg (Ne.symm h)]
    · split
      · rename_i h1 h2
        rw [Memory.get_cons, Memory.get_cons, if_neg (Ne.symm h), if_neg (by omega)]
      · rw [Memory.get_cons, Memory.get_cons, ih]

/-- A write of a byte that exists keeps the canonical form. -/
theorem Memory.wf_set (m : Memory) (a : Nat) (b : Byte) (h : m.wf = true) (ha : a < shoalSize) :
    (Memory.set m a b).wf = true := by
  rw [Memory.wf_iff] at h ⊢
  refine ⟨?_, fun p hp => ?_⟩
  · induction m with
    | nil => simp [Memory.set]
    | cons p t ih =>
      obtain ⟨h1, h2⟩ := h
      rw [List.pairwise_cons] at h1
      unfold Memory.set
      split
      · rename_i hk
        rw [List.pairwise_cons, List.pairwise_cons]
        refine ⟨fun q hq => ?_, h1⟩
        rcases List.mem_cons.mp hq with rfl | hq
        · exact hk
        · exact Nat.lt_trans hk (h1.1 q hq)
      · split
        · rename_i hk
          rw [List.pairwise_cons]
          exact ⟨fun q hq => by have := h1.1 q hq; omega, h1.2⟩
        · rename_i h3 h4
          rw [List.pairwise_cons]
          refine ⟨fun q hq => ?_, ih ⟨h1.2, fun q hq => h2 q (by simp [hq])⟩⟩
          rcases Memory.set_mem t a b q hq with rfl | hq
          · simp only; omega
          · exact h1.1 q hq
  · rcases Memory.set_mem m a b p hp with rfl | hp
    · exact ha
    · exact h.2 p hp

/-! ### Bytes at consecutive addresses -/

/-- Bytes written one after another. -/
theorem Memory.wf_setAll (bs : List Byte) : ∀ (m : Memory) (a : Nat), m.wf = true → a + bs.length ≤ shoalSize →
    Memory.wf ((bs.zipIdx a).foldl (fun m p => Memory.set m p.2 p.1) m) = true := by
  induction bs with
  | nil => intro m a h _; exact h
  | cons b t ih =>
    intro m a h ha
    rw [List.length_cons] at ha
    rw [List.zipIdx_cons, List.foldl_cons]
    exact ih _ _ (Memory.wf_set m a b h (by omega)) (by omega)

/-- A byte outside the addresses written reads as before. -/
theorem Memory.get_setAll_outside (bs : List Byte) : ∀ (m : Memory) (a c : Nat), c < a ∨ a + bs.length ≤ c →
    Memory.get ((bs.zipIdx a).foldl (fun m p => Memory.set m p.2 p.1) m) c = Memory.get m c := by
  induction bs with
  | nil => intro m a c _; rfl
  | cons b t ih =>
    intro m a c h
    rw [List.length_cons] at h
    rw [List.zipIdx_cons, List.foldl_cons, ih _ _ _ (by omega), Memory.get_set_other _ _ _ _ (by omega)]

/-- A byte at one of the addresses written reads as the byte written. -/
theorem Memory.get_setAll_inside (bs : List Byte) : ∀ (m : Memory) (a i : Nat), i < bs.length →
    Memory.get ((bs.zipIdx a).foldl (fun m p => Memory.set m p.2 p.1) m) (a + i) = bs[i]? := by
  induction bs with
  | nil => intro m a i h; simp at h
  | cons b t ih =>
    intro m a i h
    rw [List.zipIdx_cons, List.foldl_cons]
    cases i with
    | zero =>
      rw [Memory.get_setAll_outside _ _ _ _ (by omega)]
      exact Memory.get_set_same m a b
    | succ i =>
      rw [show a + (i + 1) = (a + 1) + i by omega, ih _ _ _ (by simpa using h)]; rfl

namespace Shoal

/-- All that a write to Shoal can do: it faults beyond 1 GiB, else the bytes are there and no other byte changes. -/
theorem write_spec (s : Shoal) (a : Nat) (bs : List Byte) :
    (shoalSize < a + bs.length ∧ s.write a bs = .error .shoalRange) ∨
    (a + bs.length ≤ shoalSize ∧ ∃ t, s.write a bs = .ok t ∧ t.reads = s.reads
      ∧ (∀ i, i < bs.length → Memory.get t.mem (a + i) = bs[i]?)
      ∧ (∀ c, c < a ∨ a + bs.length ≤ c → Memory.get t.mem c = Memory.get s.mem c)
      ∧ (s.mem.wf = true → t.mem.wf = true) ∧ ∀ p ∈ t.bad, p ∈ s.bad) := by
  unfold write
  by_cases h : shoalSize < a + bs.length
  · left; exact ⟨h, by rw [if_pos h]⟩
  · right
    rw [if_neg h]
    refine ⟨by omega, _, rfl, rfl, ?_, ?_, ?_, ?_⟩
    · intro i hi; exact Memory.get_setAll_inside bs _ _ _ hi
    · intro c hc; exact Memory.get_setAll_outside bs _ _ _ hc
    · intro hw; exact Memory.wf_setAll bs _ _ hw (by omega)
    · intro p hp; exact (List.mem_filter.mp hp).1

/-- A write keeps Shoal sound. -/
theorem write_ok (s t : Shoal) (a : Nat) (bs : List Byte) (h : s.ok) (hw : s.write a bs = .ok t) : t.ok := by
  rcases write_spec s a bs with ⟨_, he⟩ | ⟨_, u, he, _, _, _, hm, hb⟩
  · rw [he] at hw; cases hw
  · rw [he] at hw
    injection hw with hw
    subst hw
    exact ⟨hm h.1, fun p hp => h.2 p (hb p hp)⟩

/-- Flipping bits of a stored word keeps the canonical form: an unwritten byte stays unwritten. -/
theorem flipWord_ok (s : Shoal) (w : Nat) (x : BitVec 64) (h : s.ok) (hw : w < 2 ^ 27) : (s.flipWord w x).ok := by
  refine ⟨?_, h.2⟩
  unfold flipWord
  have gen : ∀ (l : List Nat) (m : Memory), m.wf = true → (∀ i ∈ l, i < 8) →
      Memory.wf (l.foldl (fun m i => match Memory.get m (8 * w + i) with
        | some b => Memory.set m (8 * w + i) (b ^^^ x.extractLsb' (8 * i) 8)
        | none => m) m) = true := by
    intro l
    induction l with
    | nil => intro m hm _; exact hm
    | cons i t ih =>
      intro m hm hl
      rw [List.foldl_cons]
      refine ih _ ?_ fun j hj => hl j (by simp [hj])
      have hi := hl i (by simp)
      split
      · exact Memory.wf_set _ _ _ hm (by simp only [shoalSize]; omega)
      · exact hm
  exact gen _ _ h.1 fun i hi => List.mem_range.mp hi

/-- A disturbance keeps Shoal sound. -/
theorem disturb_ok (us : List Upset) : ∀ s : Shoal, s.ok → (s.disturb us).ok := by
  unfold disturb
  induction us with
  | nil => intro s h; exact h
  | cons u t ih =>
    intro s h
    rw [List.foldl_cons]
    refine ih _ ?_
    split
    · rename_i hu
      have h2 : (if u.ecc = .double then s.flipWord u.word u.flip else s).ok := by
        split
        · exact flipWord_ok s _ _ h hu
        · exact h
      dsimp only
      refine ⟨h2.1, fun p hp => ?_⟩
      rcases List.mem_cons.mp hp with rfl | hp
      · exact hu
      · exact h2.2 p (List.mem_filter.mp hp).1
    · exact h

/-- A disturbance changes no word but those it names. -/
theorem disturb_nil (s : Shoal) : s.disturb [] = s := rfl

end Shoal
end Sys2Proof.Machine
end

