-- ==== Sys2Proof/Tests/Slice0.lean ====
section
/-! SUPPORT. Tests: the terms that each check of WellFormed refuses, worked cases of the spec, one step at a time, and for
every statement with hypotheses a state and operands that meet them, clause by clause. -/

namespace Sys2Proof.Tests

open Sys2Proof Sys2Proof.Machine

/-! ### Well-formedness: an ill-formed term for each check, and well-formed ones -/

def memReq (a n : Nat) (d : List Word) : MemReq :=
  { kind := .memory, addr := a, len := n, fbe := 15#4, lbe := 0#4, data := d, ep := false, tlpPrefix := false }

def cfgReq (fn off : Nat) (d : Option Word) : CfgReq := { fn := fn, type1 := false, off := off, be := 15#4, data := d, tlpPrefix := false }

theorem test_wf_refuses_registers :
    [Instr.registerWrite .f0 256 0x20 15#4 0#32, .rcRead .f0 3 0x2A, .rlLoRead .i2c 5 256].all (fun c => !c.wf) = true := by decide

theorem test_wf_refuses_frames_and_buses :
    [Instr.sampleFrame ⟨.lane 0 (List.replicate 13 [0]), true, true, 0#4⟩, .sampleFrame ⟨.lane 0 (List.replicate 14 []), true, true, 0#4⟩,
     .scrubRead [⟨2 ^ 27, .single, 0#64⟩], .entryRead 0 [⟨2 ^ 27, .double, 0#64⟩], .blockRead 0 [⟨2 ^ 27, .single, 0#64⟩],
     .stagingWordDelivery (some ⟨2 ^ 27, .single, 0#64⟩), .i2cWriteTransaction [], .i2cReadTransaction [] 0xD8#8 4,
     .programComplete .f0 [0#32], .hingeDataFrame .c ⟨false, List.replicate 63 0#8⟩].all
      (fun c => !c.wf) = true := by decide

theorem test_wf_refuses_requests :
    [Instr.memoryReadRequest (memReq 2 1 []), .memoryReadRequest (memReq (2 ^ 64) 1 []), .memoryReadRequest (memReq 8 0 []),
     .memoryReadRequest (memReq 4092 2 []), .memoryReadRequest (memReq 8 1 [0#32]), .memoryWriteRequest (memReq 8 1 []),
     .apertureRead 2 4 [], .apertureRead 4 0 [], .apertureRead 4 6 [], .expansionRomRead 1 4, .expansionRomRead 0 0,
     .completion 256 .success false [], .completionTimeout 256, .configurationRequest (cfgReq 8 0 none),
     .configurationRequest (cfgReq 0 4096 none), .configurationRequest (cfgReq 0 2 none), .hostLinkUp 0 1, .hostLinkUp 1 0].all
      (fun c => !c.wf) = true := by decide

theorem test_wf_accepts :
    [Instr.registerWrite .f0 0x10 0x20 15#4 0#32, .sampleFrame ⟨.lane 0 (List.replicate 14 [0]), true, true, 0#4⟩,
     .memoryReadRequest (memReq 4092 1 []), .memoryWriteRequest (memReq 8 1 [0#32]), .apertureRead 4 4 [],
     .configurationRequest (cfgReq 1 4092 none), .i2cReadTransaction [] 0xD9#8 4, .vddIoLoss].all Instr.wf = true := by decide

/-! ### Worked cases of the spec -/

/-- The ASCII bytes "123456789". -/
def nine : List Byte := (List.range 9).map fun i => BitVec.ofNat 8 (0x31 + i)

/-- The check values of R203 and R204. -/
theorem test_crc_check_values : crc16 nine = 0x29B1#16 ∧ crc32 nine = 0xCBF43926#32 := by decide +kernel

/-- The worked case of 09: its twenty items, and its payload bytes. -/
def workedItems : List Item :=
  [0x8000#16, 0xC3F3#16, 0xC000#16, 0xC010#16, 0xC000#16, 5#16, 5#16, 5#16, 5#16, 6#16, 6#16, 5#16, 5#16, 5#16, 5#16, 6#16,
   6#16, 5#16, 5#16, 0xA002#16]

def workedPayload : List Byte :=
  [0x00#8, 0x00#8, 0xCD#8, 0x0F#8, 0x03#8, 0x00#8, 0x06#8, 0x01#8, 0x0C#8, 0x00#8, 0x58#8, 0x01#8, 0x40#8, 0xC2#8, 0x00#8,
   0x20#8, 0xB8#8, 0x02#8, 0x28#8, 0x80#8, 0x00#8, 0xE8#8, 0x03#8, 0x00#8]

theorem test_worked_block_encodes : tokenPayload workedItems = workedPayload := by decide +kernel

/-- The block of the worked case, as R203 and R204 make it. -/
def workedBlock : Block :=
  { stream := 2, count := 20, plen := 24, firstT := 0x1000003F3#56, body := workedPayload ++ bytesOfWord (crc32 workedPayload)
    stored := false, stop := true, aborted := true, runStart := true }

/-- Words 1 to 3 of its header, and its directory entry. -/
theorem test_worked_header_and_entry :
    ((headerBytes workedBlock false).drop 4) = [0x10030014#32, 0x3F3#32, 0x10000001#32].flatMap bytesOfWord ∧
    entryBytes workedBlock 0x644000 1 = [0x01644000#32, 0x3F3#32, 0xA4000001#32, 0x4014#32].flatMap bytesOfWord := by
  decide +kernel

/-- It decodes to its items; with byte 16 or byte 18 of the payload corrupted it shows the faults of the table. -/
def corrupt (i : Nat) (b : Byte) : List Byte :=
  headerBytes workedBlock false ++ (workedPayload.set i b) ++ bytesOfWord (crc32 workedPayload)

theorem test_worked_block_decodes : (checkBlock (blockBytes workedBlock) none).items = workedItems ∧
    (checkBlock (blockBytes workedBlock) none).faults = [] := by decide +kernel

theorem test_corrupted_blocks_fault : (checkBlock (corrupt 16 0xF8#8) none).faults = [(1, 11), (6, 11)] ∧
    (checkBlock (corrupt 18 0x68#8) none).faults = [(3, 11), (6, 11)] := by decide +kernel


/-! ### Small states -/

/-- Register values over the reset ones. -/
def regs (l : List (Nat × Word)) : RegFile := l.foldl (fun r p => r.set p.1 p.2) []

/-- MEASURE: rails up, every block on, the PLL locked, the time base counting. -/
def run : Engine :=
  { time := { now := 20000000, tb := 0x123456789#56, counting := true }
    clk := { pll := .locked, everLocked := true, refPresent := true, x32Ok := true }
    sys := { phase := .run }
    pwr := { enCore := true, enMem := true, enAna := true, pgIn := true, pgRisen := true }
    mem := { selfRef := false } }

/-- The same engine in DOZE, coasting. -/
def doze : Engine :=
  { run with
    time := { run.time with counting := false, coasting := true, slackLen := 70 }
    sys := { run.sys with mode := .doze, modeReg := .doze, target := .doze } }

/-- The engine in a wake out of DOZE. -/
def waking : Engine :=
  { doze with
    clk := { doze.clk with pll := .acquiring }
    sys := { doze.sys with phase := .waking, target := .measure, wake := some ⟨.doze, .measure, 1000, false, true, false⟩ } }

def st (e : Engine) : State := { eng := e }

/-- The engine with register values. -/
def withRegs (e : Engine) (l : List (Nat × Word)) : State := st { e with regs := regs l }

/-- The engine with a block of index i in a power state. -/
def blkIn (e : Engine) (i : Nat) (x : PwrState) : Engine :=
  { e with pwr := { e.pwr with blks := e.pwr.blks.set i { st := x, start := 1000 } } }

/-- The engine after a command. -/
def after (c : Instr) (s : State) : Engine :=
  match exec c s with
  | .next u => u.eng
  | _ => {}

/-! ### Single steps, with values from the spec -/

/-- R25: at 10 MHz a window fails below 18 and above 22 edges. -/
theorem test_monitor_window_limits :
    (after (.monitorWindow 18 20) (withRegs run [(R.CLK_CTL, 0x11#32)])).clk.failed = false ∧
    (after (.monitorWindow 17 20) (withRegs run [(R.CLK_CTL, 0x11#32)])).clk.failed = true := by decide

theorem test_monitor_window_upper :
    (after (.monitorWindow 22 20) (withRegs run [(R.CLK_CTL, 0x11#32)])).clk.failed = false ∧
    (after (.monitorWindow 23 20) (withRegs run [(R.CLK_CTL, 0x11#32)])).clk.failed = true := by decide

/-- The job at ring index 5 verifies a block in slot 2. -/
def verifying (bytes : List Byte) : State :=
  st { run with
    regs := regs [(R.DEC_CTL, 1#32)]
    job := { head := 5, tail := 6, ents := run.job.ents.set 5 { st := .active, desc := List.replicate 8 0#32 }
             slots := run.job.slots.set 2 { busy := true, ring := 5, opcode := 3, stream := 2, stage := .decode, left := 2 }
             decQ := [⟨2, bytes, some 0x644000, false, none⟩] } }

/-- The first corrupted variant of 09: DEC_LAST, DEC_LAST_BLK and the arguments of the two events. -/
theorem test_decode_block_tells_faults :
    (after .decodeBlock (verifying (corrupt 16 0xF8#8))).rd R.DEC_LAST = 0xE428000B#32 ∧
    (after .decodeBlock (verifying (corrupt 16 0xF8#8))).rd R.DEC_LAST_BLK = 0x644000#32 := by decide +kernel

theorem test_decode_block_pushes_faults :
    (after .decodeBlock (verifying (corrupt 16 0xF8#8))).arriving.map (·.arg) = [0x285, 0xC85] := by decide +kernel

/-- R378: TEST_RESET leaves IDCODE in the port; R39: a wrap at epoch 65 535 sets the overflow bit. -/
theorem test_test_reset : (after .testReset (st { run with tap := ⟨false, .extest, 5⟩ })).tap = ⟨true, .idcode, 5⟩ := by
  decide

theorem test_wrap_overflows :
    (after .timeBaseWrap (st { run with time := { run.time with wrapDue := true }, regs := regs [(R.TB_EPOCH, 65535#32)] })).rd
      R.TB_EPOCH = 0x8000FFFF#32 := by decide +kernel


/-! ### Witnesses: for each clause of a statement, a state and operands that meet its hypotheses -/

theorem witness_idleStepPassesACycle : (st run).pending = [] ∧ (st run).eng.host.held = [] := by decide

/-- A step with a next state from a state with the invariant. -/
theorem witness_invKeptByStep : (st run).Inv ∧ ∃ t, step (st run) = .next t :=
  ⟨⟨⟨by decide, by intro p h; cases h⟩, by decide, by decide⟩, ⟨_, rfl⟩⟩

theorem witness_commandsKeepTheWaiting : ∃ t, exec .testReset (st run) = .next t := ⟨_, rfl⟩

theorem witness_otherCommandsKeepShoalAndQueue :
    writesShoal .testReset = false ∧ reachesQueue .testReset = false ∧ ∃ t, exec .testReset (st run) = .next t :=
  ⟨rfl, rfl, ⟨_, rfl⟩⟩

theorem witness_settleKeepsTheRest : run.job.outQ = [] := rfl

/-- An access of a port is lost, finds its port not open, waits behind another, or is served at once. -/
theorem witness_waitsItsTurn :
    (let e := (st doze).eng.arrivesAt .i2c
     e.access = false ∧ doze.host.up = false) ∧
    (let e := ({ run with sec := { ports := List.replicate 3 { chal := .checking } } } : Engine).arrivesAt .f0
     ¬(e.access = false ∧ e.host.up = false) ∧ e.portFirst .f0 = true ∧ e.portOpen .f0 = false) ∧
    (let e := ({ run with host := { held := [⟨.f0, [], .rom 0 4, 0, none, none⟩] } } : Engine).arrivesAt .i2c
     ¬(e.access = false ∧ (Port.i2c = .i2c ∨ e.host.up = false)) ∧ e.portFirst .i2c = false) ∧
    (∀ p ∈ [Port.f0, .f1, .i2c], (st run).ready p = true) := by decide

/-- A second failing window in sequence with the PLL locked, and a first one. -/
theorem witness_monitorWindowJudgesTheReference :
    (let e := { run with clk := { run.clk with failed := true } }
     e.pwr.enCore = true ∧ e.time.counting = true ∧ e.clk.failed = true ∧ e.clk.pll = .locked ∧
       e.expectEdges (e.rb R.CLK_CTL 0) < 8 * (max 34 (e.expectEdges (e.rb R.CLK_CTL 0)) - min 34 (e.expectEdges (e.rb R.CLK_CTL 0)))) ∧
    (run.pwr.enCore = true ∧ run.time.counting = true ∧ run.clk.failed = false) ∧
    (waking.pwr.enCore = true ∧ waking.time.counting = false ∧ waking.sys.phase = .waking) := by decide

theorem witness_pllLocksOrTimesOut :
    (let e := { run with clk := { run.clk with pll := .holdover, good := 16 } }
     e.clk.pll ≠ .locked ∧ e.clk.refPresent = true ∧ e.time.counting = true ∧ e.rf R.CLK_MON 0 8 ≤ e.clk.good ∧ e.clk.pll = .holdover) ∧
    (waking.clk.pll ≠ .locked ∧ waking.time.counting = false ∧ waking.clk.refPresent = true ∧ waking.clk.pll = .acquiring ∧
      waking.clk.since + waking.rf R.CLK_MON 0 8 * 2 ^ waking.tideN ≤ waking.time.now) ∧
    (let w : Wake := ⟨.doze, .measure, 13750000, false, true, false⟩
     let e := { waking with sys := { waking.sys with wake := some w } }
     e.sys.wake = some w ∧ e.sys.phase = .waking ∧ e.clk.pll = .acquiring ∧ w.at' + 6250000 = e.time.now) := by decide

theorem witness_aonClockIsMeasured :
    (run.clk.pll = .locked ∧ run.clk.x32Ok = true) ∧ ({ run with clk := { run.clk with x32Ok := false } } : Engine).clk.x32Ok = false := by
  decide

/-- With and without the last epoch. -/
theorem witness_timeBaseWrapCountsTheEpoch :
    (let e : Engine := { run with time := { run.time with wrapDue := true }, regs := regs [(R.TB_EPOCH, 65535#32)] }
     e.time.wrapDue = true ∧ e.rf R.TB_EPOCH 0 16 = 65535) ∧
    (let e : Engine := { run with time := { run.time with wrapDue := true } }
     e.time.wrapDue = true ∧ e.rf R.TB_EPOCH 0 16 ≠ 65535) := by decide

/-- The first edge, and further ones in both modes at the sum's two lengths. -/
theorem witness_slackWaterStepAdvancesTheTimeBase :
    (let e : Engine := { doze with time := { doze.time with counting := true } }
     e.time.coasting = true ∧ e.time.counting = true) ∧
    (let e : Engine := { doze with time := { doze.time with acc := 263 } }
     e.time.coasting = true ∧ e.time.counting = false ∧ e.sys.mode = .doze ∧ e.time.acc + 249 = 512) ∧
    (let e : Engine := { doze with sys := { doze.sys with mode := .measure } }
     e.time.coasting = true ∧ e.time.counting = false ∧ e.sys.mode ≠ .doze ∧ e.time.acc + 249 < 512) := by decide

/-- The error fits, does not fit, or was not valid. -/
def resumes (valid : Bool) (advance : Nat) : Engine :=
  { waking with
    clk := { waking.clk with pll := .locked }
    time := { waking.time with validEntry := valid, errEntry := 5#32, advance := advance } }

theorem witness_coarseCountResumes :
    (∀ e ∈ [resumes true 1000000000, resumes true (10 ^ 18), resumes false 0],
      e.sys.wake = some ⟨.doze, .measure, 1000, false, true, false⟩ ∧ e.sys.phase = .waking ∧ e.clk.pll ≠ .acquiring) ∧
    roundDiv (((resumes true 1000000000).time.advance : Int) * (5#32).toInt) 1000000000 = 5 ∧
    (2 ^ 31 : Int) ≤ roundDiv (((resumes true (10 ^ 18)).time.advance : Int) * (5#32).toInt) 1000000000 := by decide

/-- Compare channel 3, due now or some cycles ago. -/
def comparing (late : Nat) (periodic : Bool) : Engine :=
  { run with
    time := { run.time with chans := run.time.chans.set 3 { val := run.time.tb - BitVec.ofNat 56 late } }
    regs := regs [(R.TB_CMP_EN, 8#32), (win R.TB_CMP_HI 3, if periodic then 0x80000000#32 else 0#32)] }

theorem witness_compareChannelFires :
    ∀ x ∈ [(comparing 0 false, 0), (comparing 7 true, 7)],
      x.1.time.chans[3]? = some { val := run.time.tb - BitVec.ofNat 56 x.2 } ∧ x.1.time.counting = true ∧
      x.1.sys.mode.isSleep = false ∧ x.1.sys.trans = none ∧ x.1.rb R.TB_CMP_EN 3 = true ∧
      (x.1.time.tb - (run.time.tb - BitVec.ofNat 56 x.2)).toNat = x.2 ∧ x.1.cyc.fires.getLsbD 3 = false ∧
      x.1.cyc.fresh.getLsbD 3 = false := by decide

/-- MEASURE in a boundary cycle, its work done or not. -/
def atEdge (done : Bool) : Engine :=
  { run with time := { run.time with tb := 0x123456000#56 }, cyc := { boundary := done } }

theorem witness_tideBoundaryTakesTheStore :
    let e := atEdge false
    e.time.counting = true ∧ e.time.tb.toNat % 2 ^ e.tideN = 0 ∧ e.cyc.boundary = false ∧ e.sys.phase = .run ∧
      e.sys.mode.isSleep = false := by decide

/-! Modes, power and resets. -/

theorem witness_rejectedRequestChangesNoMode :
    let e : Engine := { run with sys := { run.sys with req := some (5, .capture) } }
    e.sys.req = some (5, .capture) ∧ e.modeReason e.sys.mode .capture ≠ 0 := by decide

/-- Transitions into UNLOAD, ARMED, CAPTURE, DOZE and HIBERNATE. -/
def moving (src tgt : Mode) : Engine :=
  { atEdge true with
    sys := { run.sys with mode := src, modeReg := src, target := tgt, trans := some ⟨src, tgt, 3, false⟩, transTides := 1 } }

theorem witness_modeTransitionCompletes :
    ∀ x ∈ [(Mode.measure, Mode.unload), (.measure, .armed), (.armed, .capture), (.measure, .doze), (.measure, .hibernate)],
      let e := moving x.1 x.2
      e.sys.trans = some ⟨x.1, x.2, 3, false⟩ ∧ e.atBoundary = true ∧ e.cyc.boundary = true ∧ 1 ≤ e.sys.transTides ∧
        e.transReady ⟨x.1, x.2, 3, false⟩ = true := by decide

/-- The rails on their way up, and all up with PG_IN low. -/
def rising (l : List RailStep) : Engine := { sys := { phase := .railsUp }, pwr := { enCore := true, steps := l } }
def railed (p : Phase) : Engine := { sys := { phase := p }, pwr := { enCore := true, enMem := true, enAna := true } }

theorem witness_railsRiseAndPowerGood :
    (rising [⟨.ana, true, 4⟩]).pwr.steps = [⟨.ana, true, 4⟩] ∧
    (let e := railed .waitPg
     e.pwr.enCore = true ∧ e.pwr.enMem = true ∧ e.pwr.enAna = true ∧ e.pwr.steps = [] ∧ e.pwr.pgIn = false) := by decide

theorem witness_bootCompletes :
    ((railed .boot).sys.phase = .boot ∧ (railed .boot).sys.wake = none) ∧
    (let e : Engine := { railed .boot with sys := { phase := .boot, wake := some ⟨.hibernate, .measure, 7, true, false, false⟩ } }
     e.sys.phase = .boot ∧ e.sys.wake = some ⟨.hibernate, .measure, 7, true, false, false⟩) := by decide

/-- PG_IN falls after it has risen; it has not risen by the deadline. -/
theorem witness_powerGoodFails :
    (run.pwr.enCore = true ∧ run.pwr.enMem = true ∧ run.pwr.enAna = true ∧ run.pwr.steps = [] ∧ run.pwr.pgRisen = true) ∧
    (let e := railed .waitPg
     e.pwr.enCore = true ∧ e.pwr.enMem = true ∧ e.pwr.enAna = true ∧ e.pwr.steps = [] ∧ e.pwr.pgRisen = false ∧
       e.pwr.pgIn = false ∧ e.rf R.PWR_SEQ 24 8 ≤ 16) := by decide

theorem witness_resetPins : State.reset.eng.sys.phase = .resetHeld := by decide

/-- An edge that the selection leaves out; one that wakes; the alarm at its very period. -/
theorem witness_wakeSourcesAreRecognised :
    (run.sys.wakeIn ≠ true ∧ true = ({ run with regs := regs [(R.SYS_WAKE_EN, 0x80#32)] } : Engine).rb R.SYS_WAKE_EN 7) ∧
    (let e : Engine := { doze with regs := regs [(R.SYS_WAKE_EN, 8#32)] }
     e.sys.wakeIn ≠ true ∧ true ≠ e.rb R.SYS_WAKE_EN 7 ∧ e.sys.mode = .doze ∧ e.rb R.SYS_WAKE_EN 3 = true ∧ e.sys.wake = none) ∧
    (let e : Engine := { doze with regs := regs [(R.SYS_WAKE_EN, 0x10#32), (R.SYS_AON_ALARM, 70#32)] }
     e.time.coasting = true ∧ e.rd R.SYS_AON_ALARM ≠ 0#32 ∧ (e.rd R.SYS_AON_ALARM).toNat = e.time.slackLen ∧
       e.sys.mode = .doze ∧ e.rb R.SYS_WAKE_EN 4 = true ∧ e.sys.wake = none) := by decide

theorem witness_softwareResets :
    ((st run).ready .f0 = true ∧ run.sys.trans = none ∧ run.sys.wake = none ∧ run.sys.modeReg = .measure) ∧
    (coreKeeps R.SYS_WAKE_EN = true ∧ coreKeeps R.TB_CTL = false ∧ cliffResets (R.FEn_CTL 0) = true) ∧
    ((0#16 : BitVec 16) ≠ 0xA55A#16) ∧
    (let s := st { run with sys := { run.sys with modeReg := .armed, trans := some ⟨.measure, .armed, 3, false⟩ } }
     s.ready .f0 = true ∧ (s.eng.arrivesAt .f0).busy = true ∧ s.eng.sys.modeReg ≠ .measure ∧ s.eng.sys.modeReg ≠ .unload) := by decide

theorem witness_resetsAndWakesEnd :
    (let e : Engine := { run with sys := { run.sys with phase := .coreReset } }
     e.sys.phase = .coreReset ∧ e.host.held = []) ∧
    (∀ b ∈ [Blk.i2cp, .mem, .job], (blkIn run (blkIx b) .waking).pwr.blks[blkIx b]? = some { st := .waking, start := 1000 } ∧
      run.behindFault (blkIx b) = false) ∧
    run.hinge.s.st ≠ .fault ∧ ({ run with hinge := { s := { st := .fault } } } : Engine).behindFault (blkIx .mem) = true := by decide


/-! Lanes, pods, timing inputs. -/

theorem witness_glitchFilterDelays : (0 ≤ 0 ∧ 63 ≤ 63) ∧ 62 < 63 ∧ (true = true ∨ 5 = 0) ∧ (false = true ∨ 0 = 0) := by decide

theorem witness_transitionTable : Mode.unload.isSleep = false := by decide

/-- Lane 1 runs and its slot is READY; channel 2 is as given, last evaluated before cycle evalTo. -/
def laned (c : ChanSt) (evalTo : Nat) : Engine :=
  { run with
    regs := regs [(R.FEn_CTL 1, 0xC0#32)]
    pods := run.pods.set 1 { st := .ready }
    lanes := run.lanes.set 1 { running := true, evalTo := evalTo, chans := (List.replicate 14 {}).set 2 c } }

theorem witness_rangeAndAmbiguityConditions :
    (let e := laned { beyond := 4 } 20000000
     e.chanLive 1 2 = true ∧ (e.chan 1 2).rg = false ∧ 4 ≤ (e.chan 1 2).beyond ∧ (e.lane 1).evalTo ≤ e.time.now) ∧
    (let e := laned { rg := true, within := 16 } 20000000
     (e.chan 1 2).rg = true ∧ 16 ≤ (e.chan 1 2).within ∧ (e.lane 1).evalTo ≤ e.time.now) := by decide

theorem witness_ambiguityBegins :
    let e := laned { rep := 1, t := 65 } 20000001
    e.chanLive 1 2 = true ∧ (e.chan 1 2).ep = false ∧ (e.chanCfg 1 2).len ≠ 0 ∧ (e.chanCfg 1 2).swap = false ∧
      (e.chanCfg 1 2).len + 1 = (e.chan 1 2).t ∧
      (e.chan 1 2).rep = 1 ∧ (e.lane 1).evalTo = e.time.now + 1 := by decide

theorem witness_ambiguityEnds :
    let e := laned { ep := true } 20000001
    (e.chan 1 2).ep = true ∧ (e.chan 1 2).rep ≠ 1 ∧ (e.lane 1).evalTo = e.time.now + 1 := by decide

/-- A frame of lane 1, and the same one damaged. -/
def laneFrame (crc : Bool) : Frame := ⟨.lane 1 (List.replicate 14 [0]), true, crc, 9#4⟩

theorem witness_laneFrames :
    let e := laned {} 20000000
    (laneFrame true).body = .lane 1 (List.replicate 14 [0]) ∧ (e.lane 1).running = true ∧ e.seq.arm ≤ e.time.now ∧
      (e.lane 1).evalTo ≤ e.time.now ∧ e.hinge.active = false ∧ run.laneDue 1 = false ∧
      ((laneFrame true).arrived = true ∧ e.hinge.c.st ≠ .retrain ∧ Engine.linkDead e.hinge.c = false ∧
        (laneFrame true).cyc = e.time.tb.setWidth 4) ∧
      (laneFrame true).crcOk = true ∧ (laneFrame false).crcOk = false := by decide

theorem witness_podSwitchesAreDebounced :
    (let e : Engine := { run with regs := regs [(R.POD_CTL, 0#32)] }
     e.pwr.vddIo = true ∧ (e.pod 1).pres ≠ true ∧ e.rb R.POD_CTL 9 = false ∧ (e.pod 1).attn ≠ true ∧
      e.rf R.POD_TIM 16 16 ≤ 656 ∧ e.rb R.POD_CTL 13 = false) ∧
    (let e : Engine := { doze with regs := regs [(R.POD_CTL, 0x2200#32), (R.SYS_WAKE_EN, 6#32)] }
     e.rb R.POD_CTL 9 = true ∧ e.rb R.POD_CTL 13 = true ∧ e.sys.mode = .doze ∧ e.rb R.SYS_WAKE_EN 1 = true ∧
       e.rb R.SYS_WAKE_EN 2 = true ∧ e.sys.wake = none ∧ (e.pod 1).pres ≠ true ∧ (e.pod 1).attn ≠ true) ∧
    (run.pod 1).pres = false ∧ (run.pod 1).attn = false ∧ (0 < run.rf R.POD_TIM 16 16) := by decide

/-- Slot 1 in a state. -/
def podded (s : PodState) (settle : Nat) : Engine := { run with pods := run.pods.set 1 { st := s, settle := settle } }

theorem witness_podPowerAndReady :
    ((podded .attached 0).access = true ∧ ((podded .attached 0).pod 1).st = .attached ∧ ((podded .fault 0).pod 1).st = .fault ∧
      ((podded .powering 0).pod 1).st = .powering ∧ ((podded .lost 0).pod 1).st = .lost ∧ ((podded .ready 0).pod 1).st = .ready ∧
      run.pen 1 = false) ∧
    (let e : Engine := { podded .powering 300 with regs := regs [(R.POD_TIM, 300#32), (R.I2CP_CTL, 0x100#32)], cyc := { edge := true } }
     e.sys.phase = .run ∧ e.cyc.edge = true ∧ e.sys.mode.isSleep = false ∧ (e.pod 1).st = .powering ∧
       max 1 (e.rf R.POD_TIM 0 16) ≤ (e.pod 1).settle ∧ e.rb R.I2CP_CTL 8 = true) ∧
    ({ podded .powering 300 with regs := regs [(R.I2CP_CTL, 0#32)] } : Engine).rb R.I2CP_CTL 8 = false := by decide

theorem witness_podLossAndFault :
    run.sys.phase = .run ∧ run.sys.mode.isSleep = false ∧ ((podded .ready 0).pod 1).st = .ready ∧
    ((podded .lost 0).pod 1).st = .lost ∧ (podded .ready 0).pen 1 = true := by decide

/-- Slot 1 READY, two list entries of it enabled, a walk under way or not. -/
def walking (w : Option Walk) : Engine :=
  { podded .ready 0 with
    regs := regs [(win R.I2CP_LIST 2, 0xA0000000#32), (win R.I2CP_LIST 5, 0xA2000000#32)]
    pods := (podded .ready 0).pods.set 2 { st := .ready }
    bus := { walk := w, nackAt := 19375000 } }

def walk0 : Walk := { todo := [], slot := 1, item := none, retry := false, visited := 2#4, affected := 0#4 }

theorem witness_censusRequests :
    (doze.access = false ∧ run.access = true ∧ (1#4 : BitVec 4) ≠ 0#4) ∧
    ({ run with regs := regs [(pwrctlKey 0x08, 0x20010#32)] } : Engine).policy 0x08 = 2 ∧
    (run.policy 0x08 ≠ 2 ∧ (blkIn run 0 .off).isOn 0 = false) ∧
    (let e := walking none
     e.access = true ∧ e.policy 0x08 ≠ 2 ∧ e.bus.walk = none ∧ e.isOn 0 = true ∧ e.bus.queued = 0#4 ∧ e.podOk 1 = true ∧
       e.bus.needRecover = false) ∧
    (walking (some walk0)).bus.walk.isSome = true ∧
    (let e : Engine := { walking none with bus := { needRecover := true } }
     e.bus.walk = none ∧ e.bus.queued = 0#4 ∧ e.bus.needRecover = true) := by decide

/-- An ID header that passes. -/
def idBytes : List Byte :=
  let b := [0x4B#8, 0x50#8, 1#8, 14#8, 7#8, 1#8, 2#8, 3#8, 4#8, 5#8, 6#8, 7#8] ++ List.replicate 18 0#8
  b ++ bytesOfNat 2 (crc16 b).toNat

theorem witness_censusTransactionsAndBusFaults :
    (let e := walking (some walk0)
     e.bus.walk = some walk0 ∧ e.isOn 0 = true ∧ e.bus.recovering = false ∧ walk0.retry = false ∧ walk0.item = none ∧
       Engine.headerOk idBytes = true ∧ e.nextEntry walk0.slot 0 = some 2) ∧
    (let w := { walk0 with item := some 2 }
     let e := walking (some w)
     w.retry = false ∧ w.item = some 2 ∧ [1#8].length = e.rf (win R.I2CP_LIST 2) 24 2 + 1 ∧ e.nextEntry w.slot 3 = some 5) ∧
    (let w := { walk0 with item := some 2, retry := true }
     let e := walking (some w)
     w.retry = true ∧ e.bus.nackAt + 625000 = e.time.now ∧ w.item = some 2 ∧ e.nextEntry w.slot 3 = some 5) := by decide +kernel

/-- The bus is stuck since t: a slot is left to visit. -/
def stuck (t : Nat) (scl : Bool) : Engine :=
  { walking none with bus := { walk := some { walk0 with todo := [2] }, recovering := true, stuckAt := t, stuckScl := scl } }

theorem witness_censusTransactionsAndBusFaults_stuck :
    (let e := stuck 4375000 false
     e.bus.walk = some { walk0 with todo := [2] } ∧ e.isOn 0 = true ∧ e.bus.recovering = true ∧ e.podOk 2 = true ∧
       walk0.starting = false ∧ e.time.now = e.bus.stuckAt + 15625000) ∧
    ((stuck 4374999 false).bus.stuckAt + 15625000 < (stuck 4374999 false).time.now) ∧
    ((stuck 13750000 true).bus.stuckScl = true ∧ (stuck 13750000 true).bus.stuckAt + 6250000 = (stuck 13750000 true).time.now) ∧
    ((stuck 4375001 false).time.now < (stuck 4375001 false).bus.stuckAt + 15625000) ∧
    (run.bus.walk = none ∧ (blkIn run 0 .off).isOn 0 = false) := by decide

/-- Timing input 2 enabled for both slopes; its state, and a start of unit 1 so many 1/256 cycles ago. -/
def timed (t : Tin) (start : Option (BitVec 64)) : Engine :=
  { run with
    regs := regs [(R.TDC_TIN0 + 8, 0xB8000000#32), (R.TDC_CTL, 0#32), (win R.TDC_D_TMO 1, 10#32)]
    tdc := { run.tdc with tins := run.tdc.tins.set 2 t, units := run.tdc.units.set 1 { start := start } } }

/-- A rising crossing of input 2 in this cycle at tap 7. -/
def cap2 : TinCap := ⟨2, 50000000, run.time.tb, 7#8⟩

theorem witness_timingInputs :
    run.tinRuns cap2.input = false ∧
    (let e := timed { running := true } none
     e.tdc.tins[2]? = some { running := true } ∧ e.tinRuns 2 = true ∧ e.isOn 5 = true ∧ (e.tin 2).level = false ∧
       e.tinThr 2 + tinHalf (e.rf (R.TDC_TIN0 + 8) 24 2) < cap2.nv ∧ e.slopeHas 2 true = true ∧ e.rb R.TDC_CTL 10 = false ∧
       (0 : Int) ≤ e.tinThr 2 + tinHalf (e.rf (R.TDC_TIN0 + 8) 24 2) ∧
       (∀ k, k < 4 → e.unitCfg k 31 1 = 0 ∧ (e.unit k).start = none) ∧ e.timingDue = true) ∧
    (let e := blkIn (timed { running := true } none) 5 .waking
     e.tdc.tins[2]? = some { running := true } ∧ e.tinRuns 2 = true ∧ e.isOn 5 = false ∧ e.timingDue = false) := by decide

/-- Its last edge lies 400 or 399 units of the stamp before. -/
theorem witness_timingInputs_close (x : BitVec 64) :
    (timed { running := true, last := some (x - 399#64) } none).tdc.tins[2]? = some { running := true, last := some (x - 399#64) } ∧
    (x - (x - 400#64)).toNat = 400 ∧ (x - (x - 399#64)).toNat < 400 := by
  refine ⟨rfl, ?_, ?_⟩ <;> bv_omega

theorem witness_tdcTimeoutAndTrip :
    (let e := timed {} (some (BitVec.ofNat 64 ((run.time.tb.toNat - 10) * 256)))
     (e.unit 1).start = some (BitVec.ofNat 64 ((run.time.tb.toNat - 10) * 256)) ∧
       (e.rd (win R.TDC_D_TMO 1)).toNat =
         (e.time.tb - Engine.coarseOf (BitVec.ofNat 64 ((run.time.tb.toNat - 10) * 256))).toNat) ∧
    (let e := timed {} none
     e.rb (R.TDC_TIN0 + 8) 27 = true ∧ (e.tin 2).trip = false ∧ e.pwr.enAna = true ∧ e.sys.phase = .run ∧
       (3000000000 : Int) < 3000000001) := by decide


/-! The sequencer, staging, Shoal, the event queue. -/

/-- ARMED or CAPTURE, with the sequencer as given. -/
def running (m : Mode) (q : SeqBlk) (l : List (Nat × Word)) : Engine :=
  { run with
    regs := regs l
    sys := { run.sys with mode := m, modeReg := m, target := m }
    seq := { q with running := true, arm := 19999000, next := 19999994 }
    recb := { run.recb with running := true } }

/-- No branch enabled; the first branch without a condition fires. -/
def idleLevel : Engine := running .armed {} []
def firing : Engine :=
  running .armed {} [(win R.SEQL_COND_A 0, 0x87EFDFBF#32), (win R.SEQL_ACT_A 0, 0x08000000#32)]

theorem witness_sequencerDecides :
    (∀ e ∈ [idleLevel, firing], e.seq.running = true ∧ e.isOn 7 = true ∧ e.seq.arm + 6 ≤ e.time.now ∧
      e.seq.next ≤ e.time.now - 6) ∧
    (∀ b, b < 4 → idleLevel.rb (idleLevel.condKey b) 31 = false) ∧
    (firing.rb (firing.condKey 0) 31 = true ∧ firing.rb (firing.condKey 0) 29 = false ∧
      (∀ k, k < 4 → firing.rf (firing.condKey 0) (7 * k) 6 = 0x3F) ∧ firing.occOf 0 = 1 ∧ firing.seq.cnt[0]? = some 0 ∧
      firing.rb (firing.actKey 0) 27 = true ∧ firing.seq.preHold = false ∧ firing.seq.fired = false) := by decide +kernel

theorem witness_sequencerTimersPinsAndUserMarks :
    (let e := running .armed { tm := [19999993, 0, 0, 0], pre := 1000, pulses := [(5, 20000000)] } [(R.SEQ_TMLIM0, 1#32)]
     e.seq.running = true ∧ e.seq.tmSeen.getLsbD 0 = false ∧
       (max (e.rd R.SEQ_TMLIM0).toNat 1 : Nat) ≤ (e.seq.next : Int) - e.seq.tm.getD 0 0 ∧
       e.seq.arm + e.seq.pre = e.time.now ∧ e.seq.pulses = [(5, e.time.now)]) ∧
    run.seq.running = false ∧ (∀ p ∈ [Port.f0, .f1], (st run).ready p = true) ∧
    (Port.f0 ≠ .f1 ∧ mapBits 5 (fun i => Nat.testBit 3 i && (run.stream i).on) = 0) ∧
    (let e : Engine := { run with recb := { run.recb with streams := List.replicate 5 { on := true } } }
     (st e).ready .f0 = true ∧ mapBits 5 (fun i => Nat.testBit 3 i && (e.stream i).on) ≠ 0) := by decide

/-- The word after the post-trigger count has been decided, for each mode that may follow. -/
def stopping (v : Word) : Engine := running .capture { fired := true, trigAt := some 19999990, post := 3 } [(R.SYS_MODE_REQ, v)]

theorem witness_postTriggerCountStopsTheRun :
    ((stopping 0#32).seq.trigAt = some 19999990 ∧ (stopping 0#32).seq.running = true ∧ (stopping 0#32).seq.fired = true ∧
      (stopping 0#32).sys.ending = none ∧ (stopping 0#32).recb.running = true ∧ (stopping 0#32).seq.post = 3 ∧ (stopping 0#32).seq.next = 19999994) ∧
    (stopping 0x04#32).rf R.SYS_MODE_REQ 4 2 = 0 ∧ (stopping 0x14#32).rf R.SYS_MODE_REQ 4 2 = 1 := by decide

/-- ARMED after CAPTURE, with the sequencer's policy AUTO and OFF; no count; the last word just not decided. -/
theorem witness_postTriggerCountStopsTheRun_rearm :
    (stopping 0x24#32).rf R.SYS_MODE_REQ 4 2 = 2 ∧ (stopping 0x24#32).rearmReason = 0 ∧
    (running .capture { fired := true, trigAt := some 19999990, post := 3 }
      [(R.SYS_MODE_REQ, 0x24#32), (pwrctlKey 0x18, 0x20000#32)]).rearmReason ≠ 0 ∧
    (running .capture { fired := true } []).seq.post = 0 ∧
    (running .capture { fired := true, trigAt := some 19999990, post := 4 } []).seq.next ≤ 19999990 + 4 := by decide

/-- A block of a stream with n payload bytes; the same one held in a bank of staging. -/
def block (s n : Nat) : Block :=
  { stream := s, count := 3, plen := n, firstT := 5#56, body := (List.range (n + 4)).map (BitVec.ofNat 8), stored := false }
def held (bank : Bool) : SBlk := { blk := block 1 4, bank := bank, start := 0, resv := 4, arr := 1000 }

def staging (g : StgBlk) (w : List Block) : Engine := { run with stg := g, recb := { run.recb with waiting := w } }

theorem witness_stagingTakesBlocks :
    ((blkIn (staging {} [block 1 4]) 12 .off).isOn 12 = false ∧ (blkIn (staging {} [block 1 4]) 12 .off).arrival.isSome = true ∧
      (blkIn run 12 .off).arrival = none) ∧
    (let e := staging { wp := 4063 } [block 1 4]
     e.isOn 12 = true ∧ e.liveOpening = none ∧ e.recb.waiting = [block 1 4] ∧ e.stgWriting = false ∧
       e.hinge.active = false ∧ e.stg.sealed = false ∧ e.stg.wp + Engine.blkWords (block 1 4) = 4066) ∧
    (let e := staging { busyTo := 20000001 } [block 1 4]
     e.isOn 12 = true ∧ e.liveOpening = none ∧ e.stgWriting = true) ∧
    (let e := staging { wp := 4064, blks := [held false] } [block 1 4]
     e.stgWriting = false ∧ e.liveOpening = none ∧ 4066 < e.stg.wp + Engine.blkWords (block 1 4) ∧ e.dEmpty = true) ∧
    (let e := staging { wp := 4064, blks := [held true] } [block 1 4]
     e.stgWriting = false ∧ 4066 < e.stg.wp + Engine.blkWords (block 1 4) ∧ e.dEmpty = false ∧
       e.stg.eps[(block 1 4).stream]? = some none) ∧
    (let e := staging { blks := [held false] } []
     e.dEmpty = true ∧ e.stgWriting = false ∧ ∃ b ∈ e.stg.blks, b.bank = e.stg.fill) := by decide

/-- A word may be delivered; the block has to wait; MEM does not serve; the live block. -/
def delivering (b : SBlk) : Engine := { staging { blks := [b] } [] with regs := regs [(R.STG_CTL, 0#32)] }

theorem witness_stagingDeliversInOrder :
    (run.readPos = none) ∧
    (let e := delivering (held true)
     e.isOn 12 = true ∧ e.cyc.delivered < 2 ∧ e.readPos = some 0 ∧ e.stg.blks[0]? = some (held true) ∧
       (held true).blk.live = false ∧ e.wordReady (held true) = true ∧ e.memServes = true ∧
       ((held true).bad.find? fun p => p.1 == Engine.wordOffset (held true)) = none ∧
       (blkIn e 13 .off).memServes = false) ∧
    (let b := { held true with arr := 20000000 }
     (delivering b).readPos = some 0 ∧ (delivering b).wordReady b = false) ∧
    doze.access = false ∧
    (let b := { held true with blk := { block 1 4 with live := true }, deliv := 1 }
     let e := delivering b
     e.access = true ∧ e.readPos = some 0 ∧ e.stg.blks[0]? = some b ∧ b.blk.live = true ∧ b.deliv ≠ 0 ∧
       e.liveSlot b.blk.stream = none) := by decide +kernel

/-- A block on its way to Shoal, to a stream's region in units of 64 KiB. -/
def placing (region : Word) (wptr : Nat) : Engine :=
  { run with
    stg := { toPlace := [block 1 8] }
    recb := { run.recb with lay := List.replicate 5 (region, 0x00010001#32, 0x100#32) }
    mem := { run.mem with streams := run.mem.streams.set 1 { wptr := wptr } } }

/-- The block fits at the last unit; it does not; the region lies at the end of Shoal or past it. -/
theorem witness_blockPlacementWritesBlockAndEntry :
    run.stg.toPlace = [] ∧ (blkIn (placing 0x00100020#32 0) 13 .off).memServes = false ∧
    (∀ w ∈ [16383, 16384],
      let e := placing 0x00100020#32 w
      e.stg.toPlace = [block 1 8] ∧ e.memServes = true ∧ e.hinge.active = false ∧ e.recb.running = false ∧
        e.ringOf (block 1 8) = some ({ wptr := w }, { base := 32768, units := 16384, ring := 4096, dirAt := 16842752 }) ∧
        (block 1 8).run = (e.memS 1).run ∧ e.mem.streams[1]? = some { wptr := w }) ∧
    ({ placing 0x00100020#32 0 with stg := { toPlace := [{ block 1 8 with run := 7 }] } } : Engine).ringOf { block 1 8 with run := 7 } = none ∧
    (16384 + (16 + 12 + 63) / 64 = 16385 ∧ (32768 + 16383) * 64 + 32 ≤ 16842752) ∧
    (let e := placing 0x00103FFF#32 16383
     e.ringOf (block 1 8) = some ({ wptr := 16383 }, { base := 16776192, units := 16384, ring := 4096, dirAt := 16842752 }) ∧
       2 ^ 30 < (16776192 + 16383) * 64 + 32) := by decide

/-- One live block of stream 1 of two lines: the next line, the last line of the pass. -/
def scrubbing (ext line : Nat) : Engine :=
  { run with
    regs := regs [(R.MEM_CTL, 0x10001#32)]
    recb := { run.recb with lay := List.replicate 5 (0x00100020#32, 0x00010001#32, 0x100#32) }
    mem := { run.mem with
      scrubExt := ext, scrubLine := line, streams := run.mem.streams.set 1 { live := [⟨5, 32768, 2, 0#56, 5, false⟩] } } }

theorem witness_scrubChecksTheNextLine :
    ({ run with regs := regs [(R.MEM_CTL, 0#32)] } : Engine).rb R.MEM_CTL 0 = false ∧
    (let e := scrubbing 0 0
     e.rb R.MEM_CTL 0 = true ∧ e.memServes = true ∧ e.mem.scrubUsed + 1 = e.rf R.MEM_CTL 16 8 ∧
       (st e).shoal.bad = [] ∧ e.scrubNext e.mem.scrubExt e.mem.scrubLine = some (1, 0) ∧ e.scrubNext 1 1 = some (1, 1) ∧
       e.scrubByte 1 0 / 8 + 7 < 2 ^ 27) ∧
    (let e := scrubbing 5 0
     e.scrubNext e.mem.scrubExt e.mem.scrubLine = some (5, 263169) ∧ e.scrubNext 5 263170 = none) := by decide

def entry (c : Nat) : Entry := { bits := 7#64, cls := c, badHi := false, badLo := false }

theorem witness_eventsAreReadByClass :
    (let q : EvQueue := { entries := [entry 2, entry 1, entry 1], visible := 3 }
     State.evqFirst q = some 1 ∧ q.entries[1]? = some (entry 1) ∧ (entry 1).badHi = false ∧ (entry 1).badLo = false) ∧
    State.evqFirst {} = none ∧ (∀ p ∈ [Port.f1, .i2c], (st run).ready p = true) ∧ Port.i2c ≠ .f1 ∧
    (((List.range 32).filter fun k => (4#32).getLsbD k).length % 2 = 1 ∧ ((List.range 32).filter fun k => (0#32).getLsbD k).length % 2 = 0) ∧
    (({ entries := [], lostSince := 1 } : EvQueue).lostSince ≠ 0 ∧ run.hinge.active = false) := by decide


/-! Jobs and the host port. -/

/-- The link is up; both functions take memory requests and may issue them. -/
def hosted (l : List (Nat × Word)) : Engine :=
  { run with
    host := { up := true, speed := 1, width := 2, pm := .l0, clkreq := true, credits := 8, peer := 3 }
    pwr := { run.pwr with perst := false }
    regs := regs ([(cfgKey 0 0x04, 0x100106#32), (cfgKey 1 0x04, 0x100106#32)] ++ l) }

/-- Entries 5 and 6 are being fetched under tag 3; the read was made n cycles ago. -/
def jobRead (n : Nat) : JobRead := { tag := 3, first := 5, n := 2, at' := 20000000 - n }
def fetching (n : Nat) (l : List (Nat × Word)) : Engine :=
  { hosted l with
    job := { head := 5, tail := 7, reads := [jobRead n]
             ents := (run.job.ents.set 5 { inRead := true }).set 6 { inRead := true } } }

theorem witness_hostCompletions :
    ((hosted []).job.reads.find? (fun r => r.tag == 3 && !r.late) = none) ∧
    (let e := fetching 15000000 []
     e.job.reads.find? (fun r => r.tag == 3 && !r.late) = some (jobRead 15000000) ∧ (jobRead 15000000).frozen = false ∧
       8 * (jobRead 15000000).n = ((jobRead 15000000).got ++ List.replicate 16 0#32).length ∧
       (e.ent 5).inRead = true ∧ (e.ent 5).cancel = false ∧ (e.ent 5).ended = none ∧ e.host.bw = .opened ∧
       e.timeoutOf = some 15000000 ∧ e.rb R.HOST_BW_CTL 0 = false ∧ e.rb R.HOST_BW_CTL 1 = false) ∧
    (let e := fetching 14999999 [(R.HOST_BW_CTL, 3#32)]
     e.timeoutOf = some 15000000 ∧ e.rb R.HOST_BW_CTL 0 = true ∧ e.rb R.HOST_BW_CTL 1 = true ∧
       20000000 - 14999999 + 15000000 = 20000001) ∧
    (let e : Engine := { fetching 1 [] with job := { (fetching 1 []).job with reads := [{ jobRead 1 with frozen := true }] } }
     e.job.reads.find? (fun r => r.tag == 3 && !r.late) = some { jobRead 1 with frozen := true }) := by decide

/-- A job in slot 2 with its ring entry 5, Shoal holding some bytes, and blocks that wait for the decompressor. -/
def slotted (sl : JobSlot) (m : List (Nat × Byte)) (q : List DecIn) : State :=
  { eng := { hosted [] with
      host := { (hosted []).host with ltrAct := true }
      job := { head := 5, tail := 6, slots := run.job.slots.set 2 sl, decQ := q
               ents := run.job.ents.set 5 { st := .active, desc := [0#32, 0#32, 0#32, 0#32, 0#32, 0#32, 4096#32, 0#32] } } }
    shoal := { mem := m } }

def sl0 : JobSlot :=
  { busy := true, ring := 5, opcode := 1, stream := 1, stage := .entry, left := 2, ringE := 4, dirAt := 64, regLo := 0, regHi := 100 }

/-- A directory entry's bytes at address 64: its first word, the entry's time, stream 1, three items. -/
def entryAt64 (w0 : Word) : List (Nat × Byte) :=
  ([w0, 5#32, 0#32, 0x2003#32].flatMap bytesOfWord).zipIdx.map fun x => (64 + x.2, x.1)

/-- The entry is good, and one with no length is bad. -/
theorem witness_entryReads :
    (let s := slotted sl0 (entryAt64 0x01000002#32) []
     s.eng.memServes = true ∧ s.eng.slotAt 2 .entry = true ∧ s.eng.slotAt 2 .block = false ∧
       sl0.dirAt + 16 * sl0.entIdx + 16 ≤ 2 ^ 30 ∧ s.shoal.badIn 64 16 = [] ∧
       Engine.badEntry sl0 (Engine.wordsOf (s.shoal.bytes 64 16)) false = false ∧ sl0.opcode ≠ 3 ∧ sl0.opcode ≠ 5 ∧
       sl0.made + Engine.entNeeds sl0.opcode (Engine.wordsOf (s.shoal.bytes 64 16)) ≤ s.eng.dstLen sl0.ring) ∧
    (let s := slotted sl0 (entryAt64 2#32) []
     s.shoal.badIn 64 16 = [] ∧ Engine.badEntry sl0 (Engine.wordsOf (s.shoal.bytes 64 16)) false = true ∧ 1 < sl0.left ∧
       sl0.code = 0) ∧
    (2 ^ 30 < 2 ^ 30 - 15 + 16 ∧
      (slotted { sl0 with dirAt := 2 ^ 30 - 15 } [] []).eng.slotAt 2 .entry = true) ∧
    (let e := blkIn (slotted sl0 [] []).eng 13 .off
     e.memServes = false ∧ e.slotAt 2 .entry = true) := by decide +kernel

/-- The block at unit 2 of Shoal, and one that would end a unit past it. -/
theorem witness_blockReads :
    (let t := { sl0 with opcode := 2, stage := .block, ent := [0x01000002#32, 5#32, 0#32, 0x2003#32] }
     let s := slotted t [] []
     s.eng.slotAt 2 .block = true ∧ t.ent[0]? = some 0x01000002#32 ∧ fld 0x01000002#32 0 24 * 64 + fld 0x01000002#32 24 8 * 64 = 192 ∧
       s.shoal.badIn 128 64 = [] ∧ t.opcode ≠ 1 ∧ (blkIn s.eng 13 .off).memServes = false ∧
       (blkIn s.eng 13 .off).slotAt 2 .block = true) ∧
    (let t := { sl0 with opcode := 2, stage := .block, ent := [0x02FFFFFF#32] }
     (slotted t [] []).eng.slotAt 2 .block = true ∧ 2 ^ 30 < fld 0x02FFFFFF#32 0 24 * 64 + fld 0x02FFFFFF#32 24 8 * 64) := by
  decide +kernel

/-- The worked block of 09 waits for the decompressor, with another entry to come and as the last one. -/
def decoding (left : Nat) : State :=
  slotted { sl0 with opcode := 3, stage := .decode, stream := 2, left := left } [] [⟨2, blockBytes workedBlock, some 2, false, none⟩]

theorem witness_decodes :
    run.job.decQ = [] ∧
    (∀ n ∈ [1, 2], (decoding n).eng.job.decQ = [⟨2, blockBytes workedBlock, some 2, false, none⟩] ∧
      (decoding n).eng.slotLive 2 = true ∧ (decoding n).eng.isOn 11 = true ∧ ((decoding n).eng.slot 2).opcode = 3 ∧
      ((decoding n).eng.slot 2).left = n ∧ ((decoding n).eng.slot 2).ring < (decoding n).eng.job.ents.length) ∧
    (checkBlock (blockBytes workedBlock) none).faults = [] ∧ (blkIn (decoding 1).eng 11 .off).isOn 11 = false ∧
    (slotted { sl0 with frozen := true } [] [⟨2, [], some 2, false, none⟩]).eng.slotLive 2 = false := by decide +kernel

/-- Entry 5 has ended; the oldest entry is 4. Two writes wait for credits. -/
def ending (credits : Nat) (out : List OutWr) : Engine :=
  { hosted [] with
    host := { (hosted []).host with credits := credits }
    job := { head := 4, tail := 7, outQ := out, ents := run.job.ents.set 5 { ended := some (4, 0) } } }

theorem witness_jobsEndAndPortOpens :
    (let e := ending 1 []
     e.wbReady 5 = true ∧ (e.ent 5).ended = some (4, 0) ∧ e.host.bw = .opened ∧ e.job.head % 64 ≠ 5 ∧
       (e.ent (e.job.head % 64)).wb = false ∧ e.job.outQ = []) ∧
    (let e := ending 0 []
     e.wbReady 5 = false ∧ (e.ent 5).ended.isSome = true ∧ (e.ent 5).wb = false ∧ e.canIssue = true ∧ (e.ent 6).ended = none) ∧
    (let w : OutWr := { ring := 5, addr := 4096, bytes := List.replicate 20 1#8, upTo := 20 }
     let e := ending 1 [w, w]
     e.canIssue = true ∧ e.job.outQ = [w, w] ∧ (w.bytes.length + 15) / 16 = e.host.credits + 1 ∧
       ({ run with job := { outQ := [w] } } : Engine).canIssue = false ∧ (∀ x ∈ [w], x.tlp = none)) ∧
    run.canIssue = false ∧ doze.access = false := by decide

theorem witness_breakwaterRelease :
    let e : Engine := { hosted [] with host := { (hosted []).host with bw := .frozen } }
    e.access = true ∧ e.host.bw = .frozen ∧ (∀ x ∈ e.job.slots, x.frozen = false) ∧ (∀ x ∈ e.job.reads, x.frozen = false) ∧
      (∀ j ∈ e.job.ents, j.wb = true ∨ j.ended ≠ some (6, 9)) := by decide

/-- A job in slot 2 that breakwater has frozen. -/
theorem witness_breakwaterRelease_jobs :
    let e : Engine := { hosted [] with
      host := { (hosted []).host with bw := .frozen }
      job := { slots := run.job.slots.set 2 { busy := true, ring := 5, frozen := true } } }
    e.access = true ∧ e.host.bw = .frozen ∧ ({ busy := true, ring := 5, frozen := true } : JobSlot) ∈ e.job.slots ∧
      5 < e.job.ents.length ∧ (e.ent 5).wb = false := by decide

/-- Windows: function 0's registers, function 1's, the aperture, the ROM. -/
def windows : List (Nat × Word) :=
  [(cfgKey 0 0x10, 0x40000004#32), (cfgKey 1 0x10, 0x41000004#32), (cfgKey 0 0x18, 0x5000000C#32), (cfgKey 0 0x30, 0x60000001#32)]

theorem witness_requestsWait :
    run.host.up = false ∧ run.job.outQ = [] ∧
    (let e := (hosted windows).arrives
     (hosted windows).host.up = true ∧ e.portFirst .f0 = true ∧ e.servable .f0 (memReq 0x40000520 1 []) = true) ∧
    (let e := (blkIn (hosted windows) 13 .off).arrives
     e.portFirst .f0 = true ∧ e.servable .f0 (memReq 0x50000000 1 []) = false) ∧
    (let e : Engine := { hosted windows with host := { (hosted []).host with held := [⟨.f0, [], .rom 0 4, 0, none, none⟩] } }
     e.arrives.portFirst .f0 = false) := by decide

/-- A write that waits for credit: what is sent waits behind it, but for a completion with IDO set. -/
theorem witness_requestsWait_order :
    let w : OutWr := { ring := 5, addr := 4096, bytes := [1#8], upTo := 1 }
    let e : Engine := { hosted [] with job := { outQ := [w] } }
    e.job.outQ ≠ [] ∧ e.canIssue = true ∧ Tx.isPci (.completion 1 .success [] false true) = true ∧ Tx.isPci (.pmPme 0) = true := by decide

theorem witness_requestsAreServed :
    let e := (hosted windows).arrives
    e.hit 0x70000000 = .none ∧ e.servable .f0 (memReq 0x70000000 1 []) = true ∧ e.servable .f1 (memReq 0x4100054C 1 []) = true ∧ e.hit 0x40000520 = .regs 0 0x520 ∧ e.hit 0x4100054C = .regs 1 0x54C ∧ e.memOn 0 = true ∧
      e.memOn 1 = true ∧ e.host.bw ≠ .frozen ∧ portHas 0 5 = true ∧ portHas 1 5 = true ∧ isCliff 5 = false ∧
      (∃ r, row? 5 0x20 = some r ∧ r.acc = .rw) ∧ (∃ r, row? 5 0x4C = some r ∧ r.acc = .rw) := by
  refine ⟨by decide, by decide, by decide, by decide, by decide, by decide, by decide, by decide, by decide, by decide, by decide, ?_, ?_⟩
  · exact ⟨⟨0x20, .rw, 0x7#32, 0x5#32⟩, by decide, rfl⟩
  · exact ⟨⟨0x4C, .rw, 0xF#32, 0x0#32⟩, by decide, rfl⟩

theorem witness_aperture :
    (let e := (hosted windows).arrives
     (hosted windows).host.up = true ∧ e.portFirst .f0 = true ∧ e.portOpen .f0 = true ∧ e.memOn 0 = true ∧ e.host.bw ≠ .frozen ∧
       e.policy 0x22 ≠ 2 ∧ Engine.linkDead e.hinge.s = false ∧ e.memServes = true ∧ (2 ^ 28 - 4) + 4 = 2 ^ 28 ∧
       (st e).shoal.badIn (e.rf R.HOST_APER 0 14 * 65536 + (2 ^ 28 - 4)) 4 = [] ∧
       bit (e.cfg 0 0x30) 0 = true ∧ 65532 + 4 = 65536 ∧ (blkIn e 13 .off).memServes = false) ∧
    (hosted [(pwrctlKey 0x22, 0x20010#32)]).policy 0x22 = 2 ∧ bit ((hosted []).cfg 0 0x30) 0 = false ∧
    (hosted [(cfgKey 0 0x04, 0#32)]).memOn 0 = false ∧
    (let e : Engine := { hosted [] with sec := { ports := List.replicate 3 { chal := .checking } } }
     e.arrives.portFirst .f0 = true ∧ e.arrives.portOpen .f0 = false) := by decide +kernel

theorem witness_configurationRequestsAndMessages :
    run.host.up = false ∧ ((hosted []).host.up = true ∧ (hosted []).arrives.portFirst .f0 = true ∧ (hosted []).arrives.portFirst .f1 = true) ∧
    cfgRow? 1 0x60 = some ⟨0x60, 0x3CB#32, 0#32, 0#32⟩ ∧ cfgRow? 0 0x44 ≠ none ∧ cfgRow? 0 0xFFC = none ∧
    (∀ p ∈ (hosted []).cyc.sets, p.1 ≠ cfgKey 1 0x60) ∧
    (cfgReq 1 0x60 (some 3#32)).data = some 3#32 ∧ (cfgReq 1 0x60 none).data = none ∧ ({ cfgReq 0 0 none with type1 := true } : CfgReq).type1 = true ∧
    ({ cfgReq 0 0 none with tlpPrefix := true } : CfgReq).tlpPrefix = true ∧ (∀ x : RxErr, Msg.prefixed ≠ .error x) := by
  refine ⟨rfl, by decide, by decide +kernel, by decide +kernel, by decide +kernel, by decide, rfl, rfl, rfl, rfl, ?_⟩
  intro x h; cases h

theorem witness_hostLinkComesAndGoes :
    run.mayTrain = false ∧ ({ hosted [] with host := {} } : Engine).mayTrain = true ∧
    ((hosted []).host.up = true ∧ (hosted []).host.pm = .l0) ∧ run.host.up = false := by decide

theorem witness_linkPowerStates :
    (let e := hosted [(cfgKey 0 0x60, 3#32), (R.HOST_ASPM, 0x201#32)]
     e.host.pm = .l0 ∧ bit (e.cfg 0 0x60) 0 = true ∧ 8 * e.rf R.HOST_ASPM 0 8 = 8 ∧ e.job.outQ = [] ∧ e.job.reads = [] ∧
       e.host.held = [] ∧ bit (e.cfg 0 0x60) 1 = true ∧ e.rf R.HOST_ASPM 8 8 = 2) ∧
    (let e := hosted [(cfgKey 0 0x44, 3#32), (cfgKey 1 0x44, 3#32), (cfgKey 0 0x1C8, 5#32)]
     fld (e.cfg 0 0x44) 0 2 = 3 ∧ fld (e.cfg 1 0x44) 0 2 = 3 ∧ bit (e.cfg 0 0x1C8) 0 = true ∧ bit (e.cfg 0 0x1C8) 2 = true ∧
       e.ltrAllowsL12 = true) := by decide

theorem witness_linkPowerStates_wakes :
    (let e : Engine := { hosted [(R.SYS_WAKE_EN, 0x40#32)] with sys := doze.sys, host := { (hosted []).host with pm := .l12 } }
     e.host.pm = .l12 ∧ e.sys.mode = .doze ∧ e.rb R.SYS_WAKE_EN 6 = true ∧ e.sys.wake = none) ∧
    (let t : Trans := ⟨.measure, .doze, 3, false⟩
     let e : Engine := { hosted [(R.SYS_WAKE_EN, 0x40#32)] with
       sys := { run.sys with trans := some t }, host := { (hosted []).host with pm := .l11 } }
     e.host.pm = .l11 ∧ e.sys.mode.isSleep = false ∧ e.sys.trans = some t ∧ t.tgt = .doze ∧ t.woken = false ∧
       e.rb R.SYS_WAKE_EN 6 = true) ∧ (run.sys.mode ≠ .doze ∧ run.sys.trans = none) := by decide

theorem witness_linkPowerStates_pme :
    (let e : Engine := { hosted [(cfgKey 0 0x44, 0x8103#32)] with
       time := { run.time with now := 62500005 }, host := { (hosted []).host with pmeAt := [some 5, some 6] } }
     e.host.pmeAt[0]? = some (some 5) ∧ bit (e.cfg 0 0x44) 15 = true ∧ e.host.up = true ∧ e.job.outQ = [] ∧
       e.sys.mode.isSleep = false ∧ e.time.now = 62500005 ∧ e.host.pmeAt[1]? = some (some 6)) ∧
    (let w : OutWr := { ring := 5, addr := 4096, bytes := [1#8], upTo := 1 }
     let e : Engine := { hosted [(cfgKey 0 0x44, 0x8100#32)] with job := { outQ := [w] } }
     bit (e.cfg 0 0x44) 15 = true ∧ e.job.outQ ≠ [] ∧ e.canIssue = true ∧ e.host.pmeAt[0]? = some none) := by
  refine ⟨⟨rfl, by decide, rfl, rfl, by decide, rfl, rfl⟩, by decide, by decide, by decide, rfl⟩

theorem witness_portResets : (hosted []).host.up = true ∧ run.host.up = false := by decide

/-! Registers, the ports, Hinge, key sessions. -/

theorem witness_registerWritesFollowTheirCode :
    ((∀ p ∈ [Port.f0, .f1, .i2c], (st run).ready p = true) ∧ run.portFirst .f1 = true ∧ portHas 1 9 = false ∧ portHas 0 3 = true ∧
      portHas 0 4 = true ∧ portHas 0 5 = true ∧ portHas 0 0x18 = true ∧ portHas 0 0x24 = true ∧ portHas 0 0x10 = true) ∧
    (isCliff 5 = false ∧ isCliff 0x10 = true ∧ Engine.linkLost run.hinge.c = false ∧ run.linkFree false = true) ∧
    (let e : Engine := { run with hinge := { c := { st := .retrain } } }
     (st e).ready .f0 = true ∧ Engine.linkLost e.hinge.c = false ∧ e.linkFree false = false) ∧
    Engine.linkLost { st := .fault } = true ∧
    (row? 5 0x20 = some ⟨0x20, .rw, 0x7#32, 0x5#32⟩ ∧ Engine.ringBase (run.keyAt 5 0x20) = false ∧
      run.frozenReg (run.keyAt 5 0x20) = false ∧ run.keyAt 5 0x20 ≠ R.HOST_BW_CTL ∧ run.keyAt 5 0x20 ≠ R.DIAG_CTL) ∧
    row? 3 0x24 = some ⟨0x24, .w1c, 0x60000000#32, 0x0#32⟩ ∧
    (row? 3 0x20 = some ⟨0x20, .rws, 0x1F#32, 0xC#32⟩ ∧ run.tide.store.length < 256) := by decide +kernel

theorem witness_registerWritesFollowTheirCode_rings :
    (let e : Engine := { run with job := { ents := run.job.ents.set 3 { st := .ready } } }
     (∃ r, row? 0x24 0x28 = some r ∧ r.acc = .rw) ∧ Engine.ringBase (e.keyAt 0x24 0x28) = true ∧ e.jobsBusy = true) ∧
    (let e : Engine := { run with tide := { store := List.replicate 256 ⟨R.TIDE_CTL, 13#32, 5⟩ } }
     256 ≤ e.tide.store.length) := by
  refine ⟨⟨⟨⟨0x28, .rw, 0xFFFFFFC0#32, 0x0#32⟩, by decide, rfl⟩, by decide, by decide⟩, Nat.le_of_eq List.length_replicate.symm⟩

/-- Slot 1 programmed, with and without a session; a guarded register with a shadow, and SEC_CTL. -/
theorem witness_registerWritesFollowTheirCode_guarded :
    (let e : Engine := { run with sec := { slots := List.replicate 3 { prog := true } } }
     (∃ r, row? 0x18 0x28 = some r ∧ r.acc = .rwk 1 true ∧ r.mask &&& beMask 15#4 ≠ 0#32) ∧ e.sessAt 0 1 = false) ∧
    (let e : Engine := { run with sec := { slots := List.replicate 3 { prog := true }, ports := List.replicate 3 { sess := [some 0, none, none] } } }
     e.sessAt 0 1 = true ∧ e.tide.store.length < 256) := by
  refine ⟨⟨⟨⟨0x28, .rwk 1 true, 0xFFFFFFFF#32, 0#32⟩, by decide, rfl, by decide⟩, by decide⟩, by decide⟩

/-- An RC register, one counted in this cycle; the time base's two halves. -/
theorem witness_readsClearAndLatch :
    (∃ r, row? 3 0x28 = some r ∧ r.acc = .rc) ∧ (∃ r, row? 5 0x28 = some r ∧ r.acc = .rl) ∧
    (∃ r, row? 5 0x2C = some r ∧ r.acc = .rl) ∧
    ((st run).ready .f0 = true ∧ (st run).ready .f1 = true ∧ portHas 0 3 = true ∧ portHas 0 5 = true ∧ portHas 1 9 = false ∧ row? 9 0 = none ∧
      row? 5 0xFC = none) ∧
    (run.cyc.rc.find? (fun x => x.1 == run.keyAt 3 0x28)) = none ∧
    (let e : Engine := { run with cyc := { rc := [(run.keyAt 3 0x28, 3#32, 2#32)] } }
     e.cyc.rc.find? (fun x => x.1 == e.keyAt 3 0x28) = some (e.keyAt 3 0x28, 3#32, 2#32)) ∧
    ((st run).viewEvq 0 0x528 = none ∧ run.hiHalf 0x528 = some (R.TB_HI, 1#32) ∧ run.view 0 5 0x28 = some 0x23456789#32 ∧
      0 < run.latch.length ∧ (st run).viewEvq 0 0x52C = none ∧ run.hiHalf 0x52C = none) := by
  refine ⟨⟨⟨0x28, .rc, 0x8000FFFF#32, 0x0#32⟩, by decide, rfl⟩, ⟨⟨0x28, .rl, 0xFFFFFFFF#32, 0x0#32⟩, by decide, rfl⟩,
    ⟨⟨0x2C, .rl, 0xFFFFFF#32, 0x0#32⟩, by decide, rfl⟩, by decide, by decide, by decide, by decide⟩

/-- An access held for Cliff: over a trained link, while Hinge-C retrains, in DIE_FAULT. -/
def waitingC (l : HingeLink) (d : Option Word) : Engine :=
  { run with hinge := { c := l }, host := { held := [⟨.f0, [], .regs [⟨.f0, 0x10, 0x34, 15#4, d⟩] [] none, 0, none, none⟩] } }

theorem witness_cliffAccessComplete :
    (run.host.held = [] ∧ run.hinge.c.head.out = [] ∧ run.hinge.c.far.out = []) ∧
    (let e := waitingC {} (some 5#32)
     e.host.held = [⟨.f0, [], .regs [⟨.f0, 0x10, 0x34, 15#4, some 5#32⟩] [] none, 0, none, none⟩] ∧ 0 < e.time.now ∧
       isCliff 0x10 = true ∧ portHas 0 0x10 = true ∧ e.hinge.c.st = .trained ∧ Engine.linkLost e.hinge.c = false ∧
       e.portOpen .f0 = true ∧ e.hinge.active = false ∧ e.hinge.c.far.exp = e.hinge.c.head.next ∧
       e.hinge.c.head.exp = e.hinge.c.far.next) ∧
    Engine.linkLost (waitingC { st := .retrain } none).hinge.c = false ∧
    (waitingC { st := .fault, faulted := true } none).portOpen .f0 = true := by decide

/-- The port's address is 0x6D; its pointer stands at TB_CMP_SEL. -/
def twoWire (e : Engine) (l : List (Nat × Word)) : Engine := { e with i2c := { addr := 0x6D, ptr := 0x54C }, regs := regs l }

theorem witness_twoWireTransactions :
    ((twoWire run []).host.held = [] ∧ (0xD8#8).toNat / 2 ≠ (twoWire run []).i2c.addr) ∧
    (let e := twoWire run []
     (0xDA#8 : Byte) = e.addrByte false ∧ (0xDB#8 : Byte) = e.addrByte true ∧ e.access = true ∧ e.sys.trans = none ∧
       e.sys.mode.isSleep = false ∧ e.portOpen .i2c = true ∧
       (pageInfo? 5).isSome = true ∧ (0x4C#8).toNat % 4 = 0 ∧ isCliff 5 = false ∧ e.rb R.I2CT_CTL 0 = false ∧
       isCliff (e.i2c.ptr / 256) = false ∧ portHas 2 (e.i2c.ptr / 256) = true ∧ e.popWaits (e.atPtr none) = false ∧ e.i2c.addr < 128) ∧
    ((twoWire run [(R.I2CT_CTL, 1#32)]).rb R.I2CT_CTL 0 = true ∧ 0#8 ≠ crc8 [0xDA#8, 5#8, 0x4C#8, 1#8, 0#8, 0#8, 0#8]) ∧
    (let e := twoWire doze [(R.SYS_WAKE_EN, 1#32)]
     e.access = false ∧ e.sys.mode = .doze ∧ e.sys.wake = none ∧ e.pwr.vddIo = true ∧ e.rb R.SYS_WAKE_EN 0 = true ∧
       (0xDA#8).toNat / 2 = e.i2c.addr) ∧
    (let e := twoWire run [(R.I2CT_CTL, 0x1000#32)]
     e.rb R.I2CT_CTL 12 = true ∧ e.access = true ∧ (∀ h ∈ e.host.held, ∀ x, h.work ≠ .i2c x)) ∧ (twoWire run [(R.I2CT_CTL, 0#32)]).rb R.I2CT_CTL 12 = false := by
  refine ⟨by decide +kernel, by decide +kernel, by decide +kernel, by decide +kernel, ⟨by decide, by decide, ?_⟩, by decide⟩
  intro h hh; cases hh

/-- A notice is due with a cause, the limit of attempts 1, none or one of them failed; one without a cause. -/
def noticing (w : Bool) (n : Nat) (l : List (Nat × Word)) : Engine :=
  { run with
    i2c := { due := true, waiting := w, attempts := n, cond := true, failAt := 19375000 }
    regs := regs ([(R.I2CT_CTL, 0x1200#32), (R.I2CT_NOTICE, 0x108#32)] ++ l) }

def cause : List (Nat × Word) := [(istatKey 4, 1#32), (ienKey 4, 1#32), (R.SYS_IRQ_I2C, 0xFFFFFFF#32)]

theorem witness_noticesAreSentOrRetried :
    (∀ e ∈ [noticing false 0 cause, noticing true 1 cause], e.mayNotice = true ∧ e.i2cCond = true ∧ e.rb R.I2CT_CTL 12 = true) ∧
    ((noticing false 0 cause).i2c.waiting = false ∧ (noticing true 1 cause).i2c.waiting = true ∧
      (noticing true 1 cause).i2c.failAt + 625000 = (noticing true 1 cause).time.now) ∧
    ((noticing false 0 cause).i2c.attempts + 1 = (noticing false 0 cause).rf R.I2CT_NOTICE 8 4) ∧
    ((noticing true 1 cause).rf R.I2CT_NOTICE 8 4 < (noticing true 1 cause).i2c.attempts + 1) ∧
    ((noticing false 0 []).mayNotice = true ∧ (noticing false 0 []).i2cCond = false ∧ run.mayNotice = false) ∧
    (noticing false 0 ((R.I2CT_CTL, 0x200#32) :: cause)).rb R.I2CT_CTL 12 = false ∧
    (let ours := 2 * (noticing false 0 cause).rf R.I2CT_NOTICE 0 7
     (firstByte (.write [15#8])).toNat < ours ∧ (firstByte (.write [16#8])).toNat = ours ∧ ours < (firstByte (.write [17#8])).toNat) ∧
    (noticing false 0 cause).noticeStart false = true ∧ (noticing true 1 cause).noticeStart true = true := by decide +kernel

/-- A protected frame with a type, a sequence and an acknowledge number (R325). -/
def protectedFrame (head : Bool) (type seq ack : Nat) : LinkFrame :=
  let b := [BitVec.ofNat 8 type, BitVec.ofNat 8 seq, BitVec.ofNat 8 ack] ++ List.replicate 57 0#8
  ⟨head, b ++ bytesOfNat 4 (crc32 b).toNat⟩

/-- Hinge-C with two frames of Headland unacknowledged, the older sent 625 cycles ago, and one of Cliff. -/
def linkC : HingeLink :=
  { head := { next := 7, exp := 4, out := [⟨5, 19999375, 0, none⟩, ⟨6, 19999900, 1, none⟩] }
    far := { next := 5, exp := 255, out := [⟨4, 19999900, 0, some (.access ⟨.f0, 0x10, 0x34, 15#4, none⟩ [])⟩] } }
def hinged (l : HingeLink) : Engine := { run with hinge := { c := l } }

theorem test_protected_frame_crc :
    frameIntact (protectedFrame true 1 4 6) = true ∧ frameIntact (protectedFrame true 5 4 6) = false ∧
    frameIntact { protectedFrame true 1 4 6 with bytes := (protectedFrame true 1 4 6).bytes.set 40 1#8 } = false := by decide +kernel

/-- DATA in sequence, 127 and 128 places away; ACK, TRAIN and NAK. -/
theorem witness_hingeFramesAreProtected :
    ((hinged linkC).hinge.active = false ∧ linkC.st = .trained) ∧
    (∀ x ∈ [(1, 255), (1, 126), (1, 127), (2, 0), (3, 0), (4, 0)],
      frameIntact (protectedFrame false x.1 x.2 4) = true ∧ frameType (protectedFrame false x.1 x.2 4) = x.1 ∧
        frameSeq (protectedFrame false x.1 x.2 4) = x.2 ∧ frameAck (protectedFrame false x.1 x.2 4) = 4) ∧
    (linkC.far.exp = 255 ∧ (126 + 256 - linkC.far.exp) % 256 = 127 ∧ (127 + 256 - linkC.far.exp) % 256 = 128 ∧
      linkC.head.opOf 255 = none ∧ linkC.far.opOf 4 = some (.access ⟨.f0, 0x10, 0x34, 15#4, none⟩ []) ∧ linkC.head.exp = 4) := by
  decide +kernel

/-- The timer runs out on a frame sent before the fourth time, and on one that has been played three times; what an
acknowledgement leaves. -/
theorem witness_hingeFramesAreProtected_replays :
    (linkC.head.out = ⟨5, 19999375, 0, none⟩ :: [⟨6, 19999900, 1, none⟩] ∧ 19999375 + 625 = (hinged linkC).time.now) ∧
    (∃ o t, linkC.far.out = o :: t ∧ (hinged linkC).time.now < o.sent + 625) ∧
    ({ linkC with head := { out := [⟨5, 1000, 3, none⟩] } } : HingeLink).head.out = ⟨5, 1000, 3, none⟩ :: [] ∧
    linkC.head.out.filter (fun f => decide (128 ≤ (6 + 256 - f.seq) % 256)) = [] ∧
    linkC.head.out.filter (fun f => decide (128 ≤ (5 + 256 - f.seq) % 256)) = [⟨6, 19999900, 1, none⟩] ∧
    run.hinge.c.head.out = [] ∧ ({} : LinkEnd).out.length ≤ 32 ∧
    (let e : Engine := { run with hinge := { s := { st := .fault, last := 19993750 } } }
     e.pwr.enMem = true ∧ e.hinge.s.st = .fault ∧ e.hinge.s.last + 6250 = e.time.now) := by
  refine ⟨⟨rfl, by decide⟩, ⟨⟨4, 19999900, 0, some (.access ⟨.f0, 0x10, 0x34, 15#4, none⟩ [])⟩, [], rfl, by decide⟩, rfl, by decide, by decide, rfl,
    by decide, by decide⟩

/-- A retrain at its last cycle, and one that has lasted too long. -/
theorem witness_hingeRetrainsAndInjection :
    (doze.access = false ∧ run.access = true ∧ run.hinge.active = false ∧ (run.hlink true).st ≠ .retrain) ∧
    (let e := hinged { st := .retrain, start := 19989375 }
     let L := e.hlink (isS .c)
     L.st = .retrain ∧ L.doomed = false ∧ e.time.now = L.start + 10625 ∧ L.head.out = [] ∧ L.head.queue = [] ∧ L.far.out = [] ∧
       L.far.queue = [] ∧ L.head.next < 256 ∧ L.far.next < 256 ∧ e.tide.late = [] ∧ e.tdc.fold = none ∧ e.host.held = []) ∧
    (let L : HingeLink := { st := .retrain, start := 19989374 }
     L.start + 10625 < run.time.now ∧ ({ L with start := 19989376 } : HingeLink).start + 10625 > run.time.now) ∧
    (let s := st { run with host := { held := [] } }
     s.ready .f1 = true ∧ s.ready .i2c = true ∧ Port.i2c ≠ .f1 ∧ s.eng.sessAt (portCode .i2c) 3 = true) := by decide

/-- Every port and every key slot in one state. -/
def keyed (q : PortSec) (k : KeySlot) (l : List (Nat × Word)) : Engine :=
  { run with regs := regs l, sec := { ports := [q, q, q], slots := [k, k, k] } }

theorem witness_keyChallenges :
    ((∀ p ∈ [Port.f0, .f1, .i2c], (st run).ready p = true) ∧ (2#2 : BitVec 2) ≠ 0#2 ∧ (run.port (portCode .i2c)).chal ≠ .programming) ∧
    (let e := keyed { chal := .programming } {} []
     (st e).ready .f0 = true ∧ (e.port (portCode .f0)).chal = .programming) ∧
    (((keyed {} { lock := some 5 } []).key 2).lock.isSome = true ∧ ((keyed {} { prog := true } []).key 2).lock = none ∧
      ((keyed {} { prog := true } []).key 2).prog = true ∧ ((keyed {} {} []).key 2).prog = false) ∧
    (let q : PortSec := { chal := .challenged, slot := 2, idx := 4, age := 7 }
     let e := { keyed q { prog := true } [(R.SEC_CTL, 0x70000#32)] with cyc := { boundary := true } }
     (st e).ready .i2c = true ∧ e.sec.ports[portCode .i2c]? = some q ∧ q.chal = .challenged ∧ q.slot = (2#2).toNat ∧ 4 ≤ q.idx ∧
       e.cyc.boundary = true ∧ e.rf R.SEC_CTL 16 16 ≠ 0 ∧ e.rf R.SEC_CTL 16 16 = q.age) := by decide

/-- A check of slot 3, whose key is locked out, or has failed six or seven times in sequence. -/
theorem witness_responseCheckComplete (k : KeySlot) :
    let q : PortSec := { chal := .checking, slot := 3, idx := 4 }
    (keyed q k []).sec.ports[portCode .f1]? = some q ∧ q.chal = .checking ∧ 1 ≤ q.slot ∧
      (keyed q k []).sec.slots[q.slot - 1]? = some k ∧ ({ lock := some 7 } : KeySlot).lock.isSome = true ∧
      ¬7 ≤ ({ consec := 6 } : KeySlot).consec ∧ 7 ≤ ({ consec := 7 } : KeySlot).consec :=
  ⟨rfl, rfl, by decide, rfl, rfl, by decide, by decide⟩

/-- A port with two sessions and a full buffer. -/
def sessioned : PortSec := { sess := [some 5, none, some 7], idx := 8, buf := List.replicate 8 5#32 }

theorem witness_keySessionsAndProgramming :
    (let e := keyed sessioned {} []
     (st e).ready .f0 = true ∧ e.sec.ports[portCode .f0]? = some sessioned ∧ sessioned.chal ≠ .programming ∧ sessioned.idx = 8 ∧
       e.sessOpen (portCode .f0) 3 = true ∧ (e.arrivesAt .f0).sys.mode = .measure ∧ (2#2 : BitVec 2) ≠ 0#2 ∧ (e.key 2).prog = false ∧
       (∃ w ∈ sessioned.buf, w ≠ 0#32) ∧ (∃ w ∈ sessioned.buf, w ≠ 0xFFFFFFFF#32) ∧
       (∀ o, o < 3 → o ≠ portCode .f0 → (e.port o).chal ≠ .programming)) ∧
    ((run.port 0).idx < 8 ∧ (0#16 : BitVec 16) ≠ 0xA55A#16) :=
  ⟨⟨by decide, rfl, by decide, rfl, by decide, by decide, by decide, by decide, ⟨5#32, by decide, by decide⟩,
    ⟨5#32, by decide, by decide⟩, fun | 0, _, h => by decide | 1, _, _ => by decide | 2, _, _ => by decide⟩, by decide⟩

theorem witness_programComplete (k : KeySlot) :
    let q : PortSec := { sessioned with chal := .programming, slot := 2 }
    (keyed q k []).sec.ports[portCode .f0]? = some q ∧ q.chal = .programming ∧ 1 ≤ q.slot ∧
      (keyed q k []).sec.slots[q.slot - 1]? = some k ∧ (List.replicate 8 5#32 : List Word).length = 8 ∧
      List.replicate 8 5#32 = q.buf ∧ List.replicate 8 6#32 ≠ q.buf :=
  ⟨rfl, rfl, by decide, rfl, by decide, by decide, by decide⟩

theorem witness_secTimeoutAndLockoutEnd (k : KeySlot) :
    (let e := { keyed sessioned {} [(R.SEC_CTL, 0x70000#32)] with cyc := { boundary := true } }
     e.cyc.boundary = true ∧ e.rf R.SEC_CTL 16 16 = 7) ∧
    sessioned.sess[(3#2).toNat - 1]? = some (some 7) ∧ sessioned.sess.getD ((2#2).toNat - 1) none = none ∧
    (keyed {} k []).sec.slots[(1#2).toNat - 1]? = some k ∧ ({ lock := some 0 } : KeySlot).lock = some 0 ∧ (1#2 : BitVec 2) ≠ 0#2 :=
  ⟨by decide, rfl, rfl, rfl, rfl, by decide⟩

end Sys2Proof.Tests
end

section
/-! SUPPORT. Register accesses of the ports, one at a time: what a port's arrival leaves, how far an access comes, and what
follows for the command that made it. -/

namespace Sys2Proof.Machine

namespace Engine

/-! ### What a port's arrival leaves -/

/-- f is e after something has been heard that begins no wake: at most SYS_WAKE_SRC, the link and the accepted entry into sleep
have changed (R63, R291). -/
def Heard (e f : Engine) : Prop :=
  RegsKept [R.SYS_WAKE_SRC] e f ∧ f = { e with regs := f.regs, host := f.host, sys := f.sys }

theorem Heard.rfl (e : Engine) : Heard e e := ⟨fun _ _ => Eq.refl _, Eq.refl _⟩

theorem Heard.trans {e f g : Engine} (h : Heard e f) (h' : Heard f g) : Heard e g := by
  obtain ⟨hr, hf⟩ := h
  obtain ⟨hr', hg⟩ := h'
  refine ⟨fun k hk => (hr' k hk).trans (hr k hk), ?_⟩
  rw [hf] at hg
  exact hg

theorem heard_wr_wakeSrc (e : Engine) (v : Word) : Heard e (e.wr R.SYS_WAKE_SRC v) :=
  ⟨fun k hk => rd_wr_other _ _ _ _ (by simpa using hk), by cases e; rfl⟩

theorem heard_linkWake (e : Engine) : Heard e e.linkWake := by
  refine ⟨fun k _ => rd_linkWake e k, ?_⟩
  unfold linkWake
  split <;> rfl

/-- A wake that begins leaves registers inaccessible (R64). -/
theorem access_recognise (e : Engine) (i : Nat) : (e.recognise i).access = false := by
  unfold recognise
  dsimp only
  split <;> rfl

theorem heard_wakeSource {e : Engine} {i : Nat} (h : (e.wakeSource i).access = true) : Heard e (e.wakeSource i) := by
  unfold wakeSource at h ⊢
  split at h
  next sleeps =>
    rw [if_pos sleeps]
    split at h
    next works =>
      rw [if_pos works]
      split at h
      next => rw [access_recognise] at h; cases h
      next w _ =>
        split
        · exact heard_wr_wakeSrc e _
        · exact Heard.rfl e
    next idle => rw [if_neg idle]; exact Heard.rfl e
  next awake =>
    rw [if_neg awake]
    split
    next t _ =>
      split
      · obtain ⟨hr, he⟩ := heard_wr_wakeSrc e (if t.woken then e.rd R.SYS_WAKE_SRC ||| w32 (2 ^ i) else w32 (2 ^ i))
        exact ⟨hr, by rw [he]⟩
      · exact Heard.rfl e
    next => exact Heard.rfl e

/-- Where registers are accepted after a port's arrival, no wake has begun with it. -/
theorem heard_arrivesAt {e : Engine} {p : Port} (h : (e.arrivesAt p).access = true) : Heard e (e.arrivesAt p) := by
  have link : (if e.host.up then e.arrives else e).access = true → Heard e (if e.host.up then e.arrives else e) := by
    intro h
    split at h
    next up =>
      rw [if_pos up]
      unfold arrives at h ⊢
      dsimp only at h ⊢
      split at h
      next sleeps => rw [if_pos sleeps]; exact (heard_linkWake e).trans (heard_wakeSource h)
      next awake => rw [if_neg awake]; exact heard_linkWake e
    next down => rw [if_neg down]; exact Heard.rfl e
  cases p with
  | f0 => exact link h
  | f1 => exact link h
  | i2c =>
    simp only [arrivesAt, addressed] at h ⊢
    split at h
    next named => rw [if_pos named]; exact heard_wakeSource h
    next other => rw [if_neg other]; exact Heard.rfl e

theorem access_of_portOpen {e : Engine} {p : Port} (h : e.portOpen p = true) : e.access = true := by
  unfold portOpen at h
  simp only [Bool.and_eq_true] at h
  exact h.1.1

theorem Heard.sessAt {e f : Engine} (h : Heard e f) (p slot : Nat) : f.sessAt p slot = e.sessAt p slot := by
  rw [h.2]; rfl

end Engine

/-- What a port that is served at once finds differs from what stood before in what its arrival leaves, and in its turn. -/
theorem State.serving_of_ready {s : State} {p : Port} (h : s.ready p = true) : RegsKept [R.SYS_WAKE_SRC] s.eng (s.eng.serving p) ∧
    s.eng.serving p = { s.eng with
      regs := (s.eng.serving p).regs, host := (s.eng.serving p).host, sys := (s.eng.serving p).sys
      cyc := { s.eng.cyc with rank := portCode p } } := by
  unfold ready Engine.portReady at h
  rw [Bool.and_eq_true] at h
  obtain ⟨hr, he⟩ := Engine.heard_arrivesAt (Engine.access_of_portOpen h.1)
  refine ⟨hr, ?_⟩
  unfold Engine.serving
  rw [he]
  rfl

/-! ### One access -/

/-- The access of a command, as the port keeps it where it waits. -/
def Engine.asks (e : Engine) (a : RegAccess) : Held :=
  { port := a.port, auth := e.auth (portCode a.port), work := .regs [a] [] none }

section
variable {s : State} {h : Held} {a : RegAccess}

theorem State.attempt_disabled (hh : h.reply = none) (hb : a.be = 0#4) :
    s.attempt h a = (s, .done (if a.data.isSome then none else some 0#32)) := by
  unfold attempt
  simp only [hh]
  rw [if_pos hb]

/-- An access waits for its port, or a read of what a pop latched for the pop's next cycle (R72, R238, R344). -/
theorem State.attempt_waits (hh : h.reply = none) (hb : a.be ≠ 0#4)
    (hw : s.eng.portOpen a.port = false ∨ s.eng.popWaits a = true) : s.attempt h a = (s, .waits h.sent) := by
  unfold attempt
  simp only [hh]
  rw [if_neg hb, if_pos (by rcases hw with hw | hw <;> simp [hw])]

/-- An access that waits for nothing goes where its page is. -/
theorem State.attempt_goes (hh : h.reply = none) (hb : a.be ≠ 0#4) (ho : s.eng.portOpen a.port = true)
    (hp : s.eng.popWaits a = false) : s.attempt h a =
      if !portHas (portCode a.port) a.page then ({ s with eng := s.eng.noPage a }, .done none)
      else if isCliff a.page then
        if Engine.linkLost s.eng.hinge.c then
          ({ s with eng := s.eng.served a.port }, .done (if a.data.isSome then none else some 0#32))
        else if h.sent.isSome || !s.eng.linkFree false then (s, .waits h.sent)
        else ({ s with eng := (s.eng.served a.port).linkPut false true (some (.access a h.auth)) }, .waits (some s.eng.hinge.c.head.next))
      else (({ s with eng := s.eng.served a.port }.perform h.auth a).1,
        .done ({ s with eng := s.eng.served a.port }.perform h.auth a).2) := by
  unfold attempt
  simp only [hh]
  rw [if_neg hb, if_neg (by simp [ho, hp])]

end

/-- A write never waits for a pop. -/
theorem Engine.popWaits_write (e : Engine) (p : Port) (page slot : Nat) (be : BitVec 4) (v : Word) :
    e.popWaits { port := p, page := page, slot := slot, be := be, data := some v } = false := rfl

/-! ### The command of an access -/

/-- What a command asks for is served as its one access. -/
theorem State.run_asks (s : State) (a : RegAccess) : s.run (s.eng.asks a) = s.runRegs (s.eng.asks a) none [a] [] := by
  unfold run
  dsimp only
  rw [if_neg (show ¬s.eng.time.now < (s.eng.asks a).after from Nat.not_lt_zero _)]
  by_cases h : (s.eng.asks a).after = s.eng.time.now
  · rw [if_pos h]; rfl
  · rw [if_neg h]; rfl

theorem State.run_asks_done {s t : State} {a : RegAccess} {v : Option Word} (h : s.attempt (s.eng.asks a) a = (t, .done v)) :
    s.run (s.eng.asks a) = ({ t with eng := t.eng.answer a none v }, none) := by
  rw [run_asks, runRegs, h]; rfl

theorem State.run_asks_waits {s t : State} {a : RegAccess} {sent : Option Nat}
    (h : s.attempt (s.eng.asks a) a = (t, .waits sent)) : s.run (s.eng.asks a) = (t, some { s.eng.asks a with sent := sent }) := by
  rw [run_asks, runRegs, h]; rfl

theorem State.access_eq (s : State) (a : RegAccess) :
    s.access a = { s with eng := s.eng.arrivesAt a.port }.ask a.port (.regs [a] [] none) := rfl

section
variable {c : Instr} {s : State} {a : RegAccess} (hc : exec c s = doneS (s.access a))
include hc

/-- An access that no link has brought is lost while registers are not accepted (R64, R306). -/
theorem leaves_lost (hl : (s.eng.arrivesAt a.port).access = false ∧ (a.port = .i2c ∨ (s.eng.arrivesAt a.port).host.up = false)) :
    Leaves c s (s.eng.arrivesAt a.port) := by
  refine hc.trans ?_
  rw [State.access_eq, State.ask, if_pos (by simpa using hl)]
  rfl

/-- Where something that comes before it waits, an access waits too (R17). -/
theorem queues_access (hl : ¬((s.eng.arrivesAt a.port).access = false ∧ (a.port = .i2c ∨ (s.eng.arrivesAt a.port).host.up = false))) :
    Queues c s (s.eng.arrivesAt a.port) a.port (.regs [a] [] none) := by
  intro hf
  refine hc.trans ?_
  rw [State.access_eq, State.ask, if_neg (by simpa using hl), State.submit, if_neg (by simp [hf])]
  rfl

/-- The first access of its port is done with a value, or none. -/
theorem leaves_done {t : State} {v : Option Word} {e : Engine}
    (hl : ¬((s.eng.arrivesAt a.port).access = false ∧ (a.port = .i2c ∨ (s.eng.arrivesAt a.port).host.up = false)))
    (hf : (s.eng.arrivesAt a.port).portFirst a.port = true)
    (ht : { s with eng := s.eng.arrivesAt a.port }.attempt ((s.eng.arrivesAt a.port).asks a) a = (t, .done v))
    (he : { t with eng := t.eng.answer a none v } = { s with eng := e }) : Leaves c s e := by
  refine hc.trans ?_
  have hr := State.run_asks_done ht
  rw [State.access_eq, State.ask, if_neg (by simpa using hl), State.submit, if_pos hf]
  unfold Engine.asks at hr
  dsimp only at hr ⊢
  rw [hr, he]
  rfl

/-- The first access of its port waits. -/
theorem leaves_waits {f : Engine} {sent : Option Nat}
    (hl : ¬((s.eng.arrivesAt a.port).access = false ∧ (a.port = .i2c ∨ (s.eng.arrivesAt a.port).host.up = false)))
    (hf : (s.eng.arrivesAt a.port).portFirst a.port = true)
    (ht : { s with eng := s.eng.arrivesAt a.port }.attempt ((s.eng.arrivesAt a.port).asks a) a = ({ s with eng := f }, .waits sent)) :
    Leaves c s (f.hold { (s.eng.arrivesAt a.port).asks a with sent := sent }) := by
  refine hc.trans ?_
  have hr := State.run_asks_waits ht
  rw [State.access_eq, State.ask, if_neg (by simpa using hl), State.submit, if_pos hf]
  unfold Engine.asks at hr ⊢
  dsimp only at hr ⊢
  rw [hr]
  rfl

/-- The access of a command waits its turn. -/
theorem waitsItsTurn_access (hb : a.be ≠ 0#4) : WaitsItsTurn c s a.port (.regs [a] [] none) := by
  refine ⟨leaves_lost hc, fun hl hf ho => ?_, queues_access hc⟩
  exact leaves_waits hc hl hf (State.attempt_waits rfl hb (Or.inl ho))

end

end Sys2Proof.Machine
end

section
/-! SUPPORT. What the register table says of every register outside Cliff, and the bits that a write leaves. -/

namespace Sys2Proof.Machine

/-! ### Fields and masks -/

/-- A mask that holds a field leaves its value. -/
theorem fld_and {mask : Word} {lo len : Nat} (h : ∀ i < len, mask.getLsbD (lo + i) = true) (v : Word) :
    fld (v &&& mask) lo len = fld v lo len := by
  refine Nat.eq_of_testBit_eq fun i => ?_
  simp only [fld, Nat.testBit_mod_two_pow, Nat.testBit_shiftRight, BitVec.toNat_and, Nat.testBit_and, BitVec.testBit_toNat]
  by_cases hi : i < len
  · simp [hi, h i hi]
  · simp [hi]

theorem fld_lt (w : Word) (lo len : Nat) : fld w lo len < 2 ^ len := Nat.mod_lt _ (Nat.two_pow_pos len)

/-- A field that has been written into a word reads as the value written. -/
theorem fld_putf_same (w : Word) {lo len : Nat} (h : lo + len ≤ 32) (v : Nat) : fld (putf w lo len v) lo len = v % 2 ^ len := by
  refine Nat.eq_of_testBit_eq fun i => ?_
  by_cases hi : i < len
  · have hlo : lo + i < 32 := by omega
    have hmask : (w32 ((2 ^ len - 1) * 2 ^ lo)).getLsbD (lo + i) = true := by
      simp [w32, BitVec.getLsbD_ofNat, hlo, hi, Nat.testBit_mul_two_pow]
    have hval : (w32 (v % 2 ^ len * 2 ^ lo)).getLsbD (lo + i) = v.testBit i := by
      rw [w32, BitVec.getLsbD_ofNat]
      simp [hlo, hi, Nat.testBit_mul_two_pow, Nat.testBit_mod_two_pow]
    simp only [fld, putf, merge, Nat.testBit_mod_two_pow, Nat.testBit_shiftRight, BitVec.testBit_toNat, BitVec.getLsbD_or,
      BitVec.getLsbD_and, BitVec.getLsbD_not, hmask, hval]
    simp [hi]
  · simp [fld, Nat.testBit_mod_two_pow, hi]

/-- Merging the enabled bytes and then the bits of the register keeps the rest (R9, R275). -/
theorem merge_enabled (mask old v : Word) (be : BitVec 4) : merge mask old (merge (beMask be) old (v &&& beMask be)) =
    old &&& ~~~(mask &&& beMask be) ||| v &&& (mask &&& beMask be) := by
  unfold merge
  ext i
  simp only [BitVec.getElem_or, BitVec.getElem_and, BitVec.getElem_not]
  cases old[i] <;> cases v[i] <;> cases mask[i] <;> cases (beMask be)[i] <;> rfl

/-! ### The table -/

theorem row?_listed {page slot : Nat} {r : Row} (h : row? page slot = some r) (hc : isCliff page = false) :
    ∃ i ∈ pageMap, i.page = page ∧ r ∈ headerRows i ++ i.rows ∧ r.slot = slot := by
  unfold row? at h
  split at h
  next => cases h
  next i hi =>
    split at h
    next => cases h
    next r' hr =>
      have hfast : ¬(0x11 ≤ page ∧ page ≤ 0x13 ∧ slot = 0x20) := by
        rintro ⟨h1, h2, -⟩
        simp only [isCliff, Bool.and_eq_false_iff, decide_eq_false_iff_not] at hc
        omega
      rw [if_neg hfast] at h
      cases h
      exact ⟨i, List.mem_of_find?_eq_some hi, by simpa using List.find?_some hi, List.mem_of_find?_eq_some hr,
        by simpa using List.find?_some hr⟩

/-- What the table's rows outside Cliff all have, a register outside Cliff has. -/
theorem row?_all (P : Nat → Row → Bool) (hP : (pageMap.all fun i => isCliff i.page || (headerRows i ++ i.rows).all (P i.page)) = true)
    {page slot : Nat} {r : Row} (h : row? page slot = some r) (hc : isCliff page = false) : P page r = true ∧ r.slot = slot := by
  obtain ⟨i, hi, rfl, hr, hs⟩ := row?_listed h hc
  have hrows := List.all_eq_true.mp hP i hi
  rw [hc, Bool.false_or] at hrows
  exact ⟨List.all_eq_true.mp hrows r hr, hs⟩

theorem row?_bounds {page slot : Nat} {r : Row} (h : row? page slot = some r) (hc : isCliff page = false) : page < 256 ∧ slot < 256 := by
  obtain ⟨hb, hs⟩ := row?_all (fun page r => decide (page < 256) && decide (r.slot < 256)) (by decide) h hc
  rw [hs] at hb
  simpa using hb

/-- A register whose bits are cleared by writes is no window (R6). -/
theorem windowOf_w1c {page slot : Nat} {r : Row} (h : row? page slot = some r) (hc : isCliff page = false) (ha : r.acc = .w1c) :
    windowOf (page * 256 + slot) = none := by
  obtain ⟨hw, hs⟩ := row?_all (fun page r => r.acc != .w1c || (windowOf (page * 256 + r.slot)).isNone) (by decide) h hc
  rw [hs, ha] at hw
  simpa using hw

theorem keyAt_mod (e : Engine) {page slot : Nat} (hp : page < 256) (hs : slot < 256) :
    e.keyAt page slot % 65536 = page * 256 + slot := by
  unfold Engine.keyAt
  dsimp only
  split
  · unfold win; omega
  · omega

/-- No register outside Cliff lies in a calibration window (R96). -/
theorem calReserved_keyAt (e : Engine) {page slot : Nat} {r : Row} (h : row? page slot = some r) (hc : isCliff page = false) :
    calReserved (e.keyAt page slot) = false := by
  obtain ⟨hp, hs⟩ := row?_bounds h hc
  simp only [isCliff, Bool.and_eq_false_iff, decide_eq_false_iff_not] at hc
  unfold calReserved
  rw [keyAt_mod e hp hs, Bool.and_eq_false_iff, decide_eq_false_iff_not]
  left
  omega

/-! ### Reserved encodings (R10) -/

/-- The registers that have reserved encodings, by the key without its window. -/
def reserves (k : Nat) : Bool :=
  [R.CLK_CTL, R.CLK_MON, R.TIDE_CTL, R.TB_CMP_RLD, R.SYS_MODE_REQ, R.SYS_WAKE_EN, R.PWR_SEQ, R.POD_TIM, R.TDC_D_CFG, R.TDC_D_TMO,
    R.TDCCAL_CTL, R.SEQ_SRC, R.SEQL_OCC_AB, R.SEQL_OCC_CD, R.REC_MODE, R.REC_SEL, R.MEM_SEL, R.CMP_SEL, R.MEM_CTL, R.DEC_CNT_SEL,
    R.STG_CTL, R.HOST_CTL, R.HOST_ASPM, R.HOST_APER, R.I2CT_TIMD, R.I2CT_TIMC, R.I2CT_NOTICE, R.DIAG_INJ_SEL,
    R.DIAG_INJ_CNT].contains k ||
  decide ((0x1000 ≤ k ∧ k < 0x1400) ∨ (R.TDC_TIN0 ≤ k ∧ k ≤ R.TDC_TIN3) ∨
    (0x1928 ≤ k ∧ k ≤ 0x1934) ∨ (0x1938 ≤ k ∧ k ≤ 0x1944))

theorem badFields_eq_nil {k : Nat} (h : reserves (k % 65536) = false) (v : Word) : badFields k v = [] := by
  unfold badFields
  generalize k % 65536 = j at h ⊢
  rw [reserves, Bool.or_eq_false_iff, decide_eq_false_iff_not, List.contains_eq_mem, decide_eq_false_iff_not] at h
  obtain ⟨hkeys, hranges⟩ := h
  simp only [List.mem_cons, List.not_mem_nil, or_false, not_or] at hkeys hranges
  simp only [hkeys, hranges, if_false, or_false]

/-- Those outside Cliff that a write stores at once, with the bits that their reserved encodings concern. -/
def storedReserves : List (Nat × Word) :=
  [(R.SYS_WAKE_EN, 0x300#32), (R.PWR_SEQ, 0xFF000000#32), (R.POD_TIM, 0xFFFF0000#32), (R.I2CT_TIMD, 0xFF#32),
    (R.I2CT_TIMC, 0xFFFF#32), (R.I2CT_NOTICE, 0x7F#32), (R.REC_SEL, 7#32), (R.CMP_SEL, 7#32), (R.DEC_CNT_SEL, 7#32),
    (R.MEM_SEL, 7#32), (R.HOST_CTL, 0xF#32), (R.HOST_ASPM, 0xFFFF#32), (R.HOST_APER, 0x3FFF#32)]

theorem badFields_and_concern {k : Nat} {m : Word} (h : (k % 65536, m) ∈ storedReserves) (v : Word) :
    badFields k (v &&& m) = badFields k v := by
  unfold badFields
  generalize k % 65536 = j at h ⊢
  simp only [storedReserves, List.mem_cons, List.not_mem_nil, or_false, Prod.mk.injEq] at h
  rcases h with ⟨rfl, rfl⟩ | ⟨rfl, rfl⟩ | ⟨rfl, rfl⟩ | ⟨rfl, rfl⟩ | ⟨rfl, rfl⟩ | ⟨rfl, rfl⟩ | ⟨rfl, rfl⟩ | ⟨rfl, rfl⟩ |
    ⟨rfl, rfl⟩ | ⟨rfl, rfl⟩ | ⟨rfl, rfl⟩ | ⟨rfl, rfl⟩ | ⟨rfl, rfl⟩
  all_goals simp (disch := decide) only [if_pos, if_neg, fld_and]

/-- The reserved encodings of a register outside Cliff that a write stores at once lie in its fields. -/
theorem badFields_and_mask (e : Engine) {page slot : Nat} {r : Row} (h : row? page slot = some r) (hc : isCliff page = false)
    (ha : r.acc = .rw) (v : Word) : badFields (e.keyAt page slot) (v &&& r.mask) = badFields (e.keyAt page slot) v := by
  obtain ⟨hp, hs⟩ := row?_bounds h hc
  have hk := keyAt_mod e hp hs
  obtain ⟨hrow, hs⟩ := row?_all (fun page r => r.acc != .rw || !reserves (page * 256 + r.slot) ||
    storedReserves.any fun x => x.1 == page * 256 + r.slot && x.2 &&& r.mask == x.2) (by decide) h hc
  rw [hs, ha, ← hk] at hrow
  simp only [bne_self_eq_false, Bool.false_or, Bool.or_eq_true, Bool.not_eq_true', List.any_eq_true, Bool.and_eq_true,
    beq_iff_eq] at hrow
  rcases hrow with hnone | ⟨⟨k, m⟩, hmem, hkey, hm⟩
  · rw [badFields_eq_nil hnone, badFields_eq_nil hnone]
  · rw [show k = e.keyAt page slot % 65536 from hkey] at hmem
    rw [← badFields_and_concern hmem (v &&& r.mask), BitVec.and_assoc, BitVec.and_comm r.mask,
      show m &&& r.mask = m from hm, badFields_and_concern hmem]

/-- A write whose fields hold no reserved encoding leaves what it has written in the enabled bytes (R9, R10, R275). -/
theorem written_enabled (e : Engine) {page slot : Nat} {r : Row} (h : row? page slot = some r) (hc : isCliff page = false)
    (ha : r.acc = .rw) {be : BitVec 4} {old v : Word}
    (hb : badFields (e.keyAt page slot) (old &&& ~~~(r.mask &&& beMask be) &&& r.mask ||| v &&& (r.mask &&& beMask be)) = []) :
    written r (e.keyAt page slot) old (merge (beMask be) old (v &&& beMask be)) =
      old &&& ~~~(r.mask &&& beMask be) ||| v &&& (r.mask &&& beMask be) := by
  have inFields : old &&& ~~~(r.mask &&& beMask be) &&& r.mask ||| v &&& (r.mask &&& beMask be) =
      (old &&& ~~~(r.mask &&& beMask be) ||| v &&& (r.mask &&& beMask be)) &&& r.mask := by
    ext i
    simp only [BitVec.getElem_or, BitVec.getElem_and, BitVec.getElem_not]
    cases old[i] <;> cases v[i] <;> cases r.mask[i] <;> cases (beMask be)[i] <;> rfl
  rw [inFields, badFields_and_mask e h hc ha] at hb
  rw [written, merge_enabled, sanitize, hb]
  rfl

/-- The value that waits in the shadow store: the enabled bytes written, the others pending or committed, rsvd bits 0 (R9, R35). -/
theorem shadowed_value (mask base v : Word) (be : BitVec 4) :
    let w := (if be = 15#4 then v else merge (beMask be) base v) &&& mask
    w &&& (mask &&& beMask be) = v &&& (mask &&& beMask be) ∧ w &&& ~~~mask = 0#32 ∧
      (be ≠ 15#4 → w &&& ~~~(mask &&& beMask be) = base &&& mask &&& ~~~(mask &&& beMask be)) := by
  have kept : ∀ x : Word, x &&& mask &&& ~~~mask = 0#32 := fun x => by simp [BitVec.and_assoc]
  intro w
  by_cases h : be = 15#4
  · have hw : w = v &&& mask := by simp only [w, if_pos h]
    rw [hw]
    exact ⟨by rw [BitVec.and_assoc, ← BitVec.and_assoc mask, BitVec.and_self], kept v, fun hn => absurd h hn⟩
  · have hw : w = merge (beMask be) base v &&& mask := by simp only [w, if_neg h]
    rw [hw]
    refine ⟨?_, kept _, fun _ => ?_⟩
    all_goals
      ext i
      simp only [merge, BitVec.getElem_or, BitVec.getElem_and, BitVec.getElem_not]
      cases base[i] <;> cases v[i] <;> cases mask[i] <;> cases (beMask be)[i] <;> rfl

end Sys2Proof.Machine
end

section
/-! SUPPORT. What the operations behind a write leave: the registers they name, the marks of the cycle, and the part they work on. -/

namespace Sys2Proof.Machine

namespace Engine

/-! ### Operations on registers alone -/

/-- b is a but for registers and the marks of what hardware has set and counted. -/
def OnlyRegs (a b : Engine) : Prop := b = a.marked b

theorem OnlyRegs.trans {a b c : Engine} (h : OnlyRegs a b) (h' : OnlyRegs b c) : OnlyRegs a c := by
  unfold OnlyRegs at h h'
  rw [h] at h'
  exact h'

theorem onlyRegs_wr (e : Engine) (k : Nat) (v : Word) : OnlyRegs e (e.wr k v) := by cases e; rfl
theorem onlyRegs_hwSet (e : Engine) (k : Nat) (m : Word) : OnlyRegs e (e.hwSet k m) := by cases e; rfl
theorem onlyRegs_hwUpd (e : Engine) (k : Nat) (f : Word → Word) : OnlyRegs e (e.hwUpd k f) := by cases e; rfl
theorem onlyRegs_w1c (e : Engine) (k : Nat) (m : Word) : OnlyRegs e (e.w1c k m) := onlyRegs_wr e k _
theorem onlyRegs_count (e : Engine) (k : Nat) : OnlyRegs e (e.count k) := onlyRegs_hwUpd e k _
theorem onlyRegs_istat (e : Engine) (p b : Nat) : OnlyRegs e (e.istat p b) := onlyRegs_hwSet e _ _
theorem onlyRegs_estat (e : Engine) (p b : Nat) : OnlyRegs e (e.estat p b) := onlyRegs_hwSet e _ _

theorem regsKept_wr (e : Engine) (k : Nat) (v : Word) : RegsKept [k] e (e.wr k v) :=
  fun j hj => rd_wr_other e k j v (by simpa using hj)

theorem regsKept_estat (e : Engine) (p b : Nat) : RegsKept [estatKey p] e (e.estat p b) :=
  fun j hj => rd_estat_other e p b j (by simpa using hj)

theorem regsKept_hwUpd (e : Engine) (k : Nat) (f : Word → Word) : RegsKept [k] e (e.hwUpd k f) := fun j hj => by
  rw [rd_hwUpd, if_neg (by simpa using hj)]

/-- Bits that hardware has not set in this cycle are cleared where 1 is written (R6, R12). -/
theorem rd_w1c_unset {e : Engine} {k : Nat} (h : ∀ x ∈ e.cyc.sets, x.1 ≠ k) (m : Word) : (e.w1c k m).rd k = e.rd k &&& ~~~m := by
  have hnone : e.cyc.sets.filter (fun p => p.1 == k) = [] := List.filter_eq_nil_iff.mpr fun x hx => by simpa using h x hx
  rw [rd_w1c_same, hnone, List.foldl_nil, BitVec.not_zero, BitVec.and_allOnes]

/-! ### Writes that are stored at once -/

theorem storeReg_busy {e : Engine} {k : Nat} (hk : ringBase k = true) (hb : e.jobsBusy = true) (r : Row) (be : BitVec 4) (v : Word) :
    e.storeReg r k be v = e.estat 0x24 4 := by
  unfold storeReg
  dsimp only
  rw [if_pos (by simp [hk, hb])]

/-- A register without an effect of its own, not held by jobs or an injection, is written. -/
theorem storeReg_plain {e : Engine} {k : Nat} (hj : ringBase k = false ∨ e.jobsBusy = false) (hf : e.frozenReg k = false)
    (hb : k ≠ R.HOST_BW_CTL) (hd : k ≠ R.DIAG_CTL) (r : Row) (be : BitVec 4) (v : Word) :
    e.storeReg r k be v = e.wr k (written r k (e.rd k) (merge (beMask be) (e.rd k) v)) := by
  unfold storeReg afterWrite
  dsimp only
  rw [if_neg (by rcases hj with h | h <;> simp [h])]
  simp only [hf, hb, hd, false_and, if_false, Bool.false_eq_true]

/-! ### Writes to the shadow store -/

/-- The engine with one more write pending (R35). -/
def pends (e : Engine) (k : Nat) (v : Word) : Engine :=
  { e with tide := { e.tide with store := e.tide.store ++ [{ key := k, val := v, at' := e.time.now }] } }

theorem shadow_room {e : Engine} (h : e.tide.store.length < 256) (k : Nat) (v : Word) :
    e.shadow k v = (e.pends k v).hwUpd R.TIDE_COMMITS fun w => putf w 0 9 (max (fld w 0 9) (e.tide.store.length + 1)) := by
  unfold shadow
  rw [if_neg (by omega)]
  dsimp only
  rw [List.length_append]
  rfl

theorem shadow_room_keeps {e : Engine} (h : e.tide.store.length < 256) (k : Nat) (v : Word) :
    e.shadow k v = { e.marked (e.shadow k v) with tide := (e.pends k v).tide } ∧ RegsKept [R.TIDE_COMMITS] e (e.shadow k v) := by
  rw [shadow_room h]
  exact ⟨onlyRegs_hwUpd (e.pends k v) _ _, regsKept_hwUpd (e.pends k v) _ _⟩

/-- The largest count of pending writes is kept (R35). -/
theorem shadow_room_commits {e : Engine} (h : e.tide.store.length < 256) (k : Nat) (v : Word) :
    fld ((e.shadow k v).rd R.TIDE_COMMITS) 0 9 = max (fld (e.rd R.TIDE_COMMITS) 0 9) (e.tide.store.length + 1) := by
  rw [shadow_room h, rd_hwUpd, if_pos (Eq.refl _), fld_putf_same _ (by omega)]
  have hl := fld_lt (e.rd R.TIDE_COMMITS) 0 9
  exact Nat.mod_eq_of_lt (show max (fld (e.rd R.TIDE_COMMITS) 0 9) (e.tide.store.length + 1) < 512 by omega)

/-- An event that is pushed after registers have changed (R237). -/
theorem OnlyRegs.push {e f : Engine} (h : OnlyRegs e f) (source code prio arg : Nat) : f.push source code prio arg =
    { e.marked (f.push source code prio arg) with arriving := e.arriving ++ [e.event source code prio arg] } := by
  unfold OnlyRegs at h
  rw [h]
  rfl

theorem OnlyRegs.pushIf {e f : Engine} (h : OnlyRegs e f) (c : Bool) (source code prio arg : Nat) :
    f.pushIf c source code prio arg = { e.marked (f.pushIf c source code prio arg) with
      arriving := e.arriving ++ if c then [e.event source code prio arg] else [] } := by
  cases c with
  | false =>
    simp only [Bool.false_eq_true, if_false, List.append_nil]
    exact h
  | true => exact h.push source code prio arg

theorem rd_istat_same (e : Engine) (p b : Nat) : (e.istat p b).rd (istatKey p) = e.rd (istatKey p) ||| w32 b := by
  rw [rd_istat, if_pos (Eq.refl _)]

theorem rd_estat_same (e : Engine) (p b : Nat) : (e.estat p b).rd (estatKey p) = e.rd (estatKey p) ||| w32 b := by
  rw [rd_estat, if_pos (Eq.refl _)]

/-- A write that finds the store full is dropped, counted and told (R35). -/
theorem shadow_full {e : Engine} (h : 256 ≤ e.tide.store.length) (k : Nat) (v : Word) :
    (e.shadow k v).rd R.TIDE_DROP_CNT = bump16 (e.rd R.TIDE_DROP_CNT) ∧
    (e.shadow k v).rd R.TIDE_STAT = e.rd R.TIDE_STAT ||| 0x20000000#32 ∧
    (e.shadow k v).rd (estatKey 0x03) = e.rd (estatKey 0x03) ||| 1#32 ∧
    (e.shadow k v).rd (istatKey 0x03) = e.rd (istatKey 0x03) ||| 8#32 ∧
    RegsKept [R.TIDE_DROP_CNT, R.TIDE_STAT, estatKey 0x03, istatKey 0x03] e (e.shadow k v) ∧
    e.shadow k v = { e.marked (e.shadow k v) with arriving := e.arriving ++ [e.event 0x1 0x07 1 (k % 65536 / 256)] } := by
  have hs : e.shadow k v = ((((e.hwSet R.TIDE_STAT (w32 (2 ^ 29))).estat 0x03 1).istat 0x03 8).count R.TIDE_DROP_CNT).push
      0x1 0x07 1 (k % 65536 / 256) := by
    unfold shadow
    rw [if_pos h]
  have hr : OnlyRegs e ((((e.hwSet R.TIDE_STAT (w32 (2 ^ 29))).estat 0x03 1).istat 0x03 8).count R.TIDE_DROP_CNT) :=
    (((onlyRegs_hwSet e _ _).trans (onlyRegs_estat _ _ _)).trans (onlyRegs_istat _ _ _)).trans (onlyRegs_count _ _)
  rw [hs]
  refine ⟨?_, ?_, ?_, ?_, fun j hj => ?_, hr.push _ _ _ _⟩
  · simp (disch := decide) only [rd_push, rd_count_same, rd_istat_other, rd_estat_other, rd_hwSet_other]
  · simp (disch := decide) only [rd_push, rd_count_other, rd_istat_other, rd_estat_other, rd_hwSet_same]
    rfl
  · simp (disch := decide) only [rd_push, rd_count_other, rd_istat_other, rd_estat_same, rd_hwSet_other]
    rfl
  · simp (disch := decide) only [rd_push, rd_count_other, rd_istat_same, rd_estat_other, rd_hwSet_other]
    rfl
  · simp only [List.mem_cons, List.not_mem_nil, or_false, not_or] at hj
    obtain ⟨hcnt, hstat, hest, hist⟩ := hj
    rw [rd_push, rd_count_other _ _ _ hcnt, rd_istat_other _ _ _ _ hist, rd_estat_other _ _ _ _ hest, rd_hwSet_other _ _ _ _ hstat]

/-! ### Guarded writes -/

/-- The registers that a guarded write without a session changes: SEC_REJ_CNT, SEC_LOG and the interrupt (R340). -/
def rejected (e : Engine) (p page off slot : Nat) : Engine :=
  ((e.count R.SEC_REJ_CNT).wr R.SEC_LOG (w32 (p * 2 ^ 30 + slot * 2 ^ 28 + page * 2 ^ 20 + off / 4 * 2 ^ 14 +
    e.time.tb.toNat / 2 ^ e.tideN % 16384))).istat 0x04 16

theorem onlyRegs_rejected (e : Engine) (p page off slot : Nat) : OnlyRegs e (e.rejected p page off slot) :=
  ((onlyRegs_count e _).trans (onlyRegs_wr _ _ _)).trans (onlyRegs_istat _ _ _)

theorem rd_rejected (e : Engine) (p page off slot : Nat) :
    (e.rejected p page off slot).rd R.SEC_REJ_CNT = bump16 (e.rd R.SEC_REJ_CNT) ∧
    (e.rejected p page off slot).rd (istatKey 0x04) = e.rd (istatKey 0x04) ||| 16#32 ∧
    (e.rejected p page off slot).rd R.SEC_LOG = w32 (p * 2 ^ 30 + slot * 2 ^ 28 + page * 2 ^ 20 + off / 4 * 2 ^ 14 +
      e.time.tb.toNat / 2 ^ e.tideN % 16384) ∧
    RegsKept [R.SEC_REJ_CNT, istatKey 0x04, R.SEC_LOG] e (e.rejected p page off slot) := by
  unfold rejected
  refine ⟨?_, ?_, ?_, fun j hj => ?_⟩
  · simp (disch := decide) only [rd_count_same, rd_istat_other, rd_wr_other]
  · simp (disch := decide) only [rd_count_other, rd_istat_same, rd_wr_other]
    rfl
  · simp (disch := decide) only [rd_istat_other, rd_wr_same]
  · simp only [List.mem_cons, List.not_mem_nil, or_false, not_or] at hj
    obtain ⟨hcnt, hist, hlog⟩ := hj
    rw [rd_istat_other _ _ _ _ hist, rd_wr_other _ _ _ _ hlog, rd_count_other _ _ _ hcnt]

/-- The event of a rejected write is pushed once until it has been read (R340). -/
theorem guardReject_eq (e : Engine) (p page off slot : Nat) : e.guardReject p page off slot =
    { (e.rejected p page off slot).pushIf (!e.sec.said && e.rb R.SEC_CTL 3) 0xE 0x05 2 (p * 1024 + slot * 256 + page) with
      sec := { e.sec with said := true } } := by
  have hctl : (e.rejected p page off slot).rb R.SEC_CTL 3 = e.rb R.SEC_CTL 3 :=
    congrArg (fun w => bit w 3) ((rd_rejected e p page off slot).2.2.2 R.SEC_CTL (by decide))
  have hsec : (e.rejected p page off slot).sec = e.sec := by
    unfold rejected
    simp only [istat_sec, wr_sec, count_sec]
  have hg : e.guardReject p page off slot = if (e.rejected p page off slot).sec.said then e.rejected p page off slot else
      { (e.rejected p page off slot).pushIf ((e.rejected p page off slot).rb R.SEC_CTL 3) 0xE 0x05 2 (p * 1024 + slot * 256 + page) with
        sec.said := true } := rfl
  rw [hg, hctl, hsec]
  cases hs : e.sec.said with
  | false => simp only [pushIf_sec, hsec, Bool.not_false, Bool.true_and, Bool.false_eq_true, if_false]
  | true =>
    have hsame : { e.sec with said := true } = (e.rejected p page off slot).sec := by rw [hsec, ← hs]
    rw [hsame]
    rfl

/-- What a guarded write without a session leaves beside registers (R340). -/
theorem guardReject_keeps (e : Engine) (p page off slot : Nat) :
    e.guardReject p page off slot = { e.marked (e.guardReject p page off slot) with
      sec := { e.sec with said := true }
      arriving := e.arriving ++ if !e.sec.said && e.rb R.SEC_CTL 3 then [e.event 0xE 0x05 2 (p * 1024 + slot * 256 + page)] else [] } := by
  rw [guardReject_eq, (onlyRegs_rejected e p page off slot).pushIf]
  rfl

theorem rd_guardReject (e : Engine) (p page off slot k : Nat) :
    (e.guardReject p page off slot).rd k = (e.rejected p page off slot).rd k := by
  rw [guardReject_eq]
  exact rd_pushIf _ _ _ _ _ _ _

/-! ### Errors of a function -/

/-- b is a but for registers, the marks of the cycle, and what has been told to the host. -/
def Told (a b : Engine) : Prop := b = { a.marked b with tx := b.tx, host := b.host, job := { a.job with outQ := b.job.outQ } }

theorem Told.trans {a b c : Engine} (h : Told a b) (h' : Told b c) : Told a c := by
  unfold Told at h h'
  rw [h] at h'
  exact h'

theorem OnlyRegs.told {a b : Engine} (h : OnlyRegs a b) : Told a b := by
  unfold OnlyRegs at h
  unfold Told
  rw [h]
  rfl

theorem told_host (e : Engine) (h : HostBlk) : Told e { e with host := h } := Eq.refl _

theorem told_send (e : Engine) (t : Tx) : Told e (e.send t) := by
  unfold send emit linkWake
  repeat' split
  all_goals rfl

/-- b is a after something has been written in configuration space of a function, and perhaps told to the host. -/
def Reports (fn : Nat) (a b : Engine) : Prop := (∀ k, (∀ off, off < 0x1000 → k ≠ cfgKey fn off) → b.rd k = a.rd k) ∧ Told a b

theorem Reports.rfl (fn : Nat) (e : Engine) : Reports fn e e := ⟨fun _ _ => Eq.refl _, Eq.refl _⟩

theorem Reports.trans {fn : Nat} {a b c : Engine} (h : Reports fn a b) (h' : Reports fn b c) : Reports fn a c :=
  ⟨fun k hk => (h'.1 k hk).trans (h.1 k hk), h.2.trans h'.2⟩

theorem Reports.ite {fn : Nat} {a b c : Engine} {p : Prop} [Decidable p] (h : Reports fn a b) (h' : Reports fn a c) :
    Reports fn a (if p then b else c) := by
  split
  · exact h
  · exact h'

theorem reports_wr {fn off : Nat} (ho : off < 0x1000) (e : Engine) (v : Word) : Reports fn e (e.wr (cfgKey fn off) v) :=
  ⟨fun _ hk => rd_wr_other _ _ _ _ (hk off ho), (onlyRegs_wr e _ v).told⟩

theorem reports_hwSet {fn off : Nat} (ho : off < 0x1000) (e : Engine) (m : Word) : Reports fn e (e.hwSet (cfgKey fn off) m) :=
  ⟨fun _ hk => rd_hwSet_other _ _ _ _ (hk off ho), (onlyRegs_hwSet e _ m).told⟩

theorem reports_send (fn : Nat) (e : Engine) (t : Tx) : Reports fn e (e.send t) := ⟨fun k _ => rd_send e t k, told_send e t⟩

theorem reports_host (fn : Nat) (e : Engine) (h : HostBlk) : Reports fn e { e with host := h } := ⟨fun _ _ => Eq.refl _, told_host e h⟩

theorem reports_foldl {fn : Nat} {α : Type} {g : Engine → α → Engine} (l : List α) :
    (∀ a, ∀ x ∈ l, Reports fn a (g a x)) → ∀ a, Reports fn a (l.foldl g a) := by
  induction l with
  | nil => exact fun _ => Reports.rfl fn
  | cons x t ih =>
    intro hg a
    exact (hg a x List.mem_cons_self).trans (ih (fun a y hy => hg a y (List.mem_cons_of_mem x hy)) (g a x))

theorem reports_headerLog (fn : Nat) (e : Engine) : Reports fn e (e.headerLog fn) := by
  unfold headerLog
  extract_lets h e1
  have h1 : Reports fn e e1 := reports_foldl _ (fun a i hi => reports_wr (by rw [List.mem_range] at hi; omega) a _) e
  exact h1.trans (reports_host fn e1 _)

/-- An error that is not advisory is told in AER and in Device Status of its function (R296). -/
theorem reports_aer (fn : Nat) (e : Engine) (x : PciErr) : Reports fn e (e.aer fn x false) := by
  unfold aer
  extract_lets b fatal masked first e1 e2 e3 e4 _ _ e7 e8
  have h1 : Reports fn e e1 := reports_hwSet (by decide) e _
  have h2 : Reports fn e e2 := Reports.ite (h1.trans (reports_wr (by decide) e1 _)) h1
  have h3 : Reports fn e e3 := Reports.ite (h2.trans (reports_headerLog fn e2)) h2
  have h4 : Reports fn e e4 := Reports.ite (h3.trans (reports_hwSet (by decide) e3 _)) h3
  have h7 : Reports fn e e7 := h4.trans (reports_hwSet (by decide) e4 _)
  have h8 : Reports fn e e8 := Reports.ite (h7.trans (reports_hwSet (by decide) e7 _)) h7
  rw [Bool.false_and, if_neg Bool.false_ne_true]
  exact Reports.ite (h8.trans (reports_send fn e8 _)) h8

theorem hostErr_ur (fn : Nat) (e : Engine) :
    e.hostErr fn .ur false = (((e.count R.HOST_UR_CNT).estat 0x25 8).aer fn .ur false).lastErr fn .ur := rfl

/-- A register of a page is none of configuration space. -/
theorem ne_cfgKey {k : Nat} (h : k < 0x1000000) (fn off : Nat) : k ≠ cfgKey fn off := by unfold cfgKey; omega

theorem lastErr_eq (e : Engine) (fn : Nat) (x : PciErr) : e.lastErr fn x = ({ e with host := { e.host with
    lastErr := w32 (2 ^ 31 + fn * 2 ^ 28 + x.kind * 2 ^ 24 + e.time.tb.toNat % 2 ^ 24) } } : Engine).istat 0x25 32 := rfl

theorem lastErr_host (e : Engine) (fn : Nat) (x : PciErr) : (e.lastErr fn x).host.lastErr =
    w32 (2 ^ 31 + fn * 2 ^ 28 + x.kind * 2 ^ 24 + e.time.tb.toNat % 2 ^ 24) := by rw [lastErr_eq, istat_host]

theorem told_lastErr (e : Engine) (fn : Nat) (x : PciErr) : Told e (e.lastErr fn x) := by
  rw [lastErr_eq]
  exact (told_host e _).trans (onlyRegs_istat _ _ _).told

theorem rd_lastErr_other (e : Engine) (fn : Nat) (x : PciErr) {k : Nat} (h : k ≠ istatKey 0x25) : (e.lastErr fn x).rd k = e.rd k := by
  rw [lastErr_eq, rd_istat_other _ _ _ _ h, rd_mk, get_regs]

theorem rd_lastErr_same (e : Engine) (fn : Nat) (x : PciErr) :
    (e.lastErr fn x).rd (istatKey 0x25) = e.rd (istatKey 0x25) ||| 32#32 := by
  rw [lastErr_eq, rd_istat_same, rd_mk, get_regs]
  rfl

/-- What a function finds as Unsupported Request, where it answers nothing (R279, R296). -/
theorem unsupported_hostErr (fn : Nat) (e : Engine) : Unsupported fn e (e.hostErr fn .ur false) := by
  rw [hostErr_ur]
  obtain ⟨hrd, hm⟩ := reports_aer fn ((e.count R.HOST_UR_CNT).estat 0x25 8) .ur
  have htold : Told e (((e.count R.HOST_UR_CNT).estat 0x25 8).aer fn .ur false) :=
    ((onlyRegs_count e _).trans (onlyRegs_estat _ _ _)).told.trans hm
  generalize ((e.count R.HOST_UR_CNT).estat 0x25 8).aer fn .ur false = f at hrd htold ⊢
  have htime : f.time = e.time := by rw [htold]; rfl
  refine ⟨?_, ?_, ?_, fun k hk hc => ?_, htold.trans (told_lastErr f fn .ur)⟩
  · rw [rd_lastErr_other _ _ _ (by decide), hrd _ fun off _ => ne_cfgKey (by decide) fn off, rd_estat_other _ _ _ _ (by decide),
      rd_count_same]
  · rw [rd_lastErr_same, hrd _ fun off _ => ne_cfgKey (by decide) fn off, rd_estat_other _ _ _ _ (by decide),
      rd_count_other _ _ _ (by decide)]
  · rw [lastErr_host, htime, show PciErr.kind .ur * 2 ^ 24 = 2 ^ 24 from Nat.one_mul _]
  · simp only [List.mem_cons, List.not_mem_nil, or_false, not_or] at hk
    obtain ⟨hur, -, hes, his⟩ := hk
    rw [rd_lastErr_other _ _ _ his, hrd k hc, rd_estat_other _ _ _ _ hes, rd_count_other _ _ _ hur]

end Engine

/-- A write to a page that its port has not (R16, R279, R306). -/
theorem pageMissing_write (p : Port) (page slot : Nat) (be : BitVec 4) (v : Word) (e : Engine) :
    PageMissing p e (e.noPage { port := p, page := page, slot := slot, be := be, data := some v }) := by
  cases p with
  | f0 => exact Engine.unsupported_hostErr 0 e
  | f1 => exact Engine.unsupported_hostErr 1 e
  | i2c => exact ⟨Engine.rd_estat_same e 0x07 4, Engine.regsKept_estat e 0x07 4, Engine.onlyRegs_estat e 0x07 4⟩

end Sys2Proof.Machine
end

section
/-! PROOF. O53: register writes follow the access code of the register. -/

namespace Sys2Proof.Machine

/-! ### A port that is served at once -/

section
variable {s : State} {p : Port} (hr : s.ready p = true)
include hr

theorem State.open_of_ready : (s.eng.arrivesAt p).portOpen p = true := by
  unfold ready Engine.portReady at hr
  exact (Bool.and_eq_true _ _ ▸ hr).1

theorem State.first_of_ready : (s.eng.arrivesAt p).portFirst p = true := by
  unfold ready Engine.portReady at hr
  exact (Bool.and_eq_true _ _ ▸ hr).2

theorem State.notLost_of_ready :
    ¬((s.eng.arrivesAt p).access = false ∧ (p = .i2c ∨ (s.eng.arrivesAt p).host.up = false)) := fun h => by
  rw [Engine.access_of_portOpen (State.open_of_ready hr)] at h
  exact absurd h.1 (by decide)

theorem State.heard_of_ready : s.eng.Heard (s.eng.arrivesAt p) :=
  Engine.heard_arrivesAt (Engine.access_of_portOpen (State.open_of_ready hr))

theorem State.arrivesAt_hinge : (s.eng.arrivesAt p).hinge = s.eng.hinge := by rw [(State.heard_of_ready hr).2]

theorem State.arrivesAt_linkFree : (s.eng.arrivesAt p).linkFree false = s.eng.linkFree false := by
  rw [(State.heard_of_ready hr).2]
  rfl

theorem State.rd_serving {k : Nat} (hk : k ≠ R.SYS_WAKE_SRC) : (s.eng.serving p).rd k = s.eng.rd k :=
  (State.serving_of_ready hr).1 k (by simpa using hk)

theorem State.serving_hinge : (s.eng.serving p).hinge = s.eng.hinge := State.arrivesAt_hinge hr
theorem State.serving_time : (s.eng.serving p).time = s.eng.time := by rw [(State.serving_of_ready hr).2]
theorem State.serving_tide : (s.eng.serving p).tide = s.eng.tide := by rw [(State.serving_of_ready hr).2]
theorem State.serving_sec : (s.eng.serving p).sec = s.eng.sec := by rw [(State.serving_of_ready hr).2]
theorem State.serving_sets : (s.eng.serving p).cyc.sets = s.eng.cyc.sets := by rw [(State.serving_of_ready hr).2]

theorem State.serving_event (source code prio arg : Nat) :
    (s.eng.serving p).event source code prio arg = s.eng.event source code prio arg := by
  unfold Engine.event
  rw [State.serving_time hr]

/-- The sessions that a write finds are those of the cycle's start (R339). -/
theorem State.opens_of_ready {sl : Nat} (h1 : 1 ≤ sl) (h3 : sl ≤ 3) :
    Engine.opens ((s.eng.arrivesAt p).auth (portCode p)) sl = s.eng.sessAt (portCode p) sl := by
  rw [← (State.heard_of_ready hr).sessAt]
  obtain rfl | rfl | rfl : sl = 1 ∨ sl = 2 ∨ sl = 3 := by omega
  all_goals rfl

end

/-! ### A write that is served at once -/

/-- The access of a REGISTER_WRITE. -/
def writing (p : Port) (page slot : Nat) (be : BitVec 4) (v : Word) : RegAccess :=
  { port := p, page := page, slot := slot, be := be, data := some v }

theorem exec_registerWrite (s : State) (p : Port) (page slot : Nat) (be : BitVec 4) (v : Word) :
    exec (.registerWrite p page slot be v) s = doneS (s.access (writing p page slot be v)) := rfl

/-- A write without an enabled byte does nothing (R275). -/
theorem write_disabled {s : State} {p : Port} {page slot : Nat} {be : BitVec 4} {v : Word} (hb : be = 0#4)
    (hf : (s.eng.arrivesAt p).portFirst p = true) : Leaves (.registerWrite p page slot be v) s (s.eng.arrivesAt p) := by
  have hx := exec_registerWrite s p page slot be v
  by_cases hl : (s.eng.arrivesAt p).access = false ∧ (p = .i2c ∨ (s.eng.arrivesAt p).host.up = false)
  · exact leaves_lost hx hl
  · exact leaves_done hx hl hf (State.attempt_disabled (Eq.refl _) hb) (Eq.refl _)

section
variable {s : State} {p : Port} {page slot : Nat} {be : BitVec 4} {v : Word} (hr : s.ready p = true) (hb : be ≠ 0#4)
include hr

theorem leaves_write_done {e : Engine} (ht : { s with eng := s.eng.arrivesAt p }.attempt
      ((s.eng.arrivesAt p).asks (writing p page slot be v)) (writing p page slot be v) = ({ s with eng := e }, .done none)) :
    Leaves (.registerWrite p page slot be v) s e :=
  leaves_done (exec_registerWrite s p page slot be v) (State.notLost_of_ready hr) (State.first_of_ready hr) ht (Eq.refl _)

theorem leaves_write_waits {e : Engine} {sent : Option Nat} (ht : { s with eng := s.eng.arrivesAt p }.attempt
      ((s.eng.arrivesAt p).asks (writing p page slot be v)) (writing p page slot be v) = ({ s with eng := e }, .waits sent)) :
    Leaves (.registerWrite p page slot be v) s (e.hold { (s.eng.arrivesAt p).asks (writing p page slot be v) with sent := sent }) :=
  leaves_waits (exec_registerWrite s p page slot be v) (State.notLost_of_ready hr) (State.first_of_ready hr) ht

include hb

theorem attempt_write : State.attempt { s with eng := s.eng.arrivesAt p }
      ((s.eng.arrivesAt p).asks (writing p page slot be v)) (writing p page slot be v) =
    if !portHas (portCode p) page then
      ({ s with eng := (s.eng.arrivesAt p).noPage (writing p page slot be v) }, .done none)
    else if isCliff page then
      if Engine.linkLost (s.eng.arrivesAt p).hinge.c then ({ s with eng := s.eng.serving p }, .done none)
      else if !(s.eng.arrivesAt p).linkFree false then ({ s with eng := s.eng.arrivesAt p }, .waits none)
      else ({ s with
          eng := (s.eng.serving p).linkPut false true
            (some (.access (writing p page slot be v) ((s.eng.arrivesAt p).auth (portCode p)))) },
        .waits (some (s.eng.arrivesAt p).hinge.c.head.next))
    else ({ s with eng := s.eng.serving p }.writeAs ((s.eng.arrivesAt p).auth (portCode p)) (portCode p) page slot be v, .done none) :=
  State.attempt_goes (s := { s with eng := s.eng.arrivesAt p }) (Eq.refl _) hb (State.open_of_ready hr)
    (Engine.popWaits_write _ p page slot be v)

/-- A page that the port has not is an error (R16). -/
theorem write_pageMissing (hp : portHas (portCode p) page = false) :
    Does (.registerWrite p page slot be v) s (PageMissing p (s.eng.arrivesAt p)) :=
  ⟨_, leaves_write_done hr (by rw [attempt_write hr hb, hp]; rfl), pageMissing_write p page slot be v _⟩

/-- Over a link that is lost a write does nothing (R18). -/
theorem write_linkLost (hp : portHas (portCode p) page = true) (hc : isCliff page = true)
    (hl : Engine.linkLost s.eng.hinge.c = true) : Leaves (.registerWrite p page slot be v) s (s.eng.serving p) := by
  exact leaves_write_done hr (by rw [attempt_write hr hb, hp, hc, State.arrivesAt_hinge hr, hl]; rfl)

/-- Outside Cliff a write takes effect under the access code of the register. -/
theorem leaves_write (hp : portHas (portCode p) page = true) (hc : isCliff page = false) {e : Engine}
    (hw : { s with eng := s.eng.serving p }.writeAs ((s.eng.arrivesAt p).auth (portCode p)) (portCode p) page slot be v =
      { s with eng := e }) : Leaves (.registerWrite p page slot be v) s e :=
  leaves_write_done hr (by rw [attempt_write hr hb, hp, hc, hw]; rfl)

/-- A write to Cliff waits while the link takes no frame (R330). -/
theorem write_linkBusy (hp : portHas (portCode p) page = true) (hc : isCliff page = true)
    (hl : Engine.linkLost s.eng.hinge.c = false) (hf : s.eng.linkFree false = false) :
    Leaves (.registerWrite p page slot be v) s
      ((s.eng.arrivesAt p).hold ((s.eng.arrivesAt p).asks (writing p page slot be v))) := by
  exact leaves_write_waits hr (by rw [attempt_write hr hb, hp, hc, State.arrivesAt_hinge hr, hl, State.arrivesAt_linkFree hr, hf]; rfl)

/-- A write to Cliff goes out in a frame of its own, and waits for it (R18, R324). -/
theorem write_linkFree (hp : portHas (portCode p) page = true) (hc : isCliff page = true)
    (hl : Engine.linkLost s.eng.hinge.c = false) (hf : s.eng.linkFree false = true) :
    Leaves (.registerWrite p page slot be v) s
      (Engine.hold ((s.eng.serving p).linkPut false true
          (some (.access (writing p page slot be v) ((s.eng.arrivesAt p).auth (portCode p)))))
        { (s.eng.arrivesAt p).asks (writing p page slot be v) with sent := some s.eng.hinge.c.head.next }) := by
  exact leaves_write_waits hr (by rw [attempt_write hr hb, hp, hc, State.arrivesAt_hinge hr, hl, State.arrivesAt_linkFree hr, hf]; rfl)

end

/-- A frame that a link with room for it takes is sent at once (R327). -/
theorem Engine.linkPut_free {e : Engine} (hl : linkLost e.hinge.c = false) (hf : e.linkFree false = true) (op : Option HingeOp) :
    e.linkPut false true op = { e with hinge := { e.hinge with c := { e.hinge.c with
      last := e.time.now
      head := { e.hinge.c.head with
        queue := [], next := (e.hinge.c.head.next + 1) % 256
        out := e.hinge.c.head.out ++ [{ seq := e.hinge.c.head.next % 256, sent := e.time.now, op := op }] } } } } := by
  unfold linkFree hlink at hf
  simp only [Bool.and_eq_true, decide_eq_true_eq, beq_iff_eq, List.isEmpty_iff, Bool.false_eq_true, if_false] at hf
  obtain ⟨⟨htrained, hroom⟩, hqueue⟩ := hf
  have hmin : min (32 - e.hinge.c.head.out.length) 1 = 1 := by omega
  unfold linkPut
  rw [if_neg (by simp [hlink, hl])]
  simp [linkFlush, linkOpen, hlink, setLink, setEnd, LinkEnd.flush, htrained, hqueue, hmin]

theorem State.serving_linkPut {s : State} {p : Port} (hr : s.ready p = true) (hl : Engine.linkLost s.eng.hinge.c = false)
    (hf : s.eng.linkFree false = true) (op : Option HingeOp) : (s.eng.serving p).linkPut false true op =
      { s.eng.serving p with hinge := { (s.eng.serving p).hinge with c := { s.eng.hinge.c with
        last := s.eng.time.now
        head := { s.eng.hinge.c.head with
          queue := [], next := (s.eng.hinge.c.head.next + 1) % 256
          out := s.eng.hinge.c.head.out ++ [{ seq := s.eng.hinge.c.head.next % 256, sent := s.eng.time.now, op := op }] } } } } := by
  have hl' : Engine.linkLost (s.eng.serving p).hinge.c = false := by rw [State.serving_hinge hr]; exact hl
  rw [Engine.linkPut_free hl' ((State.arrivesAt_linkFree hr).trans hf)]
  simp only [State.serving_hinge hr, State.serving_time hr]

/-! ### The effect of a write by access code -/

section
variable {s : State} {p page slot : Nat} {be : BitVec 4} {v : Word} {r : Row} (auth : List Bool)
  (hrow : row? page slot = some r) (hb : be ≠ 0#4)
include hrow hb

theorem State.writeAs_rw (ha : r.acc = .rw) : s.writeAs auth p page slot be v =
    { s with eng := s.eng.storeReg r (s.eng.keyAt page slot) be (v &&& beMask be) } := by
  unfold writeAs
  simp only [hrow, ha, if_neg hb]

theorem State.writeAs_rws (ha : r.acc = .rws) : s.writeAs auth p page slot be v =
    { s with eng := s.eng.shadowWrite r (s.eng.keyAt page slot) be v } := by
  unfold writeAs
  simp only [hrow, ha, if_neg hb]

theorem State.writeAs_rwk {sl : Nat} {shadowed : Bool} (ha : r.acc = .rwk sl shadowed) : s.writeAs auth p page slot be v =
    { s with eng := s.eng.guarded auth p r page slot be v sl shadowed } := by
  unfold writeAs
  simp only [hrow, ha, if_neg hb]

theorem State.writeAs_w1c (ha : r.acc = .w1c) : s.writeAs auth p page slot be v =
    { s with eng := s.eng.w1c (page * 256 + slot) (v &&& beMask be &&& r.mask) } := by
  unfold writeAs
  simp only [hrow, ha, if_neg hb]

end

/-- A slot without a register, and one that only hardware writes, leaves a write without effect (R6, R11). -/
theorem State.writeAs_readOnly (s : State) (auth : List Bool) (p page slot : Nat) (be : BitVec 4) (v : Word)
    (h : row? page slot = none ∨ ∃ r, row? page slot = some r ∧ (r.acc = .ro ∨ r.acc = .rc ∨ r.acc = .rl)) :
    s.writeAs auth p page slot be v = s := by
  unfold writeAs
  rcases h with h | ⟨r, h, ha | ha | ha⟩
  · simp only [h]
  all_goals simp only [h, ha, ite_self]

theorem Engine.shadowWrite_eq {e : Engine} {k : Nat} (h : calReserved k = false) (r : Row) (be : BitVec 4) (v : Word) :
    e.shadowWrite r k be v =
      e.shadow k ((if be = 15#4 then v else merge (beMask be) ((e.pendingVal k).getD (e.rd k)) v) &&& r.mask) := by
  unfold shadowWrite
  rw [if_neg (by simp [h])]

theorem Engine.guarded_closed {e : Engine} {auth : List Bool} {sl : Nat} (h : opens auth sl = false) {r : Row} {be : BitVec 4}
    (hm : r.mask &&& beMask be ≠ 0#32) (p page slot : Nat) (v : Word) (shadowed : Bool) :
    e.guarded auth p r page slot be v sl shadowed = e.guardReject p page slot sl := by
  unfold guarded
  rw [if_neg (by simp [h]), if_neg hm]

theorem Engine.keyAt_touchSess (e : Engine) (p sl page slot : Nat) : (e.touchSess p sl).keyAt page slot = e.keyAt page slot := by
  unfold keyAt rf
  simp only [rd_touchSess]

theorem Engine.guarded_open {e : Engine} {auth : List Bool} {sl : Nat} (h : opens auth sl = true) (r : Row) (be : BitVec 4)
    (p page slot : Nat) (v : Word) : e.guarded auth p r page slot be v sl true =
      (e.touchSess p sl).shadowWrite r (e.keyAt page slot) be v := by
  unfold guarded
  rw [if_pos h]
  dsimp only
  rw [if_pos (Eq.refl _), keyAt_touchSess]

/-! ### The clauses of O53 -/

section
variable {s : State} {p : Port} {page slot : Nat} {be : BitVec 4} {v : Word} {r : Row}
  (hr : s.ready p = true) (hc : isCliff page = false) (hrow : row? page slot = some r) (hb : be ≠ 0#4)
  (hp : portHas (portCode p) page = true)
include hr hc hrow hb hp

/-- The base of a job ring keeps its value while a job is READY, FETCHED or ACTIVE (R246). -/
theorem write_ringBase (ha : r.acc = .rw) (hk : Engine.ringBase ((s.eng.serving p).keyAt page slot) = true)
    (hj : (s.eng.serving p).jobsBusy = true) : Does (.registerWrite p page slot be v) s fun e =>
      e.rd (estatKey 0x24) = s.eng.rd (estatKey 0x24) ||| 4#32 ∧ RegsKept [estatKey 0x24] (s.eng.serving p) e ∧
      e = (s.eng.serving p).marked e := by
  refine ⟨(s.eng.serving p).estat 0x24 4, leaves_write hr hb hp hc ?_, ?_, Engine.regsKept_estat _ _ _, Engine.onlyRegs_estat _ _ _⟩
  · rw [State.writeAs_rw _ hrow hb ha, Engine.storeReg_busy hk hj]
  · rw [Engine.rd_estat_same, State.rd_serving hr (by decide)]
    rfl

/-- A register without a boundary of its own takes the enabled bytes at once (R6, R9, R10). -/
theorem write_stored (ha : r.acc = .rw)
    (hj : Engine.ringBase ((s.eng.serving p).keyAt page slot) = false ∨ (s.eng.serving p).jobsBusy = false)
    (hf : (s.eng.serving p).frozenReg ((s.eng.serving p).keyAt page slot) = false)
    (hbw : (s.eng.serving p).keyAt page slot ≠ R.HOST_BW_CTL) (hd : (s.eng.serving p).keyAt page slot ≠ R.DIAG_CTL) :
    let f := s.eng.serving p
    let k := f.keyAt page slot
    let m := r.mask &&& beMask be
    Does (.registerWrite p page slot be v) s fun e =>
      (badFields k (f.rd k &&& ~~~m &&& r.mask ||| v &&& m) = [] → e.rd k = f.rd k &&& ~~~m ||| v &&& m) ∧
      RegsKept [k] f e ∧ e = f.marked e := by
  intro f k m
  refine ⟨f.wr k (written r k (f.rd k) (merge (beMask be) (f.rd k) (v &&& beMask be))), leaves_write hr hb hp hc ?_, fun hfields => ?_,
    Engine.regsKept_wr _ _ _, Engine.onlyRegs_wr _ _ _⟩
  · rw [State.writeAs_rw _ hrow hb ha, Engine.storeReg_plain hj hf hbw hd]
  · rw [Engine.rd_wr_same, written_enabled f hrow hc ha hfields]

/-- Writing 1 clears bits that hardware has not set in this cycle (R6, R12). -/
theorem write_cleared (ha : r.acc = .w1c) (hset : ∀ x ∈ s.eng.cyc.sets, x.1 ≠ (s.eng.serving p).keyAt page slot) :
    let f := s.eng.serving p
    let k := f.keyAt page slot
    let m := r.mask &&& beMask be
    Does (.registerWrite p page slot be v) s fun e =>
      e.rd k = f.rd k &&& ~~~(v &&& m) ∧ RegsKept [k] f e ∧ e = f.marked e := by
  intro f k m
  have hk : page * 256 + slot = k := by
    simp only [k, Engine.keyAt, windowOf_w1c hrow hc ha]
  have hm : v &&& beMask be &&& r.mask = v &&& m := by rw [BitVec.and_assoc, BitVec.and_comm (beMask be)]
  refine ⟨f.w1c k (v &&& m), leaves_write hr hb hp hc ?_, ?_, fun j hj => ?_, Engine.onlyRegs_w1c _ _ _⟩
  · rw [State.writeAs_w1c _ hrow hb ha, hk, hm]
  · exact Engine.rd_w1c_unset (by rw [State.serving_sets hr]; exact hset) _
  · exact Engine.rd_w1c_other _ _ _ _ (by simpa using hj)

/-- A shadowed register's write waits for the boundary (R6, R35). -/
theorem write_pends (ha : r.acc = .rws) (hs : s.eng.tide.store.length < 256) :
    let f := s.eng.serving p
    let k := f.keyAt page slot
    let m := r.mask &&& beMask be
    Does (.registerWrite p page slot be v) s fun e =>
      (∃ w, w &&& m = v &&& m ∧ w &&& ~~~r.mask = 0#32 ∧
        (be ≠ 15#4 → w &&& ~~~m = (f.pendingVal k).getD (f.rd k) &&& r.mask &&& ~~~m) ∧
        e = { f.marked e with tide := { s.eng.tide with
          store := s.eng.tide.store ++ [{ key := k, val := w, at' := s.eng.time.now }] } }) ∧
      RegsKept [R.TIDE_COMMITS] f e ∧
      fld (e.rd R.TIDE_COMMITS) 0 9 = max (fld (s.eng.rd R.TIDE_COMMITS) 0 9) (s.eng.tide.store.length + 1) := by
  intro f k m
  let w := (if be = 15#4 then v else merge (beMask be) ((f.pendingVal k).getD (f.rd k)) v) &&& r.mask
  have ht : f.tide = s.eng.tide := State.serving_tide hr
  have hfs : f.tide.store.length < 256 := by rw [ht]; exact hs
  obtain ⟨hnew, hrsvd, hold⟩ := shadowed_value r.mask ((f.pendingVal k).getD (f.rd k)) v be
  obtain ⟨hrest, hregs⟩ := Engine.shadow_room_keeps hfs k w
  refine ⟨f.shadow k w, leaves_write hr hb hp hc ?_, ⟨w, hnew, hrsvd, hold, ?_⟩, hregs, ?_⟩
  · rw [State.writeAs_rws _ hrow hb ha, Engine.shadowWrite_eq (calReserved_keyAt _ hrow hc)]
  · rw [← ht, ← State.serving_time hr]
    exact hrest
  · rw [Engine.shadow_room_commits hfs, State.rd_serving hr (by decide), ht]

/-- Where 256 writes wait, one more is dropped and told (R35). -/
theorem write_dropped (ha : r.acc = .rws) (hs : 256 ≤ s.eng.tide.store.length) :
    let f := s.eng.serving p
    let k := f.keyAt page slot
    Does (.registerWrite p page slot be v) s fun e =>
      e.rd R.TIDE_DROP_CNT = bump16 (s.eng.rd R.TIDE_DROP_CNT) ∧ e.rd R.TIDE_STAT = s.eng.rd R.TIDE_STAT ||| 0x20000000#32 ∧
      e.rd (estatKey 0x03) = s.eng.rd (estatKey 0x03) ||| 1#32 ∧ e.rd (istatKey 0x03) = s.eng.rd (istatKey 0x03) ||| 8#32 ∧
      RegsKept [R.TIDE_DROP_CNT, R.TIDE_STAT, estatKey 0x03, istatKey 0x03] f e ∧
      e = { f.marked e with arriving := f.arriving ++ [s.eng.event 0x1 0x07 1 (k % 65536 / 256)] } := by
  intro f k
  have hfs : 256 ≤ f.tide.store.length := by rw [State.serving_tide hr]; exact hs
  refine ⟨f.shadow k ((if be = 15#4 then v else merge (beMask be) ((f.pendingVal k).getD (f.rd k)) v) &&& r.mask),
    leaves_write hr hb hp hc ?_, ?_⟩
  · rw [State.writeAs_rws _ hrow hb ha, Engine.shadowWrite_eq (calReserved_keyAt _ hrow hc)]
  · rw [← State.serving_event hr, ← State.rd_serving hr (k := R.TIDE_DROP_CNT) (by decide),
      ← State.rd_serving hr (k := R.TIDE_STAT) (by decide), ← State.rd_serving hr (k := estatKey 0x03) (by decide),
      ← State.rd_serving hr (k := istatKey 0x03) (by decide)]
    exact Engine.shadow_full hfs k _

/-- A guarded register keeps its value where the port had no session as the cycle began (R339, R340). -/
theorem write_rejected {sl : Nat} {sh : Bool} (ha : r.acc = .rwk sl sh) (h1 : 1 ≤ sl) (h3 : sl ≤ 3)
    (hs : s.eng.sessAt (portCode p) sl = false) (hm : r.mask &&& beMask be ≠ 0#32) :
    let f := s.eng.serving p
    Does (.registerWrite p page slot be v) s fun e =>
      e.rd R.SEC_REJ_CNT = bump16 (s.eng.rd R.SEC_REJ_CNT) ∧ e.rd (istatKey 0x04) = s.eng.rd (istatKey 0x04) ||| 16#32 ∧
      e.rd R.SEC_LOG = w32 (portCode p * 2 ^ 30 + sl * 2 ^ 28 + page * 2 ^ 20 + slot / 4 * 2 ^ 14 +
        s.eng.time.tb.toNat / 2 ^ s.eng.tideN % 16384) ∧
      RegsKept [R.SEC_REJ_CNT, istatKey 0x04, R.SEC_LOG] f e ∧
      e = { f.marked e with
        sec := { f.sec with said := true }
        arriving := f.arriving ++ if !s.eng.sec.said && s.eng.rb R.SEC_CTL 3 then
          [s.eng.event 0xE 0x05 2 (portCode p * 1024 + sl * 256 + page)] else [] } := by
  intro f
  have htide : f.tideN = s.eng.tideN := by unfold Engine.tideN Engine.rf; rw [State.rd_serving hr (by decide)]
  have hctl : f.rb R.SEC_CTL 3 = s.eng.rb R.SEC_CTL 3 := by unfold Engine.rb; rw [State.rd_serving hr (by decide)]
  obtain ⟨hcnt, hist, hlog, hkept⟩ := Engine.rd_rejected f (portCode p) page slot sl
  have hrd := Engine.rd_guardReject f (portCode p) page slot sl
  refine ⟨f.guardReject (portCode p) page slot sl, leaves_write hr hb hp hc ?_, ?_, ?_, ?_, fun j hj => (hrd j).trans (hkept j hj), ?_⟩
  · rw [State.writeAs_rwk _ hrow hb ha, Engine.guarded_closed ((State.opens_of_ready hr h1 h3).trans hs) hm]
  · rw [hrd, hcnt, State.rd_serving hr (by decide)]
  · rw [hrd, hist, State.rd_serving hr (by decide)]
  · rw [hrd, hlog, htide, State.serving_time hr]
  · rw [← State.serving_event hr, ← State.serving_sec hr, ← hctl]
    exact Engine.guardReject_keeps f (portCode p) page slot sl

/-- Under a session a guarded write waits for the boundary, and restarts the session's idle count (R339, R349). -/
theorem write_sessionPends {sl : Nat} (ha : r.acc = .rwk sl true) (h1 : 1 ≤ sl) (h3 : sl ≤ 3)
    (ho : s.eng.sessAt (portCode p) sl = true) (hs : s.eng.tide.store.length < 256) :
    let f := s.eng.serving p
    let k := f.keyAt page slot
    let m := r.mask &&& beMask be
    Does (.registerWrite p page slot be v) s fun e =>
      (∃ w, w &&& m = v &&& m ∧ e = { f.marked e with
        tide := { s.eng.tide with store := s.eng.tide.store ++ [{ key := k, val := w, at' := s.eng.time.now }] }
        sec := (f.touchSess (portCode p) sl).sec }) ∧ RegsKept [R.TIDE_COMMITS] f e := by
  intro f k m
  let g := f.touchSess (portCode p) sl
  let w := (if be = 15#4 then v else merge (beMask be) ((g.pendingVal k).getD (g.rd k)) v) &&& r.mask
  have ht : f.tide = s.eng.tide := State.serving_tide hr
  have hgs : g.tide.store.length < 256 := by rw [Engine.touchSess_tide, ht]; exact hs
  obtain ⟨hnew, -, -⟩ := shadowed_value r.mask ((g.pendingVal k).getD (g.rd k)) v be
  obtain ⟨hrest, hregs⟩ := Engine.shadow_room_keeps hgs k w
  refine ⟨g.shadow k w, leaves_write hr hb hp hc ?_, ⟨w, hnew, ?_⟩, fun j hj => (hregs j hj).trans (Engine.rd_touchSess f _ _ j)⟩
  · rw [State.writeAs_rwk _ hrow hb ha, Engine.guarded_open ((State.opens_of_ready hr h1 h3).trans ho),
      Engine.shadowWrite_eq (calReserved_keyAt _ hrow hc)]
  · rw [← ht, ← State.serving_time hr]
    exact hrest

end

/-- Settles O53: each clause by how far the access comes, and by what the access code of its register makes of it. -/
theorem registerWritesFollowTheirCode : Obligations.RegisterWritesFollowTheirCode := by
  refine ⟨fun s p page slot be v => ⟨fun hb => ?_, fun hb hf => ?_, fun hb hr => ⟨fun hp => ?_, fun hp => ⟨fun hc hro => ?_,
    fun hc hl => ?_, fun hc hl hf => ?_, fun hc hl hf => ?_⟩⟩⟩, fun s p page slot be v r hr hc hrow hb hp => ⟨fun ha hk hj => ?_,
    fun ha hj hf hbw hd => ?_, fun ha hset => ?_, fun ha hs => ?_, fun ha hs => ?_, fun sl sh ha h1 h3 hs hm => ?_,
    fun sl ha h1 h3 ho hs => ?_⟩⟩
  · exact waitsItsTurn_access (exec_registerWrite s p page slot be v) hb
  · exact write_disabled hb hf
  · exact write_pageMissing hr hb hp
  · exact leaves_write hr hb hp hc (State.writeAs_readOnly _ _ _ _ _ _ _ hro)
  · exact write_linkLost hr hb hp hc hl
  · exact write_linkBusy hr hb hp hc hl hf
  · have sent := write_linkFree (slot := slot) (v := v) hr hb hp hc hl hf
    rw [State.serving_linkPut hr hl hf] at sent
    exact sent
  · exact write_ringBase hr hc hrow hb hp ha hk hj
  · exact write_stored hr hc hrow hb hp ha hj hf hbw hd
  · exact write_cleared hr hc hrow hb hp ha hset
  · exact write_pends hr hc hrow hb hp ha hs
  · exact write_dropped hr hc hrow hb hp ha hs
  · exact write_rejected hr hc hrow hb hp ha h1 h3 hs hm
  · exact write_sessionPends hr hc hrow hb hp ha h1 h3 ho hs

end Sys2Proof.Machine
end

section
/-! PROOF. O54 fails: a read of what a pop latched waits for the pop's cycle to end before its page is looked at. -/

namespace Sys2Proof.Machine

/-- Two engines that a command may be said to leave hold the same registers. -/
theorem rd_eq_of_leaves {c : Instr} {s : State} {e f : Engine} (he : Leaves c s e) (hf : Leaves c s f) (k : Nat) :
    e.rd k = f.rd k := by
  have hs : e.settle = f.settle := congrArg State.eng (Host.Outcome.next.inj (he.symm.trans hf))
  rw [← Engine.rd_settle e, hs, Engine.rd_settle]

/-- An engine in MEASURE, reset but for a pop that function 1 has latched in this cycle. -/
def freshPopOfF1 : State :=
  { eng := { ({} : Engine) with
      sys := { phase := .run, mode := .measure }, latch := [{}, { pop := { fresh := true } }, {}] } }

/-- Function 1 has no page 0x21, yet its read of EVQ_POP_HI there waits. -/
theorem freshPopOfF1_waits : Leaves (.rlLoRead .f1 0x21 0x2C) freshPopOfF1 (freshPopOfF1.eng.hold
    (freshPopOfF1.eng.asks { port := .f1, page := 0x21, slot := 0x2C, be := 15#4, data := none })) :=
  leaves_waits (a := { port := .f1, page := 0x21, slot := 0x2C, be := 15#4, data := none }) (s := freshPopOfF1) rfl
    (by decide) (by decide) (State.attempt_waits rfl (by decide) (Or.inr (by decide)))

/-- Refutes O54: a page that a port has not is said to be an error in every state (R16), but an access to EVQ_POP_HI or
EVQ_POP_TAG in the cycle of its port's pop waits for the next (R238) before its page is looked at. The counterexample is
function 1, which has no page 0x21, reading EVQ_POP_HI with a pop of its own marked fresh: the access waits, and HOST_UR_CNT
counts nothing. Function 1 has no page to pop from, so the model is not meant to come to such a state; the statement does not
exclude it. -/
theorem not_readsClearAndLatch : ¬ Obligations.ReadsClearAndLatch := by
  intro h
  obtain ⟨reads, -⟩ := h
  obtain ⟨-, served⟩ := reads freshPopOfF1 .f1 0x21 0x2C (.rlLoRead .f1 0x21 0x2C) .rl (Or.inr ⟨rfl, rfl⟩)
  obtain ⟨-, missing, -⟩ := served (by decide)
  obtain ⟨f, hf, ⟨counted, -⟩, -⟩ := missing (by decide) (by decide)
  have kept : f.rd R.HOST_UR_CNT = freshPopOfF1.eng.rd R.HOST_UR_CNT := rd_eq_of_leaves hf freshPopOfF1_waits _
  have bumped : bump16 (freshPopOfF1.eng.rd R.HOST_UR_CNT) ≠ freshPopOfF1.eng.rd R.HOST_UR_CNT := by decide
  exact bumped (counted.symm.trans kept)

end Sys2Proof.Machine
end

section
/-! SUPPORT. What the clocks' operations are made of: marks in the records of every stream, chains of register writes, and
commands with a guard. -/

namespace Sys2Proof.Machine

namespace Engine

/-! ### Marks in every stream -/

/-- A change of a cycle's account in streams one after another touches the recorder alone. -/
theorem inCycs_eq (n : Nat) (f : CycAcc → CycAcc) (l : List Nat) : ∀ e : Engine,
    l.foldl (fun e s => e.inCyc s n f) e = { e with recb := (l.foldl (fun e s => e.inCyc s n f) e).recb } := by
  induction l with
  | nil => intro e; rfl
  | cons s t ih => intro e; rw [List.foldl_cons, ih]; rfl

theorem inAll_eq (e : Engine) (n : Nat) (f : CycAcc → CycAcc) : e.inAll n f = { e with recb := (e.inAll n f).recb } :=
  inCycs_eq n f _ e

@[simp] theorem inAll_regs (e : Engine) (n : Nat) (f : CycAcc → CycAcc) : (e.inAll n f).regs = e.regs := by
  obtain ⟨r, h⟩ : ∃ r, e.inAll n f = { e with recb := r } := ⟨_, inAll_eq e n f⟩
  rw [h]

theorem inCyc_recb {a b : Engine} (hr : a.recb = b.recb) (ht : a.time = b.time) (s n : Nat) (f : CycAcc → CycAcc) :
    (a.inCyc s n f).recb = (b.inCyc s n f).recb := by
  unfold inCyc setStream tbOf
  rw [hr, ht]

/-- What it makes of the recorder depends on the recorder and the time alone. -/
theorem inCycs_recb (n : Nat) (f : CycAcc → CycAcc) (l : List Nat) : ∀ a b : Engine, a.recb = b.recb → a.time = b.time →
    (l.foldl (fun e s => e.inCyc s n f) a).recb = (l.foldl (fun e s => e.inCyc s n f) b).recb := by
  induction l with
  | nil => intro a b hr _; exact hr
  | cons s t ih =>
    intro a b hr ht
    exact ih _ _ (inCyc_recb hr ht s n f) (by rw [inCyc_time, inCyc_time, ht])

@[simp] theorem rd_inAll (e : Engine) (n : Nat) (f : CycAcc → CycAcc) (j : Nat) : (e.inAll n f).rd j = e.rd j := by
  rw [rd_eq, rd_eq, inAll_regs]

@[simp] theorem rd_anchorAll (e : Engine) (a j : Nat) : (e.anchorAll a).rd j = e.rd j := rd_inAll e _ _ j

/-- A change of registers, or an event, does not alter what a mark makes of the recorder. -/
theorem inAll_of_same {e f : Engine} (hr : f.recb = e.recb) (ht : f.time = e.time) (n : Nat) (g : CycAcc → CycAcc) :
    f.inAll n g = { f with recb := (e.inAll n g).recb } := by
  rw [inAll_eq f, show (f.inAll n g).recb = (e.inAll n g).recb from inCycs_recb n g _ f e hr ht]

theorem OnlyRegs.anchorAll {e f : Engine} (h : OnlyRegs e f) (a : Nat) :
    f.anchorAll a = { e.marked f with recb := (e.anchorAll a).recb } := by
  have hr : f.recb = e.recb := by rw [h]; rfl
  have ht : f.time = e.time := by rw [h]; rfl
  have now : f.anchorAll a = f.inAll e.time.now fun c => { c with anchors := c.anchors ++ [a] } := by
    rw [Engine.anchorAll, ht]
  rw [now, inAll_of_same hr ht]
  exact congrArg (fun x : Engine => { x with recb := (e.anchorAll a).recb }) h

end Engine

/-! ### Registers that a chain of operations keeps -/

theorem RegsKept.trans {ks ls : List Nat} {a b c : Engine} (h : RegsKept ks a b) (h' : RegsKept ls b c) :
    RegsKept (ks ++ ls) a c := fun k hk => by
  rw [List.mem_append, not_or] at hk
  rw [h' k hk.2, h k hk.1]

/-- Operations that write no register keep what is kept. -/
theorem RegsKept.of_rd {ks : List Nat} {a b c : Engine} (h : RegsKept ks a b) (hr : ∀ k, c.rd k = b.rd k) : RegsKept ks a c :=
  fun k hk => (hr k).trans (h k hk)

namespace Engine

theorem regsKept_hwSet (e : Engine) (k : Nat) (m : Word) : RegsKept [k] e (e.hwSet k m) :=
  fun j hj => rd_hwSet_other e k j m (by simpa using hj)

theorem regsKept_istat (e : Engine) (p b : Nat) : RegsKept [istatKey p] e (e.istat p b) := regsKept_hwSet e _ _

theorem regsKept_count (e : Engine) (k : Nat) : RegsKept [k] e (e.count k) := regsKept_hwUpd e k _

end Engine

/-- What a meaning that acts where its guard holds leaves there. Give g and f, and rfl for h. -/
theorem leaves_guarded {c : Instr} {s : State} (g : Engine → Bool) (f : Engine → Engine)
    (h : exec c s = done s fun e => if g e then f e else e) (hg : g s.eng = true) : Leaves c s (f s.eng) := by
  obtain ⟨e, he, rfl⟩ := does_guarded (p := (· = f s.eng)) g f h hg rfl
  exact he

end Sys2Proof.Machine
end

section
/-! PROOF. O9: the monitor windows and the loss of the reference, with the way into holdover that O10 shares. -/

namespace Sys2Proof.Machine
namespace Engine

/-! ### Into holdover -/

/-- Holdover is entered and counted as a loss (R25, R65). -/
def lossCounted (e : Engine) : Engine := (e.enterHoldover.count R.CLK_LOSS_CNT).wr R.CLK_HOLD_TIDES 0#32

theorem onlyRegs_lossCounted (e : Engine) : OnlyRegs e.enterHoldover e.lossCounted :=
  (onlyRegs_count _ _).trans (onlyRegs_wr _ _ _)

theorem regsKept_lossCounted (e : Engine) : RegsKept [R.CLK_LOSS_CNT, R.CLK_HOLD_TIDES] e e.lossCounted :=
  (regsKept_count e.enterHoldover _).trans (regsKept_wr _ _ _)

theorem rd_lossCounted (e : Engine) :
    e.lossCounted.rd R.CLK_LOSS_CNT = bump16 (e.rd R.CLK_LOSS_CNT) ∧ e.lossCounted.rd R.CLK_HOLD_TIDES = 0#32 :=
  ⟨(rd_wr_other _ _ _ _ (by decide)).trans (rd_count_same _ _), rd_wr_same _ _ _⟩

/-- The event of a loss (R25, R65). -/
def lossEvent (e : Engine) : Event := e.event 0x1 0x03 0 (if e.clk.srcActive then 1 else 0)

/-- The loss of the reference (R25). -/
theorem refLoss_spec (e : Engine) :
    e.refLoss.rd R.CLK_LOSS_CNT = bump16 (e.rd R.CLK_LOSS_CNT) ∧ e.refLoss.rd R.CLK_HOLD_TIDES = 0#32 ∧
    e.refLoss.rd (istatKey 0x02) = e.rd (istatKey 0x02) ||| 1#32 ∧
    RegsKept [R.CLK_LOSS_CNT, R.CLK_HOLD_TIDES, istatKey 0x02] e e.refLoss ∧
    e.refLoss = { e.marked e.refLoss with
      clk := e.enterHoldover.clk, recb := (e.anchorAll 0x001).recb, arriving := e.arriving ++ [e.lossEvent] } := by
  have only : OnlyRegs e.enterHoldover (e.lossCounted.istat 0x02 1) := (onlyRegs_lossCounted e).trans (onlyRegs_istat _ _ _)
  have kept := (regsKept_lossCounted e).trans (regsKept_istat _ 0x02 1)
  have loss : e.refLoss = ((e.lossCounted.istat 0x02 1).anchorAll 0x001).push 0x1 0x03 0 (if e.clk.srcActive then 1 else 0) := rfl
  have rd_loss (k : Nat) : e.refLoss.rd k = (e.lossCounted.istat 0x02 1).rd k := by rw [loss, rd_push, rd_anchorAll]
  obtain ⟨hcnt, hhold⟩ := rd_lossCounted e
  refine ⟨?_, ?_, ?_, kept.of_rd rd_loss, ?_⟩
  · rw [rd_loss, rd_istat_other _ _ _ _ (by decide), hcnt]
  · rw [rd_loss, rd_istat_other _ _ _ _ (by decide), hhold]
  · rw [rd_loss, rd_istat_same, regsKept_lossCounted e _ (by decide)]
    rfl
  · rw [loss, only.anchorAll]
    rfl

/-- The end of the wait for a lock (R65). -/
theorem lockTimeout_spec (e : Engine) :
    e.lockTimeout.rd R.CLK_LOSS_CNT = bump16 (e.rd R.CLK_LOSS_CNT) ∧ e.lockTimeout.rd R.CLK_HOLD_TIDES = 0#32 ∧
    RegsKept [R.CLK_LOSS_CNT, R.CLK_HOLD_TIDES] e e.lockTimeout ∧
    e.lockTimeout = { e.marked e.lockTimeout with
      clk := e.enterHoldover.clk, arriving := e.arriving ++ [e.lossEvent] } := by
  have late : e.lockTimeout = e.lossCounted.push 0x1 0x03 0 (if e.clk.srcActive then 1 else 0) := rfl
  have rd_late (k : Nat) : e.lockTimeout.rd k = e.lossCounted.rd k := by rw [late, rd_push]
  obtain ⟨hcnt, hhold⟩ := rd_lossCounted e
  exact ⟨(rd_late _).trans hcnt, (rd_late _).trans hhold, (regsKept_lossCounted e).of_rd rd_late,
    (onlyRegs_lossCounted e).push _ _ _ _⟩

/-! ### Monitor windows -/

/-- The verdict of a window alone (R25). -/
def windowed (e : Engine) (n alt : Nat) : Engine :=
  let bad := windowFails (e.expectEdges (e.rb R.CLK_CTL 0)) n
  { e with clk := { e.clk with
    refPresent := !bad, altPresent := !windowFails (e.expectEdges (!e.rb R.CLK_CTL 0)) alt, failed := bad
    good := if bad then 0 else e.clk.good, clean := if bad then false else e.clk.clean
    since := if bad then e.time.now else e.clk.since } }

/-- A window gives its verdict; the second failing one in sequence loses a reference that is followed (R25). -/
theorem monitorWindow_eq (e : Engine) (n alt : Nat) : e.monitorWindow n alt =
    if windowFails (e.expectEdges (e.rb R.CLK_CTL 0)) n && e.clk.failed && e.clk.pll == .locked then
      (e.windowed n alt).refLoss else e.windowed n alt := rfl

section
variable {e : Engine} {n alt : Nat}

theorem monitorWindow_second
    (h : windowFails (e.expectEdges (e.rb R.CLK_CTL 0)) n = true ∧ e.clk.failed = true ∧ e.clk.pll = .locked) :
    e.monitorWindow n alt = (e.windowed n alt).refLoss := by
  obtain ⟨hbad, hfailed, hlocked⟩ := h
  rw [monitorWindow_eq, if_pos (by rw [hbad, hfailed, hlocked]; rfl)]

theorem monitorWindow_alone
    (h : ¬(windowFails (e.expectEdges (e.rb R.CLK_CTL 0)) n = true ∧ e.clk.failed = true ∧ e.clk.pll = .locked)) :
    e.monitorWindow n alt = e.windowed n alt := by
  rw [monitorWindow_eq, if_neg (by simpa using h)]

end

end Engine

/-- Settles O9: the window's verdict, and where it is the second failing one the loss of the reference. -/
theorem monitorWindowJudgesTheReference : Obligations.MonitorWindowJudgesTheReference := by
  intro s n alt hcore hrun sel bad altBad clk
  have window : Leaves (.monitorWindow n alt) s (s.eng.monitorWindow n alt) :=
    leaves_guarded (fun e => e.pwr.enCore && (e.time.counting || e.sys.phase == .waking)) (·.monitorWindow n alt) rfl
      (by rcases hrun with h | h <;> simp [hcore, h])
  split
  · rename_i second
    rw [Engine.monitorWindow_second second] at window
    obtain ⟨hcnt, hhold, hist, kept, rest⟩ := (s.eng.windowed n alt).refLoss_spec
    have hclk : (s.eng.windowed n alt).enterHoldover.clk =
        { clk with pll := .holdover, start := s.eng.time.now, good := 0, clean := false, x32Valid := false } := by
      have since : clk.since = s.eng.time.now := if_pos second.1
      rw [since]
      rfl
    rw [hclk] at rest
    exact ⟨_, window, hcnt, hhold, hist, kept, rest⟩
  · rename_i notSecond
    rw [Engine.monitorWindow_alone notSecond] at window
    exact window

end Sys2Proof.Machine
end

section
/-! PROOF. O10, O11: the lock of the PLL and its timeout, the AON clock against the sample clock. -/

namespace Sys2Proof.Machine

namespace Engine

/-! ### A lock -/

/-- The PLL follows the selected source (R26). -/
def follows (e : Engine) : Engine :=
  { e with clk := { e.clk with pll := .locked, everLocked := true, srcActive := e.rb R.CLK_CTL 0 } }

/-- What a lock always does (R26). -/
def lockedOn (e : Engine) : Engine := e.follows.wr R.CLK_LOCK_LAT (w32 (stick 24 (e.time.now - e.clk.start)))

theorem pllLock_eq (e : Engine) : e.pllLock = if e.clk.pll == .holdover then
    ((e.lockedOn.istat 0x02 2).anchorAll 0x002).push 0x1 0x04 2 (if e.rb R.CLK_CTL 0 then 1 else 0) else e.lockedOn := by
  have src : (e.wr R.CLK_LOCK_LAT (w32 (stick 24 (e.time.now - e.clk.start)))).rb R.CLK_CTL 0 = e.rb R.CLK_CTL 0 :=
    congrArg (bit · 0) (rd_wr_other _ _ _ _ (by decide))
  simp only [pllLock, src]
  rfl

theorem onlyRegs_lockedOn (e : Engine) : OnlyRegs e.follows e.lockedOn := onlyRegs_wr _ _ _

theorem rd_lockedOn (e : Engine) : e.lockedOn.rd R.CLK_LOCK_LAT = w32 (stick 24 (e.time.now - e.clk.start)) := rd_wr_same _ _ _

theorem regsKept_lockedOn (e : Engine) : RegsKept [R.CLK_LOCK_LAT] e e.lockedOn := regsKept_wr e.follows _ _

/-- A lock out of holdover also tells and marks it (R26). -/
theorem pllLock_holdover {e : Engine} (h : e.clk.pll = .holdover) :
    e.pllLock.rd R.CLK_LOCK_LAT = w32 (stick 24 (e.time.now - e.clk.start)) ∧
    e.pllLock.rd (istatKey 0x02) = e.rd (istatKey 0x02) ||| 2#32 ∧
    RegsKept [R.CLK_LOCK_LAT, istatKey 0x02] e e.pllLock ∧
    e.pllLock = { e.marked e.pllLock with
      clk := e.follows.clk, recb := (e.anchorAll 0x002).recb
      arriving := e.arriving ++ [e.event 0x1 0x04 2 (if e.rb R.CLK_CTL 0 then 1 else 0)] } := by
  have lock := e.pllLock_eq
  rw [if_pos (by rw [h]; rfl)] at lock
  have only : OnlyRegs e.follows (e.lockedOn.istat 0x02 2) := (onlyRegs_lockedOn e).trans (onlyRegs_istat _ _ _)
  have kept := (regsKept_lockedOn e).trans (regsKept_istat _ 0x02 2)
  have rd_lock (k : Nat) : e.pllLock.rd k = (e.lockedOn.istat 0x02 2).rd k := by rw [lock, rd_push, rd_anchorAll]
  refine ⟨?_, ?_, kept.of_rd rd_lock, ?_⟩
  · rw [rd_lock, rd_istat_other _ _ _ _ (by decide), rd_lockedOn]
  · rw [rd_lock, rd_istat_same, regsKept_lockedOn e _ (by decide)]
    rfl
  · rw [lock, only.anchorAll]
    rfl

end Engine

/-- Settles O10: a lock by whether the PLL comes out of holdover, and the end of the wait for one. -/
theorem pllLocksOrTimesOut : Obligations.PllLocksOrTimesOut := by
  refine ⟨fun s hpll hpresent hpassed => ?_, fun s w hwake hphase hpll hlate => ?_⟩
  · have lock : Leaves .pllLock s s.eng.pllLock := by
      refine leaves_guarded Engine.lockReady Engine.pllLock rfl ?_
      unfold Engine.lockReady
      split at hpassed <;> simp [*]
    by_cases held : s.eng.clk.pll = .holdover
    · obtain ⟨hlat, hist, kept, rest⟩ := Engine.pllLock_holdover held
      exact ⟨_, lock, hlat, fun h => absurd (held.symm.trans h) (by decide), fun _ => ⟨hist, kept, rest⟩⟩
    · rw [s.eng.pllLock_eq, if_neg (by simpa using held)] at lock
      exact ⟨_, lock, s.eng.rd_lockedOn, fun _ => ⟨s.eng.regsKept_lockedOn, s.eng.onlyRegs_lockedOn⟩,
        fun h => absurd h held⟩
  · have late : Leaves .pllLockTimeout s s.eng.lockTimeout := by
      refine leaves_guarded Engine.lockLate Engine.lockTimeout rfl ?_
      unfold Engine.lockLate Engine.lockWait
      simp [*]
    exact ⟨_, late, s.eng.lockTimeout_spec⟩

/-- Settles O11: a measurement, the failure of the AON clock and its return. -/
theorem aonClockIsMeasured : Obligations.AonClockIsMeasured := by
  refine ⟨fun s ppb hlocked hok => ?_, fun s => ?_, fun s hfailed => ?_⟩
  · have measured : Leaves (.x32Measurement ppb) s { s.eng.wr R.TB_X32_ERR ppb with clk.x32Valid := true } :=
      leaves_guarded (fun e => e.clk.pll == .locked && e.clk.x32Ok)
        (fun e => { e.wr R.TB_X32_ERR ppb with clk.x32Valid := true }) rfl (by simp [hlocked, hok])
    exact ⟨_, measured, Engine.rd_wr_same _ _ _, Engine.regsKept_wr s.eng _ _, rfl⟩
  · exact does_of_done rfl ⟨Engine.rd_estat_same s.eng _ _, Engine.regsKept_estat s.eng _ _, rfl⟩
  · have returned : Leaves .x32OkRise s { s.eng.istat 0x02 4 with clk.x32Ok := true } := by
      have rise : s.eng.x32Rise = { s.eng.istat 0x02 4 with clk.x32Ok := true } := if_neg (by rw [hfailed]; decide)
      rw [← rise]
      rfl
    exact ⟨_, returned, Engine.rd_istat_same s.eng _ _, Engine.regsKept_istat s.eng _ _, rfl⟩

end Sys2Proof.Machine
end

section
/-! PROOF. O12, O13, O14: the wrap of the time base, slack water and its end. -/

namespace Sys2Proof.Machine

namespace Engine

/-! ### The wrap -/

/-- What a wrap writes (R39). -/
def epochCounted (e : Engine) : Engine :=
  (e.wr R.TB_EPOCH (if e.rf R.TB_EPOCH 0 16 = 65535 then e.rd R.TB_EPOCH ||| 0x80000000#32 else e.rd R.TB_EPOCH + 1#32)).istat
    0x05 65536

/-- What a wrap writes, with its event where it is enabled (R39). -/
def epochTold (e : Engine) : Engine :=
  e.epochCounted.pushIf (e.rb R.TB_CTL 2) 0x1 0x02 (e.rf R.TB_CTL 0 2) (e.epochCounted.rf R.TB_EPOCH 0 12)

theorem onlyRegs_epochCounted (e : Engine) : OnlyRegs e e.epochCounted := (onlyRegs_wr _ _ _).trans (onlyRegs_istat _ _ _)

theorem regsKept_epochCounted (e : Engine) : RegsKept [R.TB_EPOCH, istatKey 0x05] e e.epochCounted :=
  (regsKept_wr e _ _).trans (regsKept_istat _ _ _)

/-- The close of the open blocks, where the engine counts (R39). -/
def wrapClosed (e : Engine) : Engine :=
  if e.time.counting then e.inAll e.time.now fun c => { c with close := true } else e

theorem wrapClosed_of_same {e f : Engine} (hr : f.recb = e.recb) (ht : f.time = e.time) :
    f.wrapClosed = { f with recb := if e.time.counting then (e.inAll e.time.now fun c => { c with close := true }).recb
      else e.recb } := by
  rw [wrapClosed, congrArg TimeBlk.counting ht, congrArg TimeBlk.now ht]
  split
  · exact inAll_of_same hr ht _ _
  · rw [← hr]

theorem wrap_eq (e : Engine) : e.wrap = { e.epochTold.wrapClosed with time.wrapDue := false } := by
  have ctl : e.epochCounted.rd R.TB_CTL = e.rd R.TB_CTL := regsKept_epochCounted e _ (by decide)
  have told : e.epochTold = e.epochCounted.pushIf (e.epochCounted.rb R.TB_CTL 2) 0x1 0x02 (e.epochCounted.rf R.TB_CTL 0 2)
      (e.epochCounted.rf R.TB_EPOCH 0 12) := by
    unfold epochTold rb rf
    rw [ctl]
  rw [told]
  rfl

theorem wrap_spec (e : Engine) :
    (∀ k, e.wrap.rd k = e.epochCounted.rd k) ∧
    e.wrap = { e.marked e.wrap with
      time := { e.time with wrapDue := false }
      recb := if e.time.counting then (e.inAll e.time.now fun c => { c with close := true }).recb else e.recb
      arriving := e.arriving ++ if e.rb R.TB_CTL 2 then
        [e.event 0x1 0x02 (e.rf R.TB_CTL 0 2) (e.epochCounted.rf R.TB_EPOCH 0 12)] else [] } := by
  have told := (onlyRegs_epochCounted e).pushIf (e.rb R.TB_CTL 2) 0x1 0x02 (e.rf R.TB_CTL 0 2) (e.epochCounted.rf R.TB_EPOCH 0 12)
  have closed : e.epochTold.wrapClosed = _ :=
    wrapClosed_of_same (e := e) (by rw [epochTold, told]; rfl) (by rw [epochTold, told]; rfl)
  rw [wrap_eq, closed]
  exact ⟨fun k => rd_pushIf _ _ _ _ _ _ k, congrArg (fun x : Engine => { x with
    recb := if e.time.counting then (e.inAll e.time.now fun c => { c with close := true }).recb else e.recb
    time.wrapDue := false }) told⟩

end Engine

/-- Settles O12: the epoch and the interrupt, the event, and the close of the open blocks. -/
theorem timeBaseWrapCountsTheEpoch : Obligations.TimeBaseWrapCountsTheEpoch := by
  intro s hdue
  obtain ⟨rd_wrap, rest⟩ := s.eng.wrap_spec
  have epoch : s.eng.wrap.rf R.TB_EPOCH 0 12 = s.eng.epochCounted.rf R.TB_EPOCH 0 12 := congrArg (fld · 0 12) (rd_wrap _)
  refine does_guarded (·.time.wrapDue) Engine.wrap rfl hdue ⟨?_, ?_, s.eng.regsKept_epochCounted.of_rd rd_wrap, ?_⟩
  · rw [rd_wrap]
    exact (Engine.rd_istat_other _ _ _ _ (by decide)).trans (Engine.rd_wr_same _ _ _)
  · rw [rd_wrap]
    exact (Engine.rd_istat_same _ _ _).trans (congrArg (· ||| 0x10000#32) (Engine.rd_wr_other _ _ _ _ (by decide)))
  · rw [epoch]
    exact rest

/-! ### Slack water -/

/-- While the time base coasts the first edge of the AON clock stops the coarse count, and each further one adds (R41). -/
theorem slackWaterStep_leaves {s : State} (h : s.eng.time.coasting = true) :
    Leaves .slackWaterStep s (if s.eng.time.counting then s.eng.slackStop else s.eng.slackStep) :=
  leaves_guarded (·.time.coasting) (fun e => if e.time.counting then e.slackStop else e.slackStep) rfl h

/-- Settles O13: the first edge of the AON clock, and each further one by the mode. -/
theorem slackWaterStepAdvancesTheTimeBase : Obligations.SlackWaterStepAdvancesTheTimeBase := by
  refine ⟨fun s hcoast hcount => ?_, fun s hcoast hcount => ?_⟩
  · have edge := slackWaterStep_leaves hcoast
    rw [if_pos hcount] at edge
    exact edge
  · have edge := slackWaterStep_leaves hcoast
    rw [if_neg (by rw [hcount]; decide)] at edge
    refine ⟨fun hmode => ?_, fun hmode => ?_⟩
    · have step : s.eng.slackStep = _ := if_neg hmode
      rw [step] at edge
      exact edge
    · have step : s.eng.slackStep = _ := if_pos hmode
      rw [step] at edge
      exact edge

end Sys2Proof.Machine
end

section
/-! PROOF. O14, O20: the coarse count resumes, the rails rise and PG_IN with them. -/

namespace Sys2Proof.Machine

namespace Engine

/-! ### The report on slack water -/

/-- What a wake writes of slack water (R42). -/
def slackReported (e : Engine) : Engine :=
  ((e.wr R.TB_SLACK_LEN (w32 (stick 32 e.time.slackLen))).wr R.TB_SLACK_ERR
    (if e.time.validEntry then (slackEstimate e.time.advance e.time.errEntry).2 else 0#32)).istat 0x05 (2 ^ 17)

/-- The estimate that it writes is one. -/
def slackKnown (e : Engine) : Bool := e.time.validEntry && (slackEstimate e.time.advance e.time.errEntry).1.isSome

theorem onlyRegs_slackReported (e : Engine) : OnlyRegs e e.slackReported :=
  ((onlyRegs_wr _ _ _).trans (onlyRegs_wr _ _ _)).trans (onlyRegs_istat _ _ _)

theorem regsKept_slackReported (e : Engine) : RegsKept [R.TB_SLACK_LEN, R.TB_SLACK_ERR, istatKey 0x05] e e.slackReported :=
  ((regsKept_wr e _ _).trans (regsKept_wr _ _ _)).trans (regsKept_istat _ _ _)

theorem rd_slackReported (e : Engine) :
    e.slackReported.rd R.TB_SLACK_LEN = w32 (stick 32 e.time.slackLen) ∧
    e.slackReported.rd R.TB_SLACK_ERR = (if e.time.validEntry then (slackEstimate e.time.advance e.time.errEntry).2 else 0#32) ∧
    e.slackReported.rd (istatKey 0x05) = e.rd (istatKey 0x05) ||| 0x20000#32 := by
  unfold slackReported
  refine ⟨?_, ?_, ?_⟩
  · rw [rd_istat_other _ _ _ _ (by decide), rd_wr_other _ _ _ _ (by decide), rd_wr_same]
  · rw [rd_istat_other _ _ _ _ (by decide), rd_wr_same]
  · rw [rd_istat_same, rd_wr_other _ _ _ _ (by decide), rd_wr_other _ _ _ _ (by decide)]
    rfl

/-- Coarse counting goes on after the report. -/
theorem slackWake_eq (e : Engine) : e.slackWake = { e.slackReported.push 0x1 0x05 2 0 with
    clk.slackValid := e.slackKnown
    time := { e.time with coasting := false, counting := true, owed := 31#5, slackLen := 0, advance := 0, acc := 0 } } := by
  let r := slackEstimate e.time.advance e.time.errEntry
  let f := e.wr R.TB_SLACK_LEN (w32 (stick 32 e.time.slackLen))
  have estimate : (if e.time.validEntry then { f.wr R.TB_SLACK_ERR r.2 with clk.slackValid := r.1.isSome }
      else { f.wr R.TB_SLACK_ERR 0#32 with clk.slackValid := false }) =
      { f.wr R.TB_SLACK_ERR (if e.time.validEntry then r.2 else 0#32) with clk.slackValid := e.slackKnown } := by
    unfold slackKnown
    cases e.time.validEntry <;> rfl
  rw [slackWake, estimate]
  rfl

theorem resume_spec (e : Engine) :
    (∀ k, e.resume.rd k = e.slackReported.rd k) ∧ e.resume.clk.slackValid = e.slackKnown ∧
    e.resume = { e.marked e.resume with
      clk := { e.clk with slackValid := e.resume.clk.slackValid }
      time := { e.time with coasting := false, counting := true, owed := 31#5, slackLen := 0, advance := 0, acc := 0 }
      sys := { e.sys with wake := e.sys.wake.map fun w => { w with resumed := true } }
      arriving := e.arriving ++ [e.event 0x1 0x05 2 0] } := by
  rw [resume, slackWake_eq]
  exact ⟨fun k => Eq.refl _, Eq.refl _, rfl⟩

/-! ### The estimate -/

/-- The advance of slack water times the measured error, in cu (R42). -/
def slackProduct (adv : Nat) (ppb : Word) : Int := roundDiv ((adv : Int) * ppb.toInt) 1000000000

theorem slackEstimate_fits {adv : Nat} {ppb : Word}
    (h : -(2 ^ 31 : Int) ≤ slackProduct adv ppb ∧ slackProduct adv ppb < (2 ^ 31 : Int)) :
    slackEstimate adv ppb = (some (BitVec.ofInt 32 (slackProduct adv ppb)), BitVec.ofInt 32 (slackProduct adv ppb)) := by
  obtain ⟨low, high⟩ := h
  exact (if_neg (Int.not_lt.mpr low)).trans (if_neg (Int.not_le.mpr high))

theorem slackEstimate_beyond {adv : Nat} {ppb : Word}
    (h : ¬(-(2 ^ 31 : Int) ≤ slackProduct adv ppb ∧ slackProduct adv ppb < (2 ^ 31 : Int))) :
    slackEstimate adv ppb = (none, if slackProduct adv ppb < 0 then 0x80000000#32 else 0x7FFFFFFF#32) := by
  change (if slackProduct adv ppb < -(2 ^ 31 : Int) then (none, 0x80000000#32)
    else if (2 ^ 31 : Int) ≤ slackProduct adv ppb then (none, 0x7FFFFFFF#32) else _) = _
  by_cases low : slackProduct adv ppb < -(2 ^ 31 : Int)
  · rw [if_pos low, if_pos (by omega)]
  · rw [if_neg low, if_pos (by omega), if_neg (by omega)]

end Engine

/-- Settles O14: the report on slack water by whether a measurement was valid and its estimate fits, and what goes on. -/
theorem coarseCountResumes : Obligations.CoarseCountResumes := by
  intro s w hwake hphase hresumed hpll t v fits
  have resume : Leaves .coarseCountResume s s.eng.resume := by
    refine leaves_guarded Engine.canResume Engine.resume rfl ?_
    unfold Engine.canResume
    simp [*]
  obtain ⟨rd_resume, known, rest⟩ := s.eng.resume_spec
  obtain ⟨hlen, herr, hist⟩ := s.eng.rd_slackReported
  rw [hwake] at rest
  refine ⟨_, resume, (rd_resume _).trans hlen, fun valid hv => ?_, fun valid hv => ?_, fun invalid => ?_,
    (rd_resume _).trans hist, s.eng.regsKept_slackReported.of_rd rd_resume, rest⟩
  all_goals rw [rd_resume, herr, known, Engine.slackKnown]
  · rw [if_pos valid, Engine.slackEstimate_fits hv]
    exact ⟨rfl, Bool.and_eq_true_iff.mpr ⟨valid, rfl⟩⟩
  · rw [if_pos valid, Engine.slackEstimate_beyond hv]
    exact ⟨rfl, Bool.and_false _⟩
  · rw [if_neg (Bool.eq_false_iff.mp invalid)]
    exact ⟨rfl, Bool.and_eq_false_imp.mpr fun h => absurd h (Bool.eq_false_iff.mp invalid)⟩

/-! ### Rails -/

namespace Engine

theorem setRail_eq (e : Engine) (r : Rail) (on : Bool) : e.setRail r on = { e with pwr := { e.pwr with
    enCore := if r = .core then on else e.pwr.enCore
    enMem := if r = .mem then on else e.pwr.enMem
    enAna := if r = .ana then on else e.pwr.enAna
    pgIn := false, pgRisen := e.pwr.pgRisen && !on } } := by
  cases r <;> rfl

section
variable {e : Engine} {a : RailStep} {l : List RailStep} {n : Nat} (hs : e.pwr.steps = a :: l)
include hs

theorem railStep_early (hn : n < a.delay) : e.railStep n = e := by
  unfold railStep
  rw [hs]
  exact if_pos hn

/-- The rail of the step switches, and the last one of the way up is followed by the wait for PG_IN (R67, R69). -/
theorem railStep_due (hn : a.delay ≤ n) : e.railStep n = { e with
    pwr := { (e.setRail a.rail a.level).pwr with steps := l }
    sys := { e.sys with phase := if l = [] ∧ e.sys.phase = .railsUp then .waitPg else e.sys.phase } } := by
  have switched : e.railStep n = if l.isEmpty && e.sys.phase == .railsUp then
      { e with pwr := { (e.setRail a.rail a.level).pwr with steps := l }, sys := { e.sys with phase := .waitPg } }
      else { e with pwr := { (e.setRail a.rail a.level).pwr with steps := l } } := by
    unfold railStep
    rw [hs]
    exact if_neg (Nat.not_lt.mpr hn)
  rw [switched]
  by_cases last : l = [] ∧ e.sys.phase = .railsUp
  · rw [if_pos (by simpa using last), if_pos last]
  · rw [if_neg (by simpa using last), if_neg last]

end

/-- PG_IN rises; where it was awaited boot begins and the PLL starts to acquire (R26, R69). -/
theorem powerGood_eq (e : Engine) : e.powerGood = { e with
    pwr := { e.pwr with pgIn := true, pgRisen := true }
    sys := { e.sys with phase := if e.sys.phase = .waitPg then .boot else e.sys.phase }
    clk := { e.clk with
      pll := if e.sys.phase = .waitPg then .acquiring else e.clk.pll
      start := if e.sys.phase = .waitPg then e.time.now else e.clk.start
      since := if e.sys.phase = .waitPg then e.time.now else e.clk.since } } := by
  by_cases awaited : e.sys.phase = .waitPg
  · simp only [awaited, if_true]
    exact if_pos awaited
  · simp only [awaited, if_false]
    exact if_neg awaited

end Engine

/-- Settles O20: a rail by its delay, and the rise of PG_IN. -/
theorem railsRiseAndPowerGood : Obligations.RailsRiseAndPowerGood := by
  refine ⟨fun s a l n hsteps => ⟨fun hearly => ?_, fun hdue => ?_⟩, fun s hcore hmem hana hsteps hlow => ?_⟩
  · have step : Leaves (.railSequenceStep n) s (s.eng.railStep n) := rfl
    rw [Engine.railStep_early hsteps hearly] at step
    exact step
  · have step : Leaves (.railSequenceStep n) s (s.eng.railStep n) := rfl
    rw [Engine.railStep_due hsteps hdue, Engine.setRail_eq] at step
    exact step
  · have rises : Leaves .powerGood s s.eng.powerGood := by
      refine leaves_guarded (fun e => e.railsHigh && !e.pwr.pgIn) Engine.powerGood rfl ?_
      simp [Engine.railsHigh, *]
    rw [Engine.powerGood_eq] at rises
    exact rises

end Sys2Proof.Machine
end

section
/-! PROOF. O15: what a compare channel does when it fires. -/

namespace Sys2Proof.Machine

/-- An update of an entry that exists puts its new value in its place. -/
theorem upd_eq_set {α : Type} {l : List α} {i : Nat} {a : α} (h : l[i]? = some a) (f : α → α) : upd l i f = l.set i (f a) := by
  obtain ⟨hi, rfl⟩ := List.getElem?_eq_some_iff.mp h
  refine List.ext_getElem? fun j => ?_
  rw [upd, List.getElem?_modify, List.getElem?_set]
  by_cases hj : i = j
  · subst hj
    simp only [if_true, hi, h, Option.map_eq_map, Option.map_some]
  · simp only [hj, if_false, Option.map_eq_map, Option.map_id']

namespace Engine

/-! ### What the sequencer and the wake sources see -/

theorem setSeen_of_same {e f : Engine} (hs : f.seq = e.seq) (n : Nat) (g : Seen → Seen) :
    f.setSeen n g = { f with seq := (e.setSeen n g).seq } := by
  unfold setSeen
  rw [hs]
  split
  · rfl
  · rw [← hs]

/-- Out of sleep, and on no way into it, a wake source does nothing (R63). -/
theorem wakeSource_awake {e : Engine} (hm : e.sys.mode.isSleep = false) (ht : e.sys.trans = none) (i : Nat) :
    e.wakeSource i = e := by
  unfold wakeSource
  rw [if_neg (by rw [hm]; decide), ht]

theorem OnlyRegs.withTime {e f : Engine} (h : OnlyRegs e f) (t : TimeBlk) : OnlyRegs { e with time := t }
    { f with time := t } := by
  unfold OnlyRegs at h
  rw [h]
  rfl

/-! ### The registers of a fire -/

/-- The keys of a channel's own registers are not those that a fire shares with other channels. -/
theorem channelKeys (k : Fin 16) : win R.TB_CMP_HI k ≠ R.TB_CMP_LATE ∧ win R.TB_CMP_RLD k ≠ R.TB_CMP_LATE ∧
    (∀ j ∈ [istatKey 0x05, R.TB_CMP_LATE, R.TB_CMP_EN], j ≠ R.TB_FT0 + 4 * k) ∧
    ∀ j ∈ [R.TB_EVT_EN, R.TB_EVT_PRIO], j ∉ [R.TB_FT0 + 4 * k, istatKey 0x05, R.TB_CMP_LATE, R.TB_CMP_EN] := by
  revert k
  decide

section
variable (e : Engine) (k : Fin 16)

/-- A fire past its value is marked late (R45). -/
def fireLate : Engine :=
  if e.time.tb = (e.time.chans.getD k {}).val then e else e.hwSet R.TB_CMP_LATE (w32 (2 ^ k.val))

/-- A periodic channel moves on, another is disabled (R44). -/
def fireMoved : Engine :=
  let f := e.fireLate k
  if f.rb (win R.TB_CMP_HI k) 31 then f.chanAdd k else f.wr R.TB_CMP_EN (f.rd R.TB_CMP_EN &&& ~~~w32 (2 ^ k.val))

/-- The fire time and the interrupt (R45). -/
def fireTold : Engine :=
  ((e.fireMoved k).wr (R.TB_FT0 + 4 * k) ((e.fireMoved k).time.tb.setWidth 32)).istat 0x05 (2 ^ k.val)

/-- The event of a fire, where it is enabled (R45). -/
def fireSaid : Engine := (e.fireTold k).pushIf (e.rb R.TB_EVT_EN k) 0x1 0x01 (e.rf R.TB_EVT_PRIO (2 * k) 2) k

theorem onlyRegs_fireLate : OnlyRegs e (e.fireLate k) := by
  unfold fireLate
  split
  · rfl
  · exact onlyRegs_hwSet _ _ _

theorem rd_fireLate (j : Nat) : (e.fireLate k).rd j = if j = R.TB_CMP_LATE then
    (if e.time.tb = (e.time.chans.getD k {}).val then e.rd R.TB_CMP_LATE else e.rd R.TB_CMP_LATE ||| w32 (2 ^ k.val))
    else e.rd j := by
  unfold fireLate
  split
  · split
    · rename_i h; rw [h]
    · rfl
  · exact rd_hwSet _ _ _ _

/-- The channel moves on by its reload where it is periodic (R44). -/
def chanMoved (c : Chan) : Engine :=
  let val := c.val + (e.rd (win R.TB_CMP_RLD k)).setWidth 56
  let next := { c with val := val, catching := decide ((e.time.tb - val).toNat < 2 ^ 55) }
  { e with time := { e.time with chans := if e.rb (win R.TB_CMP_HI k) 31 then e.time.chans.set k next else e.time.chans } }

theorem fireLate_periodic : (e.fireLate k).rb (win R.TB_CMP_HI k) 31 = e.rb (win R.TB_CMP_HI k) 31 := by
  obtain ⟨hi, -, -⟩ := channelKeys k
  rw [rb, rd_fireLate, if_neg hi]
  rfl

theorem onlyRegs_fireMoved {c : Chan} (hc : e.time.chans[k.val]? = some c) : OnlyRegs (e.chanMoved k c) (e.fireMoved k) := by
  obtain ⟨-, rld, -⟩ := channelKeys k
  have late := e.onlyRegs_fireLate k
  have reload : (e.fireLate k).rd (win R.TB_CMP_RLD k) = e.rd (win R.TB_CMP_RLD k) := by rw [rd_fireLate, if_neg rld]
  have htime : (e.fireLate k).time = e.time := by rw [late]; rfl
  rw [fireMoved, chanMoved, e.fireLate_periodic k]
  dsimp only
  split
  · rw [chanAdd, reload, htime, upd_eq_set hc]
    exact late.withTime _
  · exact late.trans (onlyRegs_wr _ _ _)

theorem rd_fireMoved_other {j : Nat} (hj : j ≠ R.TB_CMP_EN) : (e.fireMoved k).rd j = (e.fireLate k).rd j := by
  rw [fireMoved]
  split
  · rfl
  · exact rd_wr_other _ _ _ _ hj

theorem rd_fireMoved_enable : (e.fireMoved k).rd R.TB_CMP_EN =
    if e.rb (win R.TB_CMP_HI k) 31 then e.rd R.TB_CMP_EN else e.rd R.TB_CMP_EN &&& ~~~w32 (2 ^ k.val) := by
  have enabled : (e.fireLate k).rd R.TB_CMP_EN = e.rd R.TB_CMP_EN := by rw [rd_fireLate, if_neg (by decide)]
  rw [fireMoved, e.fireLate_periodic k, enabled]
  split
  · exact enabled
  · exact rd_wr_same _ _ _

theorem regsKept_fireTold : RegsKept [R.TB_FT0 + 4 * k, istatKey 0x05, R.TB_CMP_LATE, R.TB_CMP_EN] e (e.fireTold k) :=
    fun j hj => by
  simp only [List.mem_cons, List.not_mem_nil, or_false, not_or] at hj
  obtain ⟨ft, ist, late, en⟩ := hj
  rw [fireTold, rd_istat_other _ _ _ _ ist, rd_wr_other _ _ _ _ ft, rd_fireMoved_other e k en,
    rd_fireLate, if_neg late]

theorem fire_eq : e.fire k =
    { e.fireSaid k with cyc.fires := (e.fireSaid k).cyc.fires ||| BitVec.ofNat 16 (2 ^ k.val) } := by
  have kept := e.regsKept_fireTold k
  obtain ⟨-, -, -, evt⟩ := channelKeys k
  have wanted : (e.fireTold k).rb R.TB_EVT_EN k = e.rb R.TB_EVT_EN k := congrArg (bit · k) (kept _ (evt _ (by simp)))
  have prio : (e.fireTold k).rf R.TB_EVT_PRIO (2 * k) 2 = e.rf R.TB_EVT_PRIO (2 * k) 2 :=
    congrArg (fld · (2 * k) 2) (kept _ (evt _ (by simp)))
  rw [fireSaid, ← wanted, ← prio]
  rfl

section
variable {e k} {c : Chan} (hc : e.time.chans[k.val]? = some c)
include hc

theorem onlyRegs_fireTold : OnlyRegs (e.chanMoved k c) (e.fireTold k) :=
  ((onlyRegs_fireMoved e k hc).trans (onlyRegs_wr _ _ _)).trans (onlyRegs_istat _ _ _)

theorem rd_fireTold :
    (e.fireTold k).rd (R.TB_FT0 + 4 * k) = e.time.tb.setWidth 32 ∧
    (e.fireTold k).rd (istatKey 0x05) = e.rd (istatKey 0x05) ||| w32 (2 ^ k.val) ∧
    (e.fireTold k).rd R.TB_CMP_LATE = (if e.time.tb = c.val then e.rd R.TB_CMP_LATE else e.rd R.TB_CMP_LATE ||| w32 (2 ^ k.val)) ∧
    (e.fireTold k).rd R.TB_CMP_EN = (if e.rb (win R.TB_CMP_HI k) 31 then e.rd R.TB_CMP_EN
      else e.rd R.TB_CMP_EN &&& ~~~w32 (2 ^ k.val)) := by
  obtain ⟨-, -, own, -⟩ := channelKeys k
  have htime : (e.fireMoved k).time.tb = e.time.tb := by rw [onlyRegs_fireMoved e k hc]; rfl
  have hval : (e.time.chans.getD k {}).val = c.val := by rw [List.getD_eq_getElem?_getD, hc]; rfl
  unfold fireTold
  refine ⟨?_, ?_, ?_, ?_⟩
  · rw [rd_istat_other _ _ _ _ (own _ (by simp)).symm, rd_wr_same, htime]
  · rw [rd_istat_same, rd_wr_other _ _ _ _ (own _ (by simp)), rd_fireMoved_other e k (by decide), rd_fireLate, if_neg (by decide)]
  · rw [rd_istat_other _ _ _ _ (by decide), rd_wr_other _ _ _ _ (own _ (by simp)), rd_fireMoved_other e k (by decide),
      rd_fireLate, if_pos rfl, hval]
  · rw [rd_istat_other _ _ _ _ (by decide), rd_wr_other _ _ _ _ (own _ (by simp)), rd_fireMoved_enable]

end

end

/-! ### The fire as a whole -/

theorem cmpFire_spec {e : Engine} {k : Fin 16} {c : Chan} (hc : e.time.chans[k.val]? = some c)
    (hm : e.sys.mode.isSleep = false) (ht : e.sys.trans = none) :
    (∀ j, (e.cmpFire k).rd j = (e.fireTold k).rd j) ∧
    e.cmpFire k = { e.marked (e.cmpFire k) with
      cyc := { (e.marked (e.cmpFire k)).cyc with fires := e.cyc.fires ||| BitVec.ofNat 16 (2 ^ k.val) }
      time := (e.chanMoved k c).time
      seq := (e.setSeen e.time.now fun x => { x with fires := x.fires ||| BitVec.ofNat 16 (2 ^ k.val) }).seq
      arriving := e.arriving ++ if e.rb R.TB_EVT_EN k then
        [e.event 0x1 0x01 (e.rf R.TB_EVT_PRIO (2 * k) 2) k] else [] } := by
  have said : e.fireSaid k = _ := (onlyRegs_fireTold hc).pushIf _ _ _ _ _
  have fired := e.fire_eq k
  have hsys : (e.fire k).sys = e.sys := by rw [fired, said]; rfl
  have hseq : (e.fire k).seq = e.seq := by rw [fired, said]; rfl
  have awake : e.cmpFire k = _ := wakeSource_awake (i := 5) (by rw [setSeen_sys, hsys, hm]) (by rw [setSeen_sys, hsys, ht])
  rw [awake, setSeen_of_same hseq, fired]
  exact ⟨fun j => rd_pushIf _ _ _ _ _ _ j, congrArg (fun x : Engine => { x with
    cyc.fires := x.cyc.fires ||| BitVec.ofNat 16 (2 ^ k.val)
    seq := (e.setSeen e.time.now fun x => { x with fires := x.fires ||| BitVec.ofNat 16 (2 ^ k.val) }).seq }) said⟩

end Engine

/-- Settles O15: the registers of the fire, and what it leaves of the rest. -/
theorem compareChannelFires : Obligations.CompareChannelFires := by
  intro s k c hc hcatch hcount hmode htrans hen hdue hfires hfresh periodic val next
  have hget : s.eng.time.chans.getD k {} = c := by rw [List.getD_eq_getElem?_getD, hc]; rfl
  have fires : s.eng.canFire k = true := by
    unfold Engine.canFire Engine.chanOn Engine.due
    rw [hget, hcount, hen, decide_eq_true hdue, hcatch, hfires, hfresh]
    rfl
  obtain ⟨rd_fire, rest⟩ := Engine.cmpFire_spec hc hmode htrans
  obtain ⟨hft, hist, hlate, hdis⟩ := Engine.rd_fireTold hc
  exact does_guarded (Engine.canFire · k) (Engine.cmpFire · k) rfl fires ⟨(rd_fire _).trans hft, (rd_fire _).trans hist,
    (rd_fire _).trans hlate, (rd_fire _).trans hdis, (s.eng.regsKept_fireTold k).of_rd rd_fire, rest⟩

end Sys2Proof.Machine
end

section
/-! PROOF. O2: a step on an empty queue is one coarse cycle. -/

namespace Sys2Proof.Machine

/-! ### Where no port's request waits -/

theorem State.servePort_none {s : State} (h : s.eng.host.held = []) (p : Port) (n : Nat) : s.servePort p n = s := by
  cases n with
  | zero => rfl
  | succ n => rw [State.servePort, h]; rfl

theorem State.serveAll_none {s : State} (h : s.eng.host.held = []) : s.serveAll = s := by
  unfold State.serveAll State.serveUpto
  simp only [List.foldl_cons, List.foldl_nil, State.servePort_none h, ite_self]

/-! ### The queue of commands over a cycle's end -/

theorem State.evqPush_pending (s : State) (v : Event) : (s.evqPush v).pending = s.pending := by
  unfold State.evqPush
  split <;> rfl

theorem State.evqOverrun_pending (s : State) : s.evqOverrun.pending = s.pending := by
  unfold State.evqOverrun
  split <;> rfl

theorem State.evqPushAll_pending (l : List Event) : ∀ s : State, (l.foldl State.evqPush s).pending = s.pending := by
  induction l with
  | nil => intro s; rfl
  | cons v t ih => intro s; rw [List.foldl_cons, ih, State.evqPush_pending]

theorem State.evqEnd_pending (s : State) : s.evqEnd.pending = s.pending := by
  refine (State.evqPushAll_pending _ _).trans ?_
  split
  · rfl
  · exact State.evqOverrun_pending _

/-! ### The cycle -/

section
variable {s : State} (hh : s.eng.host.held = [])
include hh

theorem State.tick_pending : s.tick.pending = s.pending := by
  have ended := State.evqEnd_pending { s with eng := s.eng.cycleEnd }
  unfold State.tick
  rw [State.serveAll_none hh]
  exact ended

/-- Only the advance moves the beat of the machine. -/
theorem State.tick_beat : ∃ f : Engine, f.beat = s.eng.beat ∧ s.tick.eng.beat = f.advance.beat := by
  refine ⟨({ s with eng := s.eng.cycleEnd }.evqEnd).eng, ?_, ?_⟩
  · rw [State.evqEnd_beat, Engine.cycleEnd_beat]
  · unfold State.tick
    rw [State.serveAll_none hh]
    exact (Engine.settle_beat _).trans (Engine.cycleBegin_beat _)

end

/-- The beat of the next cycle, from that of the last (R39). -/
theorem Engine.advance_beat (f : Engine) : f.advance.beat = (f.time.now + 1,
    (if f.time.counting then f.time.tb + 1#56 else f.time.tb), f.time.counting, f.time.tides, f.tide.snapTb, f.tide.store) := by
  obtain ⟨now, tb, tides, counting, tide⟩ := f.advance_time
  rw [Engine.beat, now, tb, tides, counting, tide]

/-- Settles O2: the queue is served, ended and begun without a change of the beat but its advance. -/
theorem idleStepPassesACycle : Obligations.IdleStepPassesACycle := by
  intro s hp hh
  obtain ⟨f, same, beat⟩ := State.tick_beat hh
  rw [Engine.advance_beat] at beat
  simp only [Engine.beat, Prod.mk.injEq] at same beat
  obtain ⟨now, tb, counting, tides, snapTb, store⟩ := same
  rw [now, tb, counting, tides, snapTb, store] at beat
  obtain ⟨now', tb', counting', tides', snapTb', store'⟩ := beat
  refine ⟨s.tick, ?_, (State.tick_pending hh).trans hp, now', tb', counting', tides', snapTb', store'⟩
  rw [step, hp]

end Sys2Proof.Machine
end

section
/-! PROOF. O28, O29: the glitch filter, and how range conditions and ambiguity episodes begin and end. -/

namespace Sys2Proof.Machine

/-! ### The glitch filter -/

/-- Bypassed, or at its start, the filter gives its input (R85). -/
theorem filterStep_bypass {g : Nat} {start : Bool} (h : start = true ∨ g = 0) (filt : Bool) (cnt : Nat) (x : Bool) :
    filterStep g start filt cnt x = (x, 0) := if_pos (by simpa using h)

section
variable {g n : Nat} {filt : Bool}

/-- While the output holds, a cycle at the other level counts, and one at its own level starts the count again (R85). -/
theorem filterStep_holding (h : n < g) (x : Bool) :
    filterStep g false filt n x = (filt, if x = filt then 0 else n + 1) := by
  have on : g ≠ 0 := by omega
  have low : ¬ g ≤ n := by omega
  by_cases same : x = filt
  · simp [filterStep, on, low, same]
  · simp [filterStep, on, low, same]

/-- After g cu at the new level the output takes it (R85). -/
theorem filterStep_passed : filterStep g false filt g (!filt) = (!filt, 0) := by
  by_cases off : g = 0
  · exact filterStep_bypass (.inr off) _ _ _
  · simp [filterStep, off]

/-- Up to g cu at the new level are counted and leave the output as it was (R85). -/
theorem filterStep_counts (h : n ≤ g) :
    (List.replicate n (!filt)).foldl (fun a x => filterStep g false a.1 a.2 x) (filt, 0) = (filt, n) := by
  induction n with
  | zero => rfl
  | succ n ih =>
    rw [List.replicate_succ', List.foldl_append, ih (by omega), List.foldl_cons, List.foldl_nil, filterStep_holding h,
      if_neg (by simp)]

end

/-- Settles O28: the count of a new level and its end at g cu, the return to the old level before that, and the bypass. -/
theorem glitchFilterDelays : Obligations.GlitchFilterDelays := by
  refine ⟨fun g n filt hn => ⟨filterStep_counts hn, filterStep_passed, fun short => ?_⟩,
    fun g cnt start filt x h => filterStep_bypass h filt cnt x⟩
  rw [filterStep_holding short, if_pos rfl]

namespace Engine

/-! ### Marks and vectors of a lane -/

/-- A change elsewhere does not alter what a mark makes of the recorder. -/
theorem chanMark_of_same {e f : Engine} (hr : f.recb = e.recb) (ht : f.time = e.time) (m b n : Nat) (opens ambig : Bool) :
    f.chanMark m b n opens ambig = { f with recb := (e.chanMark m b n opens ambig).recb } :=
  congrArg (fun r => { f with recb := r }) (inCyc_recb hr ht m n _)

/-- The vectors of a lane stand in its lane and in what the sequencer is given, and follow from these and the time alone. -/
theorem vecs_of_same {e f : Engine} (hl : f.lanes = e.lanes) (hs : f.seq = e.seq) (ht : f.time = e.time) (m : Nat) :
    f.vecs m = { f with lanes := (e.vecs m).lanes, seq := (e.vecs m).seq } := by
  have same : f = { f with lanes := e.lanes, seq := e.seq, time := e.time } := by rw [← hl, ← hs, ← ht]
  rw [same]
  by_cases taken : (e.lane m).intactTo = e.time.now + 1
  · have ve : e.vecs m = _ := if_pos taken
    rw [ve, setSeen_lanes]
    exact (if_pos taken).trans (setSeen_of_same (e := e.setLane m _)
      (f := ({ f with lanes := e.lanes, seq := e.seq, time := e.time } : Engine).setLane m _) rfl _ _)
  · have ve : e.vecs m = e := if_neg taken
    rw [ve]
    exact if_neg taken

theorem chanMark_wr (e : Engine) (m b n : Nat) (opens ambig : Bool) (k : Nat) (v : Word) :
    (e.chanMark m b n opens ambig).wr k v = (e.wr k v).chanMark m b n opens ambig := rfl

@[simp] theorem rd_chanMark (e : Engine) (m b n : Nat) (opens ambig : Bool) (j : Nat) :
    (e.chanMark m b n opens ambig).rd j = e.rd j := rd_inCyc _ _ _ _ _

theorem OnlyRegs.chanMark {e f : Engine} (h : OnlyRegs e f) (m b n : Nat) (opens ambig : Bool) :
    OnlyRegs (e.chanMark m b n opens ambig) (f.chanMark m b n opens ambig) := by
  have mark := chanMark_of_same (e := e) (f := f) (by rw [h]; rfl) (by rw [h]; rfl) m b n opens ambig
  rw [OnlyRegs, mark]
  exact congrArg (fun x : Engine => { x with recb := (e.chanMark m b n opens ambig).recb }) h

section
variable {e : Engine} {m b : Nat} {g : ChanSt → ChanSt}

/-- The end of a condition moves the channel, the vectors and a mark, and nothing else (R88, R89). -/
theorem condEnds_eq (ambig : Bool) : ((e.setChan m b g).chanMark m b e.time.now false ambig).vecs m =
    let x := (e.setChan m b g).vecs m
    { e with lanes := x.lanes, seq := x.seq, recb := (e.chanMark m b e.time.now false ambig).recb } := by
  rw [vecs_of_same (f := (e.setChan m b g).chanMark ..) (e := e.setChan m b g) rfl rfl rfl,
    chanMark_of_same (f := e.setChan m b g) (e := e) rfl rfl]
  rfl

/-- The begin of a condition: its registers are written in f; then the mark, the event, the vectors (R88, R89, R91). -/
def condBegun (e f : Engine) (m b : Nat) (ambig w : Bool) (code prio : Nat) : Engine :=
  ((f.chanMark m b e.time.now true ambig).pushIf w 0x3 code prio (m * 1024 + 14 * m + b)).vecs m

theorem condBegun_spec {f : Engine} (h : OnlyRegs (e.setChan m b g) f) (ambig w : Bool) (code prio : Nat) :
    let x := (e.setChan m b g).vecs m
    (∀ k, (condBegun e f m b ambig w code prio).rd k = f.rd k) ∧
    condBegun e f m b ambig w code prio = { e.marked (condBegun e f m b ambig w code prio) with
      lanes := x.lanes, seq := x.seq, recb := (e.chanMark m b e.time.now true ambig).recb
      arriving := e.arriving ++ if w then [e.event 0x3 code prio (m * 1024 + 14 * m + b)] else [] } := by
  have pushed := (h.chanMark m b e.time.now true ambig).pushIf w 0x3 code prio (m * 1024 + 14 * m + b)
  have begun : condBegun e f m b ambig w code prio = _ := vecs_of_same (e := e.setChan m b g)
    (by rw [pushed]; rfl) (by rw [pushed]; rfl) (by rw [pushed]; rfl) m
  rw [begun]
  refine ⟨fun k => ?_, ?_⟩
  · rw [rd_mk, get_regs, rd_pushIf, rd_chanMark]
  · exact congrArg (fun y : Engine => { y with
      lanes := ((e.setChan m b g).vecs m).lanes, seq := ((e.setChan m b g).vecs m).seq }) pushed

end

/-! ### What the begin of a condition writes -/

/-- The registers of a lane that a condition's begin writes are different ones, and the lane's control is none of them. -/
theorem laneKeys (m : Fin 4) : R.FEn_FLT m ≠ istatKey (0x10 + m) ∧
    (∀ cnt ∈ [R.FEn_RANGE_CNT m, R.FEn_AMBIG_CNT m], R.FEn_FLT m ≠ cnt ∧ istatKey (0x10 + m) ≠ cnt) ∧
    (∀ k ∈ [R.FEn_FLT m, istatKey (0x10 + m), R.FEn_AMBIG_CNT m], k ≠ R.FEn_AMBIG_LAST m) ∧
    R.FEn_CTL m ∉ [R.FEn_FLT m, istatKey (0x10 + m), R.FEn_RANGE_CNT m] ∧
    R.FEn_CTL m ∉ [R.FEn_FLT m, istatKey (0x10 + m), R.FEn_AMBIG_CNT m, R.FEn_AMBIG_LAST m] := by
  revert m
  decide

/-- The fault bit, the interrupt and the counter of a condition that begins (R88, R89). -/
def condTold (e : Engine) (m : Fin 4) (flt src cnt : Nat) : Engine :=
  ((e.hwSet (R.FEn_FLT m) (w32 (2 ^ flt))).istat (0x10 + m) src).count cnt

section
variable (e : Engine) (m : Fin 4) (flt src cnt : Nat)

theorem onlyRegs_condTold : OnlyRegs e (e.condTold m flt src cnt) :=
  ((onlyRegs_hwSet e _ _).trans (onlyRegs_istat _ _ _)).trans (onlyRegs_count _ _)

theorem regsKept_condTold : RegsKept [R.FEn_FLT m, istatKey (0x10 + m), cnt] e (e.condTold m flt src cnt) :=
  ((regsKept_hwSet e _ _).trans (regsKept_istat _ _ _)).trans (regsKept_count _ _)

variable {cnt} in
theorem rd_condTold (h : cnt ∈ [R.FEn_RANGE_CNT m, R.FEn_AMBIG_CNT m]) :
    (e.condTold m flt src cnt).rd (R.FEn_FLT m) = e.rd (R.FEn_FLT m) ||| w32 (2 ^ flt) ∧
    (e.condTold m flt src cnt).rd (istatKey (0x10 + m)) = e.rd (istatKey (0x10 + m)) ||| w32 src ∧
    (e.condTold m flt src cnt).rd cnt = bump16 (e.rd cnt) := by
  obtain ⟨hflt, hcnt, -⟩ := laneKeys m
  obtain ⟨fltCnt, istCnt⟩ := hcnt cnt h
  unfold condTold
  refine ⟨?_, ?_, ?_⟩
  · rw [rd_count_other _ _ _ fltCnt, rd_istat_other _ _ _ _ hflt, rd_hwSet_same]
  · rw [rd_count_other _ _ _ istCnt, rd_istat_same, rd_hwSet_other _ _ _ _ hflt.symm]
  · rw [rd_count_same, rd_istat_other _ _ _ _ istCnt.symm, rd_hwSet_other _ _ _ _ fltCnt.symm]

end

/-! ### Range conditions and ambiguity episodes -/

/-- The channel with its range condition set or ended. -/
def withRange (e : Engine) (m b : Nat) (v : Bool) : Engine := e.setChan m b fun c => { c with rg := v }

/-- The channel with its episode set or ended. -/
def withEpisode (e : Engine) (m b : Nat) (v : Bool) : Engine := e.setChan m b fun c => { c with ep := v }

/-- What a range entry writes (R88). -/
def rangeTold (e : Engine) (m : Fin 4) (b : Fin 14) : Engine := e.condTold m b 1 (R.FEn_RANGE_CNT m)

/-- What the begin of an episode writes: FEn_AMBIG_LAST beside what every condition writes (R89). -/
def ambigTold (e : Engine) (m : Fin 4) (b : Fin 14) : Engine :=
  (e.condTold m (16 + b) 2 (R.FEn_AMBIG_CNT m)).wr (R.FEn_AMBIG_LAST m)
    (w32 (2 ^ 31 + (14 * m + b) * 2 ^ 24 + e.time.tb.toNat % 2 ^ 24))

section
variable (e : Engine) (m : Fin 4) (b : Fin 14)

theorem rangeExit_eq : e.rangeExit m b =
    let x := (e.withRange m b false).vecs m
    { e with lanes := x.lanes, seq := x.seq, recb := (e.chanMark m b e.time.now false false).recb } := condEnds_eq false

theorem ambigEnd_eq : e.ambigEnd m b =
    let x := (e.withEpisode m b false).vecs m
    { e with lanes := x.lanes, seq := x.seq, recb := (e.chanMark m b e.time.now false true).recb } := condEnds_eq true

theorem onlyRegs_ambigTold : OnlyRegs e (e.ambigTold m b) := (onlyRegs_condTold e m _ _ _).trans (onlyRegs_wr _ _ _)

theorem regsKept_ambigTold :
    RegsKept [R.FEn_FLT m, istatKey (0x10 + m), R.FEn_AMBIG_CNT m, R.FEn_AMBIG_LAST m] e (e.ambigTold m b) :=
  (regsKept_condTold e m _ _ _).trans (regsKept_wr _ _ _)

theorem rd_ambigTold :
    (e.ambigTold m b).rd (R.FEn_FLT m) = e.rd (R.FEn_FLT m) ||| w32 (2 ^ (16 + b.val)) ∧
    (e.ambigTold m b).rd (istatKey (0x10 + m)) = e.rd (istatKey (0x10 + m)) ||| w32 2 ∧
    (e.ambigTold m b).rd (R.FEn_AMBIG_CNT m) = bump16 (e.rd (R.FEn_AMBIG_CNT m)) ∧
    (e.ambigTold m b).rd (R.FEn_AMBIG_LAST m) = w32 (2 ^ 31 + (14 * m + b) * 2 ^ 24 + e.time.tb.toNat % 2 ^ 24) := by
  obtain ⟨-, -, last, -⟩ := laneKeys m
  obtain ⟨hflt, hist, hcnt⟩ := rd_condTold e m (16 + b) 2 (cnt := R.FEn_AMBIG_CNT m) (by simp)
  unfold ambigTold
  refine ⟨?_, ?_, ?_, rd_wr_same _ _ _⟩
  · rw [rd_wr_other _ _ _ _ (last _ (by simp)), hflt]
  · rw [rd_wr_other _ _ _ _ (last _ (by simp)), hist]
  · rw [rd_wr_other _ _ _ _ (last _ (by simp)), hcnt]

theorem rangeEntry_eq : e.rangeEntry m b =
    condBegun e ((e.withRange m b true).rangeTold m b) m b false (e.rb (R.FEn_CTL m) 7) 0x01 1 := by
  obtain ⟨-, -, -, ctl, -⟩ := laneKeys m
  have wanted : ((e.withRange m b true).rangeTold m b).rb (R.FEn_CTL m) 7 = e.rb (R.FEn_CTL m) 7 :=
    congrArg (bit · 7) (regsKept_condTold (e.withRange m b true) m _ _ _ _ ctl)
  rw [← wanted]
  rfl

theorem ambigBegin_eq : e.ambigBegin m b =
    condBegun e ((e.withEpisode m b true).ambigTold m b) m b true (e.rb (R.FEn_CTL m) 6) 0x02 2 := by
  obtain ⟨-, -, -, -, ctl⟩ := laneKeys m
  have wanted : ((e.withEpisode m b true).ambigTold m b).rb (R.FEn_CTL m) 6 = e.rb (R.FEn_CTL m) 6 :=
    congrArg (bit · 6) (regsKept_ambigTold (e.withEpisode m b true) m b _ ctl)
  unfold ambigBegin
  extract_lets flagged marked last
  have now : marked.time = (e.withEpisode m b true).time := rfl
  have swapped : last = ((e.withEpisode m b true).ambigTold m b).chanMark m b e.time.now true true := by
    unfold last
    rw [now]
    exact chanMark_wr _ _ _ _ _ _ _ _
  rw [swapped, condBegun, ← wanted, rb, rd_chanMark]
  rfl

/-- A range entry (R88). -/
theorem rangeEntry_spec :
    let x := (e.withRange m b true).vecs m
    (e.rangeEntry m b).rd (R.FEn_FLT m) = e.rd (R.FEn_FLT m) ||| w32 (2 ^ b.val) ∧
    (e.rangeEntry m b).rd (istatKey (0x10 + m)) = e.rd (istatKey (0x10 + m)) ||| 1#32 ∧
    (e.rangeEntry m b).rd (R.FEn_RANGE_CNT m) = bump16 (e.rd (R.FEn_RANGE_CNT m)) ∧
    RegsKept [R.FEn_FLT m, istatKey (0x10 + m), R.FEn_RANGE_CNT m] e (e.rangeEntry m b) ∧
    e.rangeEntry m b = { e.marked (e.rangeEntry m b) with
      lanes := x.lanes, seq := x.seq, recb := (e.chanMark m b e.time.now true false).recb
      arriving := e.arriving ++ if e.rb (R.FEn_CTL m) 7 then [e.event 0x3 0x01 1 (m * 1024 + 14 * m + b)] else [] } := by
  rw [rangeEntry_eq]
  obtain ⟨rd_begun, rest⟩ := condBegun_spec (onlyRegs_condTold (e.withRange m b true) m b 1 (R.FEn_RANGE_CNT m)) false
    (e.rb (R.FEn_CTL m) 7) 0x01 1
  obtain ⟨hflt, hist, hcnt⟩ := rd_condTold (e.withRange m b true) m b 1 (cnt := R.FEn_RANGE_CNT m) (by simp)
  exact ⟨(rd_begun _).trans hflt, (rd_begun _).trans hist, (rd_begun _).trans hcnt,
    (regsKept_condTold (e.withRange m b true) m _ _ _).of_rd rd_begun, rest⟩

/-- The begin of an episode (R89). -/
theorem ambigBegin_spec :
    let x := (e.withEpisode m b true).vecs m
    (e.ambigBegin m b).rd (R.FEn_FLT m) = e.rd (R.FEn_FLT m) ||| w32 (2 ^ (16 + b.val)) ∧
    (e.ambigBegin m b).rd (istatKey (0x10 + m)) = e.rd (istatKey (0x10 + m)) ||| 2#32 ∧
    (e.ambigBegin m b).rd (R.FEn_AMBIG_CNT m) = bump16 (e.rd (R.FEn_AMBIG_CNT m)) ∧
    (e.ambigBegin m b).rd (R.FEn_AMBIG_LAST m) = w32 (2 ^ 31 + (14 * m + b) * 2 ^ 24 + e.time.tb.toNat % 2 ^ 24) ∧
    RegsKept [R.FEn_FLT m, istatKey (0x10 + m), R.FEn_AMBIG_CNT m, R.FEn_AMBIG_LAST m] e (e.ambigBegin m b) ∧
    e.ambigBegin m b = { e.marked (e.ambigBegin m b) with
      lanes := x.lanes, seq := x.seq, recb := (e.chanMark m b e.time.now true true).recb
      arriving := e.arriving ++ if e.rb (R.FEn_CTL m) 6 then [e.event 0x3 0x02 2 (m * 1024 + 14 * m + b)] else [] } := by
  rw [ambigBegin_eq]
  obtain ⟨rd_begun, rest⟩ := condBegun_spec (onlyRegs_ambigTold (e.withEpisode m b true) m b) true
    (e.rb (R.FEn_CTL m) 6) 0x02 2
  obtain ⟨hflt, hist, hcnt, hlast⟩ := rd_ambigTold (e.withEpisode m b true) m b
  exact ⟨(rd_begun _).trans hflt, (rd_begun _).trans hist, (rd_begun _).trans hcnt, (rd_begun _).trans hlast,
    (regsKept_ambigTold (e.withEpisode m b true) m b).of_rd rd_begun, rest⟩

end

end Engine

/-- Settles O29: the begin of each condition by what it writes, marks and pushes, the end of each by its mark. -/
theorem rangeAndAmbiguityConditions : Obligations.RangeAndAmbiguityConditions := by
  refine ⟨⟨fun s m b hlive hrg hbeyond hdue => ?_, fun s m b hrg hwithin hdue => ?_⟩,
    fun s m b hlive hep hlen hswap ht hrep hdue => ?_, fun s m b hep hrep hdue => ?_⟩
  · exact does_guarded (·.canEnter m b) (·.rangeEntry m b) rfl (by simp [Engine.canEnter, *]) (s.eng.rangeEntry_spec m b)
  · have exit : Leaves (.rangeExit m b) s (s.eng.rangeExit m b) :=
      leaves_guarded (·.canExit m b) (·.rangeExit m b) rfl (by simp [Engine.canExit, *])
    rw [Engine.rangeExit_eq] at exit
    exact exit
  · exact does_guarded (·.canBegin m b) (·.ambigBegin m b) rfl (by simp [Engine.canBegin, *]) (s.eng.ambigBegin_spec m b)
  · have ended : Leaves (.ambigEnd m b) s (s.eng.ambigEnd m b) :=
      leaves_guarded (·.canEnd m b) (·.ambigEnd m b) rfl (by simp [Engine.canEnd, *])
    rw [Engine.ambigEnd_eq] at ended
    exact ended

end Sys2Proof.Machine
end

section
/-! PROOF. O31: the debounced switches of the pod slots, and the wake from DOZE that they can be. -/

namespace Sys2Proof.Machine

namespace Engine

/-! ### A wake from DOZE -/

/-- The way up from DOZE drives rails and begins the phase; nothing else (R67). -/
theorem railsDozeUp_eq (e : Engine) :
    e.railsDozeUp = { e with pwr := e.railsDozeUp.pwr, sys := { e.sys with phase := .waking } } := by
  unfold railsDozeUp
  cases e.pwr.enMem <;> rfl

/-- A source that is enabled is recognised in DOZE where no wake is under way (R63, R64). -/
theorem woken_wakeSource {e : Engine} {i : Nat} (hi : i < 5) (hmode : e.sys.mode = .doze)
    (hen : e.rb R.SYS_WAKE_EN i = true) (hwake : e.sys.wake = none) : Woken e i (e.wakeSource i) := by
  have works : e.wakeWorks e.sys.mode i = true := by simp [wakeWorks, hen, hi]
  have source : e.wakeSource i = e.recognise i := by
    unfold wakeSource
    rw [if_pos (by rw [hmode]; rfl), if_pos works, hwake]
  have target : (e.wr R.SYS_WAKE_SRC (w32 (2 ^ i))).wakeTarget = e.wakeTarget := by
    unfold wakeTarget rf
    rw [rd_wr_other _ _ _ _ (by decide)]
  have known : e.recognise i = _ := if_neg (by rw [wr_sys, hmode]; decide)
  rw [source, known, railsDozeUp_eq, target]
  refine ⟨rd_wr_same e _ _, regsKept_wr e _ _, ?_, rfl, rfl⟩
  simp only [wr_sys, hmode]
  rfl

/-! ### The switches -/

/-- A debounced change of presence, latched (R100). -/
def presLatched (e : Engine) (n : Nat) (v : Bool) : Engine := e.setPod n fun p => latchPres e.time.now p v

/-- A debounced change of attention, latched (R100). -/
def attnLatched (e : Engine) (n : Nat) (v : Bool) : Engine :=
  e.setPod n fun p => { p with attn := v, flags := p.flags ++ [.attn v], attnAt := some e.time.now }

/-- The debouncer of a slot's presence has seen enough samples of a new state (R100). -/
def presPasses (e : Engine) (n : Nat) (v : Bool) (c : Nat) : Bool := e.pwr.vddIo && 66 ≤ c && (e.pod n).pres != v

/-- The debouncer of a slot's attention has seen enough samples of a new state (R100, R110). -/
def attnPasses (e : Engine) (n : Nat) (v : Bool) (c : Nat) : Bool :=
  e.pwr.vddIo && e.rf R.POD_TIM 16 16 ≤ c && (e.pod n).attn != v

/-- A debouncer without its supply, with too few samples, or with none that disagree, passes nothing (R100). -/
theorem passes_eq_false {io old v : Bool} {lim c : Nat} (h : io = false ∨ c < lim ∨ old = v) :
    (io && decide (lim ≤ c) && old != v) = false := by
  rcases h with off | few | same
  · rw [off, Bool.false_and, Bool.false_and]
  · rw [decide_eq_false (Nat.not_le.mpr few), Bool.and_false, Bool.false_and]
  · rw [same, bne_self_eq_false, Bool.and_false]

/-- What a change that has been latched does further: it wakes the engine where its slot may (R63, R100, R110). -/
def wakesIf (e : Engine) (w : Bool) (i : Nat) : Engine := if w then e.wakeSource i else e

end Engine

section
variable {s : State} {n : Fin 4} {v : Bool} {c : Nat}

theorem podPresenceChange_leaves (h : s.eng.presPasses n v c = true) : Leaves (.podPresenceChange n v c) s
    ((s.eng.presLatched n v).wakesIf (s.eng.rb R.POD_CTL (8 + n)) 1) :=
  leaves_guarded (·.presPasses n v c) (fun e => (e.presLatched n v).wakesIf (e.rb R.POD_CTL (8 + n)) 1) rfl h

theorem podAttentionChange_leaves (h : s.eng.attnPasses n v c = true) : Leaves (.podAttentionChange n v c) s
    ((s.eng.attnLatched n v).wakesIf (v && s.eng.rb R.POD_CTL (12 + n)) 2) :=
  leaves_guarded (·.attnPasses n v c) (fun e => (e.attnLatched n v).wakesIf (v && e.rb R.POD_CTL (12 + n)) 2) rfl h

theorem podPresenceChange_idles (h : s.eng.presPasses n v c = false) : Idles (.podPresenceChange n v c) s :=
  idles_guarded (·.presPasses n v c) (fun e => (e.presLatched n v).wakesIf (e.rb R.POD_CTL (8 + n)) 1) rfl h

theorem podAttentionChange_idles (h : s.eng.attnPasses n v c = false) : Idles (.podAttentionChange n v c) s :=
  idles_guarded (·.attnPasses n v c) (fun e => (e.attnLatched n v).wakesIf (v && e.rb R.POD_CTL (12 + n)) 2) rfl h

end

/-- Settles O31: each switch by whether its debouncer passes the change, and by whether the slot may wake the engine. -/
theorem podSwitchesAreDebounced : Obligations.PodSwitchesAreDebounced := by
  refine ⟨fun s n v c hio hc hnew => ?_, fun s n v c hio hc hnew => ?_, fun s n v c =>
    ⟨fun h => podPresenceChange_idles (Engine.passes_eq_false h), fun h => podAttentionChange_idles (Engine.passes_eq_false h)⟩⟩
  · have change := podPresenceChange_leaves (s := s) (n := n) (v := v) (c := c) (by simp [Engine.presPasses, *])
    refine ⟨fun hquiet => ?_, fun hmay hmode hen hwake => ⟨_, change, ?_⟩⟩
    · rw [hquiet] at change
      exact change
    · rw [hmay]
      exact Engine.woken_wakeSource (e := s.eng.presLatched n v) (by decide) hmode hen hwake
  · have change := podAttentionChange_leaves (s := s) (n := n) (v := v) (c := c) (by simp [Engine.attnPasses, *])
    refine ⟨fun hquiet => ?_, fun hpressed hmay hmode hen hwake => ⟨_, change, ?_⟩⟩
    · rw [Bool.and_eq_false_iff.mpr hquiet] at change
      exact change
    · rw [hpressed, hmay]
      exact Engine.woken_wakeSource (e := s.eng.attnLatched n true) (by decide) hmode hen hwake

end Sys2Proof.Machine
end

section
/-! PROOF. O33 fails: a drop closes the open conditions of the fourteen channels that a lane has, not those of a longer list. -/

namespace Sys2Proof.Machine

/-- Two engines that a command may be said to leave have the same lanes. -/
theorem lanes_eq_of_leaves {c : Instr} {s : State} {e f : Engine} (he : Leaves c s e) (hf : Leaves c s f) : e.lanes = f.lanes := by
  have hs : e.settle = f.settle := congrArg State.eng (Host.Outcome.next.inj (he.symm.trans hf))
  rw [← Engine.settle_lanes e, hs, Engine.settle_lanes]

/-- After 1 µs of samples without the pod a READY slot is LOST (R103). -/
theorem fastDrop_leaves {s : State} {n : Fin 4} {c : Nat} (hphase : s.eng.sys.phase = .run) (hmode : s.eng.sys.mode.isSleep = false)
    (hc : 625 ≤ c) (hready : (s.eng.pod n).st = .ready) : Leaves (.fastDrop n c) s (s.eng.podTo n .lost 0) :=
  leaves_guarded (fun e => e.coreSampling && (e.pod n).st == .ready && 625 ≤ c) (·.podTo n .lost 0) rfl
    (by simp [Engine.coreSampling, *])

namespace Engine

/-- Where none of a lane's fourteen channels has an open condition there is nothing to close (R88, R89). -/
theorem closeConds_of_none {e : Engine} {m : Nat} (h : ∀ b < 14, (e.chan m b).rg = false ∧ (e.chan m b).ep = false)
    (rg am : Nat → Bool) : e.closeConds m rg am = e := by
  unfold closeConds
  refine List.foldlRecOn (motive := (· = e)) _ _ rfl fun f hf b hb => ?_
  obtain ⟨hrg, hep⟩ := h b (List.mem_range.mp hb)
  subst hf
  simp [hrg, hep]

/-- Only a lane that runs has its words replaced (R84). -/
theorem idleNow_of_idle {e : Engine} {m : Nat} (h : (e.lane m).running = false) : e.idleNow m = e := if_neg (by simp [h])

/-- A slot that leaves READY with no condition open on its lane, which does not run, leaves the lanes as they are (R108). -/
theorem podTo_lanes_of_idle {e : Engine} {n : Nat} {st : PodState} (cause : Nat) (hready : e.podOk n = true) (hst : st ≠ .ready)
    (hnone : ∀ b < 14, (e.chan n b).rg = false ∧ (e.chan n b).ep = false) (hidle : (e.lane n).running = false) :
    (e.podTo n st cause).lanes = e.lanes := by
  have leaves : e.podTo n st cause = _ := if_pos (by simpa [hready] using hst)
  rw [leaves, closeConds_of_none hnone]
  have same : ((((e.setPod n fun p => { p with st := st }).podMark n 1000 (16 * n + cause)).podAffect n)).lanes = e.lanes := by
    unfold podAffect
    split <;> simp
  rw [idleNow_of_idle (by rw [lane, same]; exact hidle), same]

end Engine

/-- An engine in MEASURE, reset but for slot 0, which is READY, and a fifteenth channel of its lane with an open range
condition. -/
def readyWithSpareChannel : State :=
  { eng := { ({} : Engine) with
      sys := { phase := .run, mode := .measure }
      pods := [{ st := .ready }, {}, {}, {}]
      lanes := [{ chans := List.replicate 14 {} ++ [{ rg := true }] }, {}, {}, {}] } }

/-- Refutes O33: after a fast drop no channel of the lane is said to have an open condition, whatever its number, but the drop
closes those of channels 0 to 13 (R88, R89), which are all that a lane has. The counterexample is a lane whose list of channels is
one longer: the range condition of the fifteenth stays open. The model is not meant to come to such a state; the statement does not
exclude it. -/
theorem not_podLossAndFault : ¬ Obligations.PodLossAndFault := by
  intro h
  obtain ⟨drop, -⟩ := h readyWithSpareChannel 0 625 rfl rfl (Nat.le_refl _)
  obtain ⟨e, he, closed, -⟩ := drop rfl
  have same : e.lanes = (readyWithSpareChannel.eng.podTo 0 .lost 0).lanes :=
    lanes_eq_of_leaves he (fastDrop_leaves rfl rfl (Nat.le_refl _) rfl)
  have lanes : e.lanes = readyWithSpareChannel.eng.lanes :=
    same.trans (Engine.podTo_lanes_of_idle 0 rfl (by decide) (by decide) rfl)
  have stays : (e.chan 0 14).rg = true := by rw [Engine.chan, Engine.lane, lanes]; rfl
  exact absurd (stays.symm.trans (closed 14).1) (by decide)

end Sys2Proof.Machine
end

section
/-! SUPPORT. What the pod bus's operations are made of: outputs that no link carries, the demand on the controller, the list
entries, and the steps of a walk. -/

namespace Sys2Proof.Machine

namespace Engine

/-! ### Outputs and demands -/

/-- What does not go over the PCI Express link is put out at once (R284). -/
theorem send_local {t : Tx} (h : t.isPci = false) (e : Engine) : e.send t = { e with tx := e.tx ++ [t] } := by
  have free : e.waits t = false := by rw [waits, h]; rfl
  rw [send, if_neg (by rw [free]; decide), emit, h]
  rfl

/-- A demand changes the power of blocks alone (R74). -/
theorem demand_eq (e : Engine) (i : Nat) : e.demand i = { e with pwr := (e.demand i).pwr } := by
  unfold demand
  dsimp only
  split
  · rfl
  · split <;> rfl

/-- Whether a block is ON after a change of it (R73). -/
theorem isOn_setBlk {e : Engine} {i : Nat} {f : BlkPwr → BlkPwr} (h : ((f (e.blkP i)).st == .on) = ((e.blkP i).st == .on)) :
    (e.setBlk i f).isOn i = e.isOn i := by
  unfold isOn setBlk
  unfold blkP upd at *
  rw [List.getD_eq_getElem?_getD] at *
  rw [List.getD_eq_getElem?_getD, List.getElem?_modify_eq]
  cases hb : e.pwr.blks[i]? with
  | none => rfl
  | some b =>
    rw [hb] at h
    exact h

/-- A demand makes no block ready at once, and takes none away (R74). -/
theorem isOn_demand (e : Engine) (i : Nat) : (e.demand i).isOn i = e.isOn i := by
  unfold demand
  dsimp only
  split
  · rfl
  · split
    next asleep => exact isOn_setBlk (by rcases asleep with h | h <;> rw [h] <;> rfl)
    next awake => exact isOn_setBlk rfl

/-! ### Census requests -/

/-- The slots of a request for one slot alone (R114). -/
theorem slotsOf_single (n : Fin 4) : slotsOf (BitVec.ofNat 4 (2 ^ n.val)) = [n.val] := by
  revert n
  decide

theorem single_ne_zero (n : Fin 4) : BitVec.ofNat 4 (2 ^ n.val) ≠ 0#4 := by
  revert n
  decide

/-- The controller with a request taken: slots are queued, and its power is demanded (R114, R120). -/
def censusQueued (e : Engine) (mask : BitVec 4) : Engine :=
  { e with pwr := (e.demand 0).pwr, bus := { e.bus with refused := false, queued := e.bus.queued ||| mask } }

section
variable {e : Engine} {mask : BitVec 4} (hm : mask ≠ 0#4)
include hm

theorem censusReq_off (hp : e.policy 0x08 = 2) :
    e.censusReq mask = { e with bus := { e.bus with refused := true, queued := 0#4 } } := by
  rw [censusReq, if_neg hm, if_pos hp]

theorem censusReq_taken (hp : e.policy 0x08 ≠ 2) : e.censusReq mask = (e.censusQueued mask).busStart := by
  rw [censusReq, if_neg hm, if_neg hp, demand_eq]
  rfl

end

theorem isOn_censusQueued (e : Engine) (mask : BitVec 4) : (e.censusQueued mask).isOn 0 = e.isOn 0 := isOn_demand e 0

/-- A walk is under way, or the controller is not ready: nothing starts (R114). -/
theorem busStart_waits {e : Engine} (h : e.bus.walk.isSome = true ∨ e.isOn 0 = false) : e.busStart = e := by
  unfold busStart
  rw [if_pos (by rcases h with h | h <;> simp [h])]

/-- A slot that is READY is visited (R114). -/
theorem visit_ready {e : Engine} {n : Nat} (h : e.podOk n = true) (w : Walk) (t : List Nat) : e.visit w (n :: t) =
    (e, { w with visited := w.visited ||| BitVec.ofNat 4 (2 ^ n), todo := t, slot := n, item := none, retry := false }, true) := by
  unfold visit
  exact if_pos h

/-- A walk over the queued slots that has visited none of them (R119). -/
def firstWalk (e : Engine) : Walk :=
  let q := slotsOf e.bus.queued
  { todo := q, slot := q.headD 0, item := none, retry := false, visited := 0#4, affected := 0#4 }

section
variable {e : Engine} (hw : e.bus.walk = none) (hq : e.bus.queued ≠ 0#4) (hon : e.isOn 0 = true)
include hw hq hon

/-- A walk begins at the first of the queued slots, where that is READY (R114). -/
theorem busStart_visits {n : Nat} {t : List Nat} (hr : e.bus.needRecover = false) (hs : slotsOf e.bus.queued = n :: t)
    (hok : e.podOk n = true) : e.busStart = { e with bus := { e.bus with
      queued := 0#4, recovering := false
      walk := some {
        todo := t, slot := n, item := none, retry := false
        visited := BitVec.ofNat 4 (2 ^ n), affected := 0#4 } } } := by
  unfold busStart
  rw [if_neg (by simp [hw, hq, hon]), hr, hs]
  dsimp only
  rw [if_neg (by decide), visit_ready (by exact hok)]
  simp only [BitVec.zero_or, hr]

/-- After a walk that a stuck bus has ended the recovery sequence comes first (R119). -/
theorem busStart_recovers (hr : e.bus.needRecover = true) : e.busStart = { e with
    tx := e.tx ++ [.podRecover false]
    bus := { e.bus with
      queued := 0#4, recovering := true, needRecover := false, stuckAt := e.time.now, stuckScl := false
      walk := some { firstWalk e with starting := true } } } := by
  unfold busStart
  rw [if_neg (by simp [hw, hq, hon]), hr]
  dsimp only
  rw [if_pos rfl, send_local rfl]
  rfl

end

end Engine
end Sys2Proof.Machine
end

section
/-! PROOF. O34: a census request, refused, queued or begun. -/

namespace Sys2Proof.Machine

theorem census_leaves {s : State} (m : BitVec 4) (h : s.eng.access = true) : Leaves (.census m) s (s.eng.censusReq m) :=
  leaves_guarded Engine.access (·.censusReq m) rfl h

theorem census_idles {s : State} {m : BitVec 4} (h : s.eng.access = false ∨ m = 0#4) : Idles (.census m) s := by
  cases hacc : s.eng.access with
  | false => exact idles_guarded Engine.access (·.censusReq m) rfl hacc
  | true =>
    obtain rfl : m = 0#4 := h.resolve_left (by rw [hacc]; decide)
    exact census_leaves 0#4 hacc

/-- Settles O34: a request by the controller's policy, and its walk by whether one is under way and whether a recovery is owed. -/
theorem censusRequests : Obligations.CensusRequests := by
  refine ⟨fun s m => census_idles, fun s m hacc hm => ?_, fun s n hacc hpol hwalk hon hqueued => ?_⟩
  · have request := census_leaves m hacc
    refine ⟨fun hoff => ?_, fun hpol hbusy => ?_⟩
    · rw [Engine.censusReq_off hm hoff] at request
      exact request
    · rw [Engine.censusReq_taken hm hpol, Engine.busStart_waits (by rwa [Engine.isOn_censusQueued])] at request
      exact request
  · have request := census_leaves (BitVec.ofNat 4 (2 ^ n.val)) hacc
    have one := Engine.single_ne_zero n
    rw [Engine.censusReq_taken one hpol] at request
    have queued : (s.eng.censusQueued (BitVec.ofNat 4 (2 ^ n.val))).bus.queued = BitVec.ofNat 4 (2 ^ n.val) := by
      rw [Engine.censusQueued, hqueued, BitVec.zero_or]
    have asked : (s.eng.censusQueued (BitVec.ofNat 4 (2 ^ n.val))).bus.queued ≠ 0#4 := by rwa [queued]
    have ready := (s.eng.isOn_censusQueued (BitVec.ofNat 4 (2 ^ n.val))).trans hon
    have slots := (congrArg Engine.slotsOf queued).trans (Engine.slotsOf_single n)
    refine ⟨fun hrec hok => ?_, fun hrec => ?_⟩
    · rw [Engine.busStart_visits (by exact hwalk) asked ready hrec slots hok] at request
      exact request
    · rw [Engine.busStart_recovers (by exact hwalk) asked ready hrec, Engine.firstWalk, slots] at request
      exact request

end Sys2Proof.Machine
end

section
/-! PROOF. O35: the transactions of a walk, a bus that is stuck, and a walk that it ends. -/

namespace Sys2Proof.Machine

namespace Engine

/-! ### Outputs and list entries of a walk -/

/-- The transaction under way is driven on the bus, which is a demand on the controller (R74, R115). -/
def driven (e : Engine) (w : Walk) : Engine := { e with pwr := (e.demand 0).pwr, tx := e.tx ++ [e.itemTx w] }

theorem driven_eq (e : Engine) (w : Walk) : (e.demand 0).send (e.itemTx w) = e.driven w := by
  rw [send_local (by unfold itemTx; split <;> rfl), demand_eq]
  rfl

/-- Which entry comes next follows from the list alone (R114). -/
theorem nextEntry_of_rd {e f : Engine} (h : ∀ j, f.rd (win R.I2CP_LIST j) = e.rd (win R.I2CP_LIST j)) (slot i : Nat) :
    f.nextEntry slot i = e.nextEntry slot i := by
  unfold nextEntry rb rf
  simp only [h]

/-- A list entry names one of four slots (R114). -/
theorem slot_lt_of_nextEntry {e : Engine} {slot i j : Nat} (h : e.nextEntry slot i = some j) : slot < 4 := by
  have named := List.find?_some h
  simp only [Bool.and_eq_true, beq_iff_eq] at named
  rw [← named.2]
  exact fld_lt _ 29 2

/-- The statuses of a slot's entries follow from the list and the statuses (R114). -/
theorem entriesTo_of_rd {e f : Engine} (h : ∀ j, f.rd (win R.I2CP_LIST j) = e.rd (win R.I2CP_LIST j))
    (hb : f.bus.entries = e.bus.entries) (n st : Nat) : (f.entriesTo n st).bus.entries = (e.entriesTo n st).bus.entries := by
  unfold entriesTo rf
  simp only [h, hb]

theorem podOk_censusTo (e : Engine) (n st k : Nat) : (e.censusTo n st).podOk k = e.podOk k := by
  unfold podOk pod censusTo setPod upd
  rw [List.getD_eq_getElem?_getD, List.getD_eq_getElem?_getD, List.getElem?_modify]
  cases e.pods[k]? with
  | none => rfl
  | some p => by_cases h : n = k <;> simp [h]

/-! ### The walk goes on -/

theorem entryNext_some {e : Engine} {w : Walk} {i j : Nat} (h : e.nextEntry w.slot i = some j) :
    e.entryNext w i = { e with bus := { e.bus with walk := some { w with item := some j, retry := false } } } := by
  unfold entryNext
  rw [h]

theorem walkNext_ready {e : Engine} {w : Walk} {n : Nat} {t : List Nat} (ht : w.todo = n :: t) (hok : e.podOk n = true) :
    e.walkNext w = { e with bus := { e.bus with walk := some { w with
      todo := t, slot := n, item := none, retry := false, visited := w.visited ||| BitVec.ofNat 4 (2 ^ n) } } } := by
  unfold walkNext
  rw [ht, visit_ready hok]

/-! ### Transactions -/

theorem transaction_nack (e : Engine) (w : Walk) : e.transaction w .nack = { (e.driven w).count R.I2CP_NACK_CNT with
    bus := { e.bus with walk := some { w with retry := true }, nackAt := e.time.now } } := by
  unfold transaction
  rw [driven_eq]
  rfl

/-- A refusal is counted; the transaction awaits its retry (R115). -/
theorem transaction_nack_spec (e : Engine) (w : Walk) :
    (e.transaction w .nack).rd R.I2CP_NACK_CNT = bump16 (e.rd R.I2CP_NACK_CNT) ∧
    RegsKept [R.I2CP_NACK_CNT] e (e.transaction w .nack) ∧
    (e.transaction w .nack).tx = e.tx ++ [e.itemTx w] ∧
    e.transaction w .nack = { e.marked (e.transaction w .nack) with
      tx := (e.transaction w .nack).tx, pwr := (e.demand 0).pwr
      bus := { e.bus with walk := some { w with retry := true }, nackAt := e.time.now } } := by
  rw [transaction_nack]
  exact ⟨rd_count_same (e.driven w) _, regsKept_count (e.driven w) _, rfl, rfl⟩

/-- All bytes of a transaction have been read (R113, R115). -/
theorem transaction_bytes {e : Engine} {w : Walk} {d : List Byte} (h : d.length = e.itemLen w) :
    e.transaction w (.bytes d) = (e.driven w).itemRead w d := by
  unfold transaction
  rw [driven_eq]
  exact if_pos h

/-- The list's entries share their place in the page. -/
theorem list_ne {k : Nat} (h : k % 65536 ≠ R.I2CP_LIST) (j : Nat) : win R.I2CP_LIST j ≠ k := by
  rintro rfl
  exact h (Nat.add_mul_mod_self_left _ _ _)

theorem result_ne_list (i : Nat) : win R.I2CP_RES i % 65536 ≠ R.I2CP_LIST := by
  rw [win, Nat.add_mul_mod_self_left]
  decide

section
variable {e : Engine} {w : Walk} {d : List Byte} {i j : Nat} (hi : w.item = some i)
include hi

theorem itemLen_entry : e.itemLen w = e.rf (win R.I2CP_LIST i) 24 2 + 1 := by rw [itemLen, hi]

/-- What a list entry reads stands in its result, and the walk goes on (R115). -/
theorem itemRead_entry (hj : e.nextEntry w.slot (i + 1) = some j) : e.itemRead w d =
    { e.wr (win R.I2CP_RES i) (w32 (natOfBytes d)) with bus := { e.bus with
      entries := upd e.bus.entries i fun _ => 1, walk := some { w with item := some j, retry := false } } } := by
  unfold itemRead
  rw [hi]
  refine entryNext_some ?_
  rw [← hj]
  exact nextEntry_of_rd (fun k => rd_wr_other _ _ _ _ (list_ne (result_ne_list i) k)) _ _

theorem transaction_entry_spec (hd : d.length = e.rf (win R.I2CP_LIST i) 24 2 + 1) (hj : e.nextEntry w.slot (i + 1) = some j) :
    (e.transaction w (.bytes d)).rd (win R.I2CP_RES i) = w32 (natOfBytes d) ∧
    RegsKept [win R.I2CP_RES i] e (e.transaction w (.bytes d)) ∧
    (e.transaction w (.bytes d)).tx = e.tx ++ [e.itemTx w] ∧
    e.transaction w (.bytes d) = { e.marked (e.transaction w (.bytes d)) with
      tx := (e.transaction w (.bytes d)).tx, pwr := (e.demand 0).pwr
      bus := { e.bus with
        entries := upd e.bus.entries i fun _ => 1, walk := some { w with item := some j, retry := false } } } := by
  rw [transaction_bytes (hd.trans (itemLen_entry hi).symm), itemRead_entry (e := e.driven w) hi hj]
  exact ⟨rd_wr_same (e.driven w) _ _, regsKept_wr (e.driven w) _ _, rfl, rfl⟩

/-- A retry of a list entry that is refused too is counted and gives the entry its status; the walk goes on (R115). -/
theorem retried_nack_spec (hj : e.nextEntry w.slot (i + 1) = some j) :
    (e.retried w .nack).rd R.I2CP_NACK_CNT = bump16 (e.rd R.I2CP_NACK_CNT) ∧
    RegsKept [R.I2CP_NACK_CNT] e (e.retried w .nack) ∧
    (e.retried w .nack).tx = e.tx ++ [e.itemTx w] ∧
    e.retried w .nack = { e.marked (e.retried w .nack) with
      tx := (e.retried w .nack).tx, pwr := (e.demand 0).pwr
      bus := { e.bus with
        entries := upd e.bus.entries i fun _ => 2, walk := some { w with item := some j, retry := false } } } := by
  let f := (e.driven w).count R.I2CP_NACK_CNT
  have next : f.nextEntry w.slot (i + 1) = some j := by
    rw [← hj]
    exact nextEntry_of_rd (fun k => rd_count_other _ _ _ (list_ne (by decide) k)) _ _
  have refused : e.retried w .nack = { f with bus := { e.bus with
      entries := upd e.bus.entries i fun _ => 2, walk := some { w with item := some j, retry := false } } } := by
    unfold retried itemNack
    rw [driven_eq, hi]
    exact entryNext_some next
  rw [refused]
  exact ⟨rd_count_same (e.driven w) _, regsKept_count (e.driven w) _, rfl, rfl⟩

end

/-! ### A valid ID -/

/-- A field of an ID header: k bytes from byte i on (R112). -/
def idField (d : List Byte) (i k : Nat) : Nat := natOfBytes ((d.drop i).take k)

/-- The gain of a slot and the identity of its pod stand in registers, and its census is done (R95, R113). -/
def identified (e : Engine) (n : Nat) (d : List Byte) : Engine :=
  (((e.wr (R.FEn_GAIN n) (w32 (2 ^ 30 + idField d 4 2))).censusTo n 1).wr (R.POD_ID0 + 4 * n)
    (w32 (idField d 6 2 * 65536 + idField d 12 1 * 256 + idField d 3 1))).wr (R.POD_SER0 + 4 * n) (w32 (idField d 8 4))

/-- The registers of a slot's identity are different ones, and no list entries. -/
theorem idKeys {n : Nat} (h : n < 4) :
    (∀ k ∈ [R.FEn_GAIN n, R.POD_ID0 + 4 * n, R.POD_SER0 + 4 * n], k % 65536 ≠ R.I2CP_LIST) ∧
    R.FEn_GAIN n ≠ R.POD_ID0 + 4 * n ∧ R.FEn_GAIN n ≠ R.POD_SER0 + 4 * n ∧ R.POD_ID0 + 4 * n ≠ R.POD_SER0 + 4 * n := by
  revert n
  decide

theorem regsKept_identified (e : Engine) (n : Nat) (d : List Byte) :
    RegsKept [R.FEn_GAIN n, R.POD_ID0 + 4 * n, R.POD_SER0 + 4 * n] e (e.identified n d) :=
  (((regsKept_wr e _ _).of_rd (rd_censusTo _ n 1)).trans (regsKept_wr _ _ _)).trans (regsKept_wr _ _ _)

theorem rd_identified (e : Engine) {n : Nat} (h : n < 4) (d : List Byte) :
    (e.identified n d).rd (R.FEn_GAIN n) = w32 (2 ^ 30 + idField d 4 2) ∧
    (e.identified n d).rd (R.POD_ID0 + 4 * n) = w32 (idField d 6 2 * 65536 + idField d 12 1 * 256 + idField d 3 1) ∧
    (e.identified n d).rd (R.POD_SER0 + 4 * n) = w32 (idField d 8 4) := by
  obtain ⟨-, gainId, gainSer, idSer⟩ := idKeys h
  unfold identified
  refine ⟨?_, ?_, rd_wr_same _ _ _⟩
  · rw [rd_wr_other _ _ _ _ gainSer, rd_wr_other _ _ _ _ gainId, rd_censusTo, rd_wr_same]
  · rw [rd_wr_other _ _ _ _ idSer, rd_wr_same]

section
variable {e : Engine} {w : Walk} {d : List Byte} {j : Nat}

/-- A valid ID is taken, and the walk goes on to the slot's first entry (R113, R114). -/
theorem idResult_valid (hd : headerOk d = true) (hj : e.nextEntry w.slot 0 = some j) : e.idResult w d =
    { e.identified w.slot d with bus := { e.bus with walk := some { w with item := some j, retry := false } } } := by
  obtain ⟨notList, -⟩ := idKeys (slot_lt_of_nextEntry hj)
  have list (k : Nat) : (e.identified w.slot d).rd (win R.I2CP_LIST k) = e.rd (win R.I2CP_LIST k) :=
    regsKept_identified e w.slot d _ fun mem => list_ne (notList _ mem) k rfl
  have valid : e.idResult w d = (e.identified w.slot d).entryNext w 0 := if_pos hd
  rw [valid]
  exact entryNext_some ((nextEntry_of_rd list _ _).trans hj)

theorem transaction_id_spec (hi : w.item = none) (hd : headerOk d = true) (hj : e.nextEntry w.slot 0 = some j) :
    (e.transaction w (.bytes d)).rd (R.FEn_GAIN w.slot) = w32 (2 ^ 30 + idField d 4 2) ∧
    (e.transaction w (.bytes d)).rd (R.POD_ID0 + 4 * w.slot) =
      w32 (idField d 6 2 * 65536 + idField d 12 1 * 256 + idField d 3 1) ∧
    (e.transaction w (.bytes d)).rd (R.POD_SER0 + 4 * w.slot) = w32 (idField d 8 4) ∧
    RegsKept [R.FEn_GAIN w.slot, R.POD_ID0 + 4 * w.slot, R.POD_SER0 + 4 * w.slot] e (e.transaction w (.bytes d)) ∧
    (e.transaction w (.bytes d)).tx = e.tx ++ [e.itemTx w] ∧
    e.transaction w (.bytes d) = { e.marked (e.transaction w (.bytes d)) with
      tx := (e.transaction w (.bytes d)).tx, pwr := (e.demand 0).pwr
      pods := (e.setPod w.slot fun p => { p with census := 1 }).pods
      bus := { e.bus with walk := some { w with item := some j, retry := false } } } := by
  have long : d.length = e.itemLen w := by
    rw [itemLen, hi]
    simp only [headerOk, Bool.and_eq_true, beq_iff_eq] at hd
    exact hd.1.1.1
  have read : (e.driven w).itemRead w d = (e.driven w).idResult w d := by rw [itemRead, hi]
  rw [transaction_bytes long, read, idResult_valid (e := e.driven w) hd hj]
  obtain ⟨gain, id, serial⟩ := rd_identified (e.driven w) (slot_lt_of_nextEntry hj) d
  exact ⟨gain, id, serial, regsKept_identified (e.driven w) _ _, rfl, rfl⟩

end

/-! ### A bus that is stuck -/

/-- A bus that is found stuck: SDA is given the recovery sequence, SCL none (R118). -/
theorem busFound_eq {e : Engine} (h : e.bus.recovering = false) (scl : Bool) : e.busFound scl = { e with
    tx := if scl then e.tx else e.tx ++ [.podRecover false]
    bus := { e.bus with recovering := true, stuckAt := e.time.now, stuckScl := scl } } := by
  unfold busFound
  rw [h]
  cases scl with
  | true => rfl
  | false => exact send_local (t := .podRecover false) rfl _

/-- The bus is free again after a recovery sequence (R118). -/
def recovered (e : Engine) : Engine :=
  { e with tx := e.tx ++ [Tx.podRecover true], bus := { e.bus with recovering := false } }

/-- Which is counted and told (R118). -/
def recoveryTold (e : Engine) : Engine := (e.recovered.count R.I2CP_RECOV_CNT).istat 0x08 2

theorem regsKept_recoveryTold (e : Engine) : RegsKept [R.I2CP_RECOV_CNT, istatKey 0x08] e e.recoveryTold :=
  (regsKept_count e.recovered _).trans (regsKept_istat _ _ _)

theorem rd_recoveryTold (e : Engine) :
    e.recoveryTold.rd R.I2CP_RECOV_CNT = bump16 (e.rd R.I2CP_RECOV_CNT) ∧
    e.recoveryTold.rd (istatKey 0x08) = e.rd (istatKey 0x08) ||| 2#32 := by
  unfold recoveryTold
  refine ⟨?_, ?_⟩
  · rw [rd_istat_other _ _ _ _ (by decide), rd_count_same]
    rfl
  · rw [rd_istat_same, rd_count_other _ _ _ (by decide)]
    rfl

/-- The census of a slot is given up: its status, NONE for its entries, no gain (R95, R114, R118). -/
def givenUp (e : Engine) (n st : Nat) : Engine := ((e.censusTo n st).entriesTo n 0).noGain n

theorem regsKept_givenUp (e : Engine) (n st : Nat) : RegsKept [R.FEn_GAIN n] e (e.givenUp n st) := regsKept_wr _ _ _

/-- A gain has none of the keys below the lanes' pages. -/
theorem ne_gain {k : Nat} (h : k < 0x1048) (n : Nat) : k ≠ R.FEn_GAIN n := by
  change k ≠ 0x1048 + 256 * n
  omega

theorem busFreed_spec {e : Engine} {w : Walk} {n : Nat} {t : List Nat} (hs : w.starting = false) (ht : w.todo = n :: t)
    (hok : e.podOk n = true) :
    (e.busFreed w).rd R.I2CP_RECOV_CNT = bump16 (e.rd R.I2CP_RECOV_CNT) ∧
    (e.busFreed w).rd (istatKey 0x08) = e.rd (istatKey 0x08) ||| 2#32 ∧ (e.busFreed w).rd (R.FEn_GAIN w.slot) = 0#32 ∧
    RegsKept [R.I2CP_RECOV_CNT, istatKey 0x08, R.FEn_GAIN w.slot] e (e.busFreed w) ∧
    e.busFreed w = { e.marked (e.busFreed w) with
      tx := e.tx ++ [.podRecover true], pods := (e.censusTo w.slot 4).pods
      bus := { e.bus with
        recovering := false, entries := (e.entriesTo w.slot 0).bus.entries
        walk := some { w with
          todo := t, slot := n, item := none, retry := false, visited := w.visited ||| BitVec.ofNat 4 (2 ^ n) } } } := by
  have next : e.busFreed w = (e.recoveryTold.givenUp w.slot 4).walkNext w := by
    unfold busFreed
    rw [send_local rfl]
    exact if_neg (by rw [hs]; decide)
  have list (j : Nat) : e.recoveryTold.rd (win R.I2CP_LIST j) = e.rd (win R.I2CP_LIST j) :=
    e.regsKept_recoveryTold _ (by simpa using ⟨list_ne (by decide) j, list_ne (by decide) j⟩)
  have entries : (e.recoveryTold.givenUp w.slot 4).bus.entries = (e.entriesTo w.slot 0).bus.entries :=
    entriesTo_of_rd list rfl _ _
  have ready : (e.recoveryTold.givenUp w.slot 4).podOk n = true := (podOk_censusTo e.recoveryTold _ _ _).trans hok
  rw [next, walkNext_ready ht ready, ← entries]
  obtain ⟨count, told⟩ := e.rd_recoveryTold
  have gone := e.recoveryTold.regsKept_givenUp w.slot 4
  exact ⟨(gone _ (by simpa using ne_gain (by decide) _)).trans count, (gone _ (by simpa using ne_gain (by decide) _)).trans told,
    rd_noGain_same _ _, e.regsKept_recoveryTold.trans gone, rfl⟩

/-! ### A walk that a stuck bus ends -/

/-- f is e after the census of slots has been given up: their gains, and what stands of slots and the bus (R95, R116, R119). -/
def GivesUp (slots : List Nat) (e f : Engine) : Prop :=
  RegsKept (slots.map R.FEn_GAIN) e f ∧ f = { e with regs := f.regs, pods := f.pods, bus := f.bus }

theorem GivesUp.trans {l m : List Nat} {e f g : Engine} (h : GivesUp l e f) (h' : GivesUp m f g) : GivesUp (l ++ m) e g := by
  obtain ⟨kept, hf⟩ := h
  obtain ⟨kept', hg⟩ := h'
  rw [hf] at hg
  exact ⟨List.map_append ▸ kept.trans kept', hg⟩

theorem GivesUp.foldl {g : Engine → Nat → Engine} (hg : ∀ e n, GivesUp [n] e (g e n)) (l : List Nat) :
    ∀ e, GivesUp l e (l.foldl g e) := by
  induction l with
  | nil => exact fun e => ⟨fun _ _ => rfl, rfl⟩
  | cons n t ih => exact fun e => (hg e n).trans (ih (g e n))

/-- What a walk that a stuck bus ends leaves of its census: the slot under way is ABSENT, those still to visit have none, and the
affected ones are STALE (R116, R119). -/
def walkDropped (e : Engine) (w : Walk) : Engine :=
  (slotsOf w.affected).foldl (fun e n => ((e.censusTo n 5).entriesTo n 3).noGain n)
    (w.todo.foldl (fun e n => (e.censusTo n 0).noGain n) (if w.starting then e else e.givenUp w.slot 4))

theorem givesUp_walkDropped (e : Engine) (w : Walk) : GivesUp (w.slot :: w.todo ++ slotsOf w.affected) e (e.walkDropped w) := by
  have first : GivesUp [w.slot] e (if w.starting then e else e.givenUp w.slot 4) := by
    split
    · exact ⟨fun _ _ => rfl, rfl⟩
    · exact ⟨e.regsKept_givenUp _ _, rfl⟩
  exact (first.trans (.foldl (fun e n => ⟨(regsKept_wr (e.censusTo n 0) _ _), rfl⟩) _ _)).trans
    (.foldl (fun e n => ⟨regsKept_wr ((e.censusTo n 5).entriesTo n 3) _ _, rfl⟩) _ _)

theorem busLost_spec (e : Engine) (w : Walk) :
    (e.busLost w).rd (estatKey 0x08) = e.rd (estatKey 0x08) ||| 1#32 ∧
    (e.busLost w).rd (istatKey 0x08) = e.rd (istatKey 0x08) ||| 1#32 ∧
    RegsKept ([estatKey 0x08, istatKey 0x08] ++ (w.slot :: w.todo ++ slotsOf w.affected).map R.FEn_GAIN) e (e.busLost w) ∧
    (e.busLost w).bus.walk = none ∧ (e.busLost w).bus.recovering = false ∧ (e.busLost w).bus.needRecover = true ∧
    e.busLost w = { e.marked (e.busLost w) with
      pods := (e.busLost w).pods, bus := (e.busLost w).bus, arriving := e.arriving ++ [e.event 0x2 0x08 1 w.slot] } := by
  obtain ⟨kept, dropped⟩ := e.givesUp_walkDropped w
  have below {k : Nat} (h : k < 0x1048) : (e.walkDropped w).rd k = e.rd k := kept k fun mem => by
    obtain ⟨n, -, hn⟩ := List.mem_map.mp mem
    exact ne_gain h n hn.symm
  let f : Engine := { e.walkDropped w with bus := (e.busLost w).bus }
  have lost : e.busLost w = ((f.istat 0x08 1).estat 0x08 1).push 0x2 0x08 1 w.slot := rfl
  have rd_lost (k : Nat) : (e.busLost w).rd k = ((f.istat 0x08 1).estat 0x08 1).rd k := by rw [lost, rd_push]
  have told : RegsKept [istatKey 0x08, estatKey 0x08] f ((f.istat 0x08 1).estat 0x08 1) :=
    (regsKept_istat f _ _).trans (regsKept_estat _ _ _)
  refine ⟨?_, ?_, fun k hk => ?_, rfl, rfl, rfl, ?_⟩
  · rw [rd_lost, rd_estat_same, rd_istat_other _ _ _ _ (by decide)]
    exact congrArg (· ||| 1#32) (below (by decide))
  · rw [rd_lost, rd_estat_other _ _ _ _ (by decide), rd_istat_same]
    exact congrArg (· ||| 1#32) (below (by decide))
  · rw [List.mem_append, not_or] at hk
    rw [rd_lost, told k (by simpa [and_comm] using hk.1)]
    exact kept k hk.2
  · have pushed := ((onlyRegs_istat f 0x08 1).trans (onlyRegs_estat _ 0x08 1)).push 0x2 0x08 1 w.slot
    have rest : f = { e with regs := f.regs, pods := f.pods, bus := f.bus } :=
      congrArg (fun x : Engine => { x with bus := (e.busLost w).bus }) dropped
    exact pushed.trans (congrArg (fun x : Engine => ({ x.marked (e.busLost w) with
      arriving := x.arriving ++ [x.event 0x2 0x08 1 w.slot] } : Engine)) rest)

/-! ### Commands that go on with a walk -/

/-- What acts on the walk under way where its guard holds. -/
def onWalk (g : Engine → Walk → Bool) (f : Engine → Walk → Engine) (e : Engine) : Engine :=
  match e.bus.walk with
  | some w => if g e w then f e w else e
  | none => e

end Engine

section
variable {c : Instr} {s : State} {w : Walk} (g : Engine → Walk → Bool) (f : Engine → Walk → Engine)
  (h : exec c s = done s (Engine.onWalk g f))
include h

/-- A command on the walk under way. Give g and f, and rfl for h. -/
theorem leaves_onWalk (hw : s.eng.bus.walk = some w) (hg : g s.eng w = true) : Leaves c s (f s.eng w) := by
  have acts : s.eng.onWalk g f = f s.eng w := by
    unfold Engine.onWalk
    rw [hw]
    exact if_pos hg
  rw [Leaves, h, done, acts]

theorem idles_onWalk (hw : ∀ w, s.eng.bus.walk = some w → g s.eng w = false) : Idles c s := by
  have acts : s.eng.onWalk g f = s.eng := by
    unfold Engine.onWalk
    split
    next w walks => rw [if_neg (by rw [hw w walks]; decide)]
    next => rfl
  rw [Idles, Leaves, h, done, acts]

end

section
variable {s : State} {w : Walk} (hw : s.eng.bus.walk = some w) (hon : s.eng.isOn 0 = true)
include hw hon

theorem censusTransaction_leaves (hrec : s.eng.bus.recovering = false) (hretry : w.retry = false) (r : BusReply) :
    Leaves (.censusTransaction r) s (s.eng.transaction w r) :=
  leaves_onWalk (fun e w => e.isOn 0 && !w.retry && !e.bus.recovering) (·.transaction · r) rfl hw (by simp [*])

theorem censusRetry_leaves (hrec : s.eng.bus.recovering = false) (hretry : w.retry = true)
    (hlate : s.eng.bus.nackAt + 625000 ≤ s.eng.time.now) (r : BusReply) : Leaves (.censusRetry r) s (s.eng.retried w r) :=
  leaves_onWalk (fun e w => e.isOn 0 && w.retry && !e.bus.recovering && e.bus.nackAt + 625000 ≤ e.time.now) (·.retried · r) rfl
    hw (by simp [*])

theorem busStuck_leaves (c : BusStuckCause) (freed : Bool) :
    Leaves (.busStuck c freed) s (s.eng.busRecovery w (c == .scl) freed) :=
  leaves_onWalk (fun e _ => e.isOn 0) (·.busRecovery · (c == .scl) freed) rfl hw hon

theorem podBusStuck_leaves (h : s.eng.busHopeless = true) : Leaves .podBusStuck s (s.eng.busLost w) :=
  leaves_onWalk (fun e _ => e.isOn 0 && e.busHopeless) Engine.busLost rfl hw (by simp [*])

end

theorem podBusStuck_idles {s : State} (h : s.eng.bus.walk = none ∨ s.eng.isOn 0 = false ∨ s.eng.busHopeless = false) :
    Idles .podBusStuck s :=
  idles_onWalk (fun e _ => e.isOn 0 && e.busHopeless) Engine.busLost rfl fun w hw => by
    rcases h with h | h | h
    · rw [hw] at h
      cases h
    all_goals simp [h]

theorem busStuck_idles {s : State} (h : s.eng.bus.walk = none ∨ s.eng.isOn 0 = false) (c : BusStuckCause) (freed : Bool) :
    Idles (.busStuck c freed) s :=
  idles_onWalk (fun e _ => e.isOn 0) (·.busRecovery · (c == .scl) freed) rfl fun w hw => h.resolve_left (by simp [hw])

namespace Engine

/-! ### What a free or a stuck bus leads to -/

section
variable {e : Engine} (w : Walk)

theorem busRecovery_found (scl : Bool) : e.busRecovery w scl false = e.busFound scl := rfl

/-- SCL that is released lets the transaction go on, where it was SCL that was stuck (R118). -/
theorem busRecovery_released : e.busRecovery w true true =
    if e.bus.recovering && e.bus.stuckScl then { e with bus := { e.bus with recovering := false } } else e := rfl

/-- SDA that is free counts as recovered, unless it is SCL that was stuck or the 25 ms are over (R118). -/
theorem busRecovery_sda : e.busRecovery w false true =
    if e.bus.recovering && (e.bus.stuckScl || decide (e.bus.stuckAt + 15625000 < e.time.now)) then e else e.busFreed w := rfl

theorem busRecovery_freed
    (h : e.bus.recovering = false ∨ (e.bus.stuckScl = false ∧ e.time.now ≤ e.bus.stuckAt + 15625000)) :
    e.busRecovery w false true = e.busFreed w := by
  rw [busRecovery_sda]
  refine if_neg ?_
  rcases h with h | ⟨hscl, hsoon⟩
  · simp [h]
  · simp [hscl, hsoon]

end

theorem busHopeless_iff {e : Engine} : e.busHopeless = true ↔
    e.bus.recovering = true ∧ e.bus.stuckAt + (if e.bus.stuckScl then 6250000 else 15625000) ≤ e.time.now := by
  rw [busHopeless, Bool.and_eq_true, decide_eq_true_eq, stuckLimit]

/-- The transaction under way, by the item that the walk is at (R112, R115). -/
theorem itemTx_eq (e : Engine) (w : Walk) : e.itemTx w = match w.item with
    | none => .podRead (0x50 + w.slot) 0 32
    | some i => .podRead (e.rf (win R.I2CP_LIST i) 16 7) (e.rf (win R.I2CP_LIST i) 0 8) (e.rf (win R.I2CP_LIST i) 24 2 + 1) := by
  unfold itemTx itemLen
  cases w.item <;> rfl

end Engine

/-- Settles O35: a transaction by its reply and the item under way, a stuck bus by its line and whether a recovery is under way. -/
theorem censusTransactionsAndBusFaults : Obligations.CensusTransactionsAndBusFaults := by
  refine ⟨?_, ?_, fun s c b h => ⟨busStuck_idles h c b, podBusStuck_idles (h.imp_right .inl)⟩⟩
  · intro s w hw hon hrec said
    have driven {e : Engine} (he : e.tx = s.eng.tx ++ [s.eng.itemTx w]) : said e := by
      rw [Engine.itemTx_eq] at he
      exact he
    have goesOn {r : BusReply} (hretry : w.retry = false) := censusTransaction_leaves hw hon hrec hretry r
    refine ⟨fun hretry => ?_, fun d i j hretry hi hd hj => ?_, fun d j hretry hi hd hj => ?_, fun i j hretry hlate hi hj => ?_⟩
    · obtain ⟨count, kept, tx, rest⟩ := s.eng.transaction_nack_spec w
      exact ⟨_, goesOn hretry, count, kept, driven tx, rest⟩
    · obtain ⟨result, kept, tx, rest⟩ := Engine.transaction_entry_spec hi hd hj
      exact ⟨_, goesOn hretry, result, kept, driven tx, rest⟩
    · obtain ⟨gain, id, serial, kept, tx, rest⟩ := Engine.transaction_id_spec hi hd hj
      exact ⟨_, goesOn hretry, gain, id, serial, kept, driven tx, rest⟩
    · obtain ⟨count, kept, tx, rest⟩ := Engine.retried_nack_spec hi hj
      exact ⟨_, censusRetry_leaves hw hon hrec hretry hlate _, count, kept, driven tx, rest⟩
  · intro s w hw hon now
    have sda (b : Bool) : Leaves (.busStuck .sda b) s (s.eng.busRecovery w false b) := busStuck_leaves hw hon .sda b
    have scl (b : Bool) : Leaves (.busStuck .scl b) s (s.eng.busRecovery w true b) := busStuck_leaves hw hon .scl b
    refine ⟨fun hrec => ⟨?_, ?_, ?_⟩, fun hrec => ⟨fun hscl => ?_, fun hlate => ?_⟩, fun n t ht hok hs hfree => ?_,
      fun hlow => podBusStuck_idles (.inr (.inr (Bool.eq_false_iff.mpr fun h => hlow (Engine.busHopeless_iff.mp h)))),
      fun hlow => ⟨_, podBusStuck_leaves hw hon (Engine.busHopeless_iff.mpr hlow), s.eng.busLost_spec w⟩⟩
    · have found := sda false
      rw [Engine.busRecovery_found, Engine.busFound_eq hrec] at found
      exact found
    · have found := scl false
      rw [Engine.busRecovery_found, Engine.busFound_eq hrec] at found
      exact found
    · have released := scl true
      rw [Engine.busRecovery_released, hrec] at released
      exact released
    · have released := scl true
      rw [Engine.busRecovery_released, hrec, hscl] at released
      exact released
    · have late := sda true
      rw [Engine.busRecovery_sda, if_pos (by simpa [hrec] using hlate)] at late
      exact late
    · have freed := sda true
      rw [Engine.busRecovery_freed w hfree] at freed
      exact ⟨_, freed, Engine.busFreed_spec hs ht hok⟩

end Sys2Proof.Machine
end

section
/-! PROOF. O36: crossings of the timing inputs, timeouts of held starts, and terminations that trip. -/

namespace Sys2Proof.Machine

namespace Engine

/-! ### The state of an input -/

/-- An input that exists is updated in its place. -/
theorem setTin_eq {e : Engine} {i : Nat} {t : Tin} (h : e.tdc.tins[i]? = some t) (f : Tin → Tin) :
    e.setTin i f = { e with tdc := { e.tdc with tins := e.tdc.tins.set i (f t) } } := by
  rw [setTin, upd_eq_set h]

/-- Two updates of an input are one. -/
theorem setTin_setTin (e : Engine) (i : Nat) (f g : Tin → Tin) : (e.setTin i f).setTin i g = e.setTin i (g ∘ f) := by
  unfold setTin upd
  rw [List.modify_modify_eq]

theorem tin_of_getElem? {e : Engine} {i : Nat} {t : Tin} (h : e.tdc.tins[i]? = some t) : e.tin i = t := by
  rw [tin, List.getD_eq_getElem?_getD, h]
  rfl

theorem OnlyRegs.setTin {e f : Engine} (h : OnlyRegs e f) (i : Nat) (g : Tin → Tin) :
    OnlyRegs (e.setTin i g) (f.setTin i g) := by
  unfold OnlyRegs at h ⊢
  rw [h]
  rfl

/-! ### The delivery of an edge -/

/-- A lost edge is not recorded, nor one of an input that does not record (R128). -/
theorem recEdge_unrecorded {e : Engine} {d : Edge} (h : d.lost = true ∨ e.rb R.TDC_CTL (8 + d.input) = false) :
    e.recEdge d = e := by
  unfold recEdge
  rcases h with h | h <;> simp [h]

/-- A unit that holds no start takes nothing of a lost edge, and where it is off nothing of any edge (R132). -/
theorem unitEdge_unheld {e : Engine} {d : Edge} {k : Nat} (held : (e.unit k).start = none)
    (off : d.lost = true ∨ e.unitCfg k 31 1 = 0) : e.unitEdge d k = e := by
  unfold unitEdge
  rcases off with lost | off
  · simp [lost, held]
  · cases d.lost <;> simp [held, qualifies, off]

/-- The delivery of one edge that neither the recorder nor a unit takes: a lost one leaves nothing, another its held stamp alone
(R128, R132). -/
theorem deliverAll_unseen {e : Engine} {d : Edge} (held : ∀ k < 4, (e.unit k).start = none)
    (unseen : d.lost = true ∨ (e.rb R.TDC_CTL (8 + d.input) = false ∧ ∀ k < 4, e.unitCfg k 31 1 = 0)) :
    e.deliverAll [d] = if d.lost then e else e.setTin d.input fun t => { t with stamp := d.stamp, stampLost := d.flag } := by
  have recorded : e.recEdge d = e := recEdge_unrecorded (unseen.imp_right And.left)
  have units : (List.range 4).foldl (fun e k => e.unitEdge d k) e = e := by
    refine List.foldlRecOn (motive := (· = e)) _ _ rfl fun f hf k hk => ?_
    have hk := List.mem_range.mp hk
    rw [hf]
    exact unitEdge_unheld (held k hk) (unseen.imp_right fun h => h.2 k hk)
  unfold deliverAll
  simp only [List.mergeSort_singleton, List.foldl_cons, List.foldl_nil, recorded, units]

theorem deliverAll_nil (e : Engine) : e.deliverAll [] = e := by
  have units : (List.range 4).foldl (fun e _ => e) e = e := rfl
  unfold deliverAll
  simp only [List.mergeSort_nil, List.foldl_nil, units]

theorem tinEdges_nil (e : Engine) : e.tinEdges [] = e := by
  simp only [tinEdges, List.foldl_nil, List.mergeSort_nil, deliverAll_nil]

theorem tinEdges_of_none {e f : Engine} {c : TinCap} (h : e.tinCross c = (f, none)) : e.tinEdges [c] = f := by
  simp only [tinEdges, List.foldl_cons, List.foldl_nil, h, List.mergeSort_nil, deliverAll_nil]

theorem tinEdges_of_some {e f : Engine} {c : TinCap} {d : Edge} (h : e.tinCross c = (f, some d)) :
    e.tinEdges [c] = f.deliverAll [d] := by
  simp only [tinEdges, List.foldl_cons, List.foldl_nil, h, List.nil_append, List.mergeSort_singleton]

/-! ### A crossing -/

section
variable (e : Engine) (c : TinCap)

/-- Half the hysteresis of the input of a crossing. -/
def capHalf : Int := tinHalf (e.rf (R.TDC_TIN0 + 4 * c.input) 24 2)

/-- The pin has left the hysteresis against the comparator's output (R124). -/
def toggles : Bool :=
  if (e.tin c.input).level then c.nv < e.tinThr c.input - e.capHalf c else e.tinThr c.input + e.capHalf c < c.nv

/-- The pin's voltage alone has moved. -/
def tinMoved : Engine := e.setTin c.input fun t => { t with volt := c.nv }

/-- The comparator's output has followed. -/
def tinToggled : Engine := (e.tinMoved c).setTin c.input fun t => { t with level := !(e.tin c.input).level }

/-- The stamp of the edge that a toggle makes (R126). -/
def capStamp : BitVec 64 :=
  stampOf c.cr (e.center c.input c.tap.toNat) (e.tinOfs c.input (!(e.tin c.input).level))

/-- It lies within the dead time of the last stamped edge (R127). -/
def tooClose : Bool :=
  match (e.tin c.input).last with
  | some l => decide ((e.capStamp c - l).toNat < 400)
  | none => false

/-- The registers of a lost edge (R127). -/
def edgeLost (i : Nat) : Engine := ((e.count R.TDC_LOST).estat 0x14 (2 ^ i)).istat 0x14 1

theorem onlyRegs_edgeLost (i : Nat) : OnlyRegs e (e.edgeLost i) :=
  ((onlyRegs_count e _).trans (onlyRegs_estat _ _ _)).trans (onlyRegs_istat _ _ _)

theorem regsKept_edgeLost (i : Nat) : RegsKept [R.TDC_LOST, estatKey 0x14, istatKey 0x14] e (e.edgeLost i) :=
  ((regsKept_count e _).trans (regsKept_estat _ _ _)).trans (regsKept_istat _ _ _)

theorem rd_edgeLost (i : Nat) :
    (e.edgeLost i).rd R.TDC_LOST = bump16 (e.rd R.TDC_LOST) ∧
    (e.edgeLost i).rd (estatKey 0x14) = e.rd (estatKey 0x14) ||| w32 (2 ^ i) ∧
    (e.edgeLost i).rd (istatKey 0x14) = e.rd (istatKey 0x14) ||| 1#32 := by
  unfold edgeLost
  refine ⟨?_, ?_, ?_⟩
  · rw [rd_istat_other _ _ _ _ (by decide), rd_estat_other _ _ _ _ (by decide), rd_count_same]
  · rw [rd_istat_other _ _ _ _ (by decide), rd_estat_same, rd_count_other _ _ _ (by decide)]
  · rw [rd_istat_same, rd_estat_other _ _ _ _ (by decide), rd_count_other _ _ _ (by decide)]
    rfl

/-- An edge within the dead time, with the flag for the next stamp (R127). -/
def tinLost : Engine := ((e.tinToggled c).edgeLost c.input).setTin c.input fun t => { t with lostFlag := true, lostTide := true }

/-- An edge that is stamped (R126). -/
def tinStamped : Engine := (e.tinToggled c).setTin c.input fun t => { t with last := some (e.capStamp c), lostFlag := false }

/-- An edge that is stamped, with its stamp held for the registers (R128). -/
def tinHeld : Engine :=
  (e.tinStamped c).setTin c.input fun t => { t with stamp := e.capStamp c, stampLost := (e.tin c.input).lostFlag }

theorem rd_tinStamped (k : Nat) : (e.tinStamped c).rd k = e.rd k := by
  simp only [tinStamped, tinToggled, tinMoved, rd_setTin]

/-- What a crossing does, by the branches of R124, R126 and R127. -/
theorem tinCross_eq : e.tinCross c =
    if !e.tinRuns c.input || !e.toggles c then (e.tinMoved c, none)
    else if !(e.isOn 5 && e.slopeHas c.input (!(e.tin c.input).level)) then (e.tinToggled c, none)
    else if e.tooClose c then (e.tinLost c, some ⟨e.capStamp c, c.input, !(e.tin c.input).level, true, false⟩)
    else (e.tinStamped c, some ⟨e.capStamp c, c.input, !(e.tin c.input).level, false, (e.tin c.input).lostFlag⟩) := by
  have holds : (!e.toggles c) = if (e.tin c.input).level then !decide (c.nv < e.tinThr c.input - e.capHalf c)
      else !decide (e.tinThr c.input + e.capHalf c < c.nv) := by
    unfold toggles
    split <;> rfl
  rw [holds]
  rfl

end

section
variable {e : Engine} {c : TinCap}

theorem toggles_of_beyond (h : if (e.tin c.input).level then c.nv < e.tinThr c.input - e.capHalf c
    else e.tinThr c.input + e.capHalf c < c.nv) : e.toggles c = true := by
  unfold toggles
  split at h <;> simp [*]

/-- At either bound of the hysteresis, and between them, the output holds (R124). -/
theorem toggles_of_within (h : if (e.tin c.input).level then e.tinThr c.input - e.capHalf c ≤ c.nv
    else c.nv ≤ e.tinThr c.input + e.capHalf c) : e.toggles c = false := by
  unfold toggles
  split at h <;> simp [*]

/-- An edge 400 fu or more after the last stamped edge, or the first one, is not lost (R127). -/
theorem tooClose_of_far (h : ∀ l, (e.tin c.input).last = some l → 400 ≤ (e.capStamp c - l).toNat) : e.tooClose c = false := by
  unfold tooClose
  split
  next l hl => simpa using h l hl
  next => rfl

theorem tooClose_of_near {l : BitVec 64} (hl : (e.tin c.input).last = some l) (h : (e.capStamp c - l).toNat < 400) :
    e.tooClose c = true := by
  rw [tooClose, hl]
  exact decide_eq_true h

/-- A pin that stays within the hysteresis, or whose input does not run, moves its voltage alone (R123, R124). -/
theorem tinEdges_moved (h : e.tinRuns c.input = false ∨ e.toggles c = false) : e.tinEdges [c] = e.tinMoved c := by
  refine tinEdges_of_none ?_
  rw [tinCross_eq, if_pos (by simpa using h)]

section
variable (runs : e.tinRuns c.input = true) (crossed : e.toggles c = true)
include runs crossed

/-- While the TDC wakes the comparator toggles and nothing is stamped (R123, R124). -/
theorem tinEdges_toggled (waking : e.isOn 5 = false) : e.tinEdges [c] = e.tinToggled c := by
  refine tinEdges_of_none ?_
  rw [tinCross_eq, if_neg (by simp [runs, crossed]), if_pos (by simp [waking])]

variable (on : e.isOn 5 = true) (selected : e.slopeHas c.input (!(e.tin c.input).level) = true)
  (held : ∀ k < 4, (e.unit k).start = none)
include on selected held

/-- A selected edge within the dead time is lost (R127). -/
theorem tinEdges_lost (close : e.tooClose c = true) : e.tinEdges [c] = e.tinLost c := by
  have cross := e.tinCross_eq c
  rw [if_neg (by simp [runs, crossed]), if_neg (by simp [on, selected]), if_pos close] at cross
  rw [tinEdges_of_some cross, deliverAll_unseen _ (.inl rfl), if_pos rfl]
  intro k hk
  have unit_lost : (e.tinLost c).unit k = e.unit k := by
    unfold tinLost tinToggled
    rw [(onlyRegs_edgeLost _ _).setTin]
    rfl
  rw [unit_lost, held k hk]

/-- Another is stamped, and where nothing records it and no unit looks at it its stamp alone is held (R126, R128). -/
theorem tinEdges_stamped (far : e.tooClose c = false) (unrecorded : e.rb R.TDC_CTL (8 + c.input) = false)
    (off : ∀ k < 4, e.unitCfg k 31 1 = 0) : e.tinEdges [c] = e.tinHeld c := by
  have cross := e.tinCross_eq c
  rw [if_neg (by simp [runs, crossed]), if_neg (by simp [on, selected]), if_neg (by simp [far])] at cross
  rw [tinEdges_of_some cross, deliverAll_unseen (e := e.tinStamped c) held (.inr ⟨?_, fun k hk => ?_⟩),
    if_neg Bool.false_ne_true]
  · rfl
  · rw [rb, rd_tinStamped]
    exact unrecorded
  · rw [unitCfg, rf, rd_tinStamped]
    exact off k hk

end

section
variable (ht : e.tdc.tins[c.input.val]? = some (e.tin c.input))
include ht

theorem tinToggled_eq : e.tinToggled c = { e with tdc := { e.tdc with
    tins := e.tdc.tins.set c.input { e.tin c.input with volt := c.nv, level := !(e.tin c.input).level } } } := by
  rw [tinToggled, tinMoved, setTin_setTin, setTin_eq ht]
  rfl

/-- A stamped edge moves its input alone (R126). -/
theorem tinHeld_eq : e.tinHeld c = { e with tdc := { e.tdc with
    tins := e.tdc.tins.set c.input { e.tin c.input with
      volt := c.nv, level := !(e.tin c.input).level, last := some (e.capStamp c), lostFlag := false
      stamp := e.capStamp c, stampLost := (e.tin c.input).lostFlag } } } := by
  rw [tinHeld, tinStamped, tinToggled, tinMoved, setTin_setTin, setTin_setTin, setTin_setTin, setTin_eq ht]
  rfl

/-- A lost edge leaves its registers and the flags of its input (R127). -/
theorem tinLost_spec :
    (e.tinLost c).rd R.TDC_LOST = bump16 (e.rd R.TDC_LOST) ∧
    (e.tinLost c).rd (estatKey 0x14) = e.rd (estatKey 0x14) ||| w32 (2 ^ c.input.val) ∧
    (e.tinLost c).rd (istatKey 0x14) = e.rd (istatKey 0x14) ||| 1#32 ∧
    RegsKept [R.TDC_LOST, estatKey 0x14, istatKey 0x14] e (e.tinLost c) ∧
    e.tinLost c = { e.marked (e.tinLost c) with tdc := { e.tdc with
      tins := e.tdc.tins.set c.input { e.tin c.input with
        volt := c.nv, level := !(e.tin c.input).level, lostFlag := true, lostTide := true } } } := by
  have rd_lost (k : Nat) : (e.tinLost c).rd k = ((e.tinToggled c).edgeLost c.input).rd k := rd_setTin _ _ _ _
  obtain ⟨hcnt, hest, hist⟩ := (e.tinToggled c).rd_edgeLost c.input
  have only : OnlyRegs _ (e.tinLost c) := ((e.tinToggled c).onlyRegs_edgeLost c.input).setTin _ _
  rw [tinToggled, tinMoved, setTin_setTin, setTin_setTin, setTin_eq ht] at only
  exact ⟨(rd_lost _).trans hcnt, (rd_lost _).trans hest, (rd_lost _).trans hist,
    ((e.tinToggled c).regsKept_edgeLost c.input).of_rd rd_lost, only⟩

end

end

/-! ### Timeouts and trips -/

/-- A held start as old as TDC_D_TMO, and not one of the future, has timed out, whatever the
TDC's power state (R133; the model's choice: log entry 49). -/
theorem timedOut_of_old {e : Engine} {k : Nat} {st : BitVec 64} (hst : (e.unit k).start = some st)
    (old : (e.rd (win R.TDC_D_TMO k)).toNat ≤ (e.time.tb - coarseOf st).toNat)
    (past : (e.time.tb - coarseOf st).toNat < 2 ^ 55) : e.timedOut k = true := by
  rw [timedOut, hst]
  exact Bool.and_eq_true_iff.mpr ⟨decide_eq_true old, decide_eq_true past⟩

/-- The held start of a unit is given up: the result that it owes, and its items where the unit records (R133, R134). -/
def startGivenUp (e : Engine) (k : Nat) : Engine := { e with
  tdc := { e.tdc with
    units := (e.setUnit k fun u => { u with start := none, lost := false }).tdc.units
    res := e.tdc.res ++ [{ due := e.time.now + 3, unit := k, ival := none }] }
  recb := if e.rb R.TDC_CTL (4 + k) then (e.inCyc 4 e.time.now fun c =>
    { c with diffs := c.diffs ++ diffItems k true (e.unit k).lost 0 }).recb else e.recb }

theorem unitTimeout_eq (e : Engine) (k : Nat) :
    e.unitTimeout k = ((e.startGivenUp k).istat 0x14 2).pushIf (e.rb R.TDC_EVT 4) 0x4 0x02 3 k := by
  have record : (e.setUnit k fun u => { u with start := none, lost := false }).rb R.TDC_CTL (4 + k) = e.rb R.TDC_CTL (4 + k) := rfl
  simp only [unitTimeout, startGivenUp, record]
  split <;> rfl

theorem unitTimeout_spec (e : Engine) (k : Nat) :
    (e.unitTimeout k).rd (istatKey 0x14) = e.rd (istatKey 0x14) ||| 2#32 ∧ RegsKept [istatKey 0x14] e (e.unitTimeout k) ∧
    e.unitTimeout k = { e.marked (e.unitTimeout k) with
      tdc := (e.startGivenUp k).tdc, recb := (e.startGivenUp k).recb
      arriving := e.arriving ++ if e.rb R.TDC_EVT 4 then [e.event 0x4 0x02 3 k] else [] } := by
  rw [unitTimeout_eq]
  have rd_timeout (j : Nat) := rd_pushIf ((e.startGivenUp k).istat 0x14 2) (e.rb R.TDC_EVT 4) 0x4 0x02 3 k j
  exact ⟨(rd_timeout _).trans (rd_istat_same _ _ _), (regsKept_istat (e.startGivenUp k) _ _).of_rd rd_timeout,
    (onlyRegs_istat _ _ _).pushIf _ _ _ _ _⟩

/-- The termination of an input is tripped. -/
def tripped (e : Engine) (i : Nat) : Engine := e.setTin i fun t => { t with trip := true }

theorem termTrip_spec (e : Engine) (i : Nat) :
    (e.termTrip i).rd (estatKey 0x14) = e.rd (estatKey 0x14) ||| 16#32 ∧
    (e.termTrip i).rd (istatKey 0x14) = e.rd (istatKey 0x14) ||| 1024#32 ∧
    RegsKept [estatKey 0x14, istatKey 0x14] e (e.termTrip i) ∧
    e.termTrip i = { e.marked (e.termTrip i) with
      tdc := { e.tdc with tins := (e.tripped i).tdc.tins }, arriving := e.arriving ++ [e.event 0x4 0x05 0 i] } := by
  have rd_trip (k : Nat) : (e.termTrip i).rd k = (((e.tripped i).estat 0x14 16).istat 0x14 1024).rd k := rd_push _ _ _ _ _ _
  refine ⟨?_, ?_, ?_, ((onlyRegs_estat (e.tripped i) _ _).trans (onlyRegs_istat _ _ _)).push _ _ _ _⟩
  · rw [rd_trip, rd_istat_other _ _ _ _ (by decide)]
    exact rd_estat_same (e.tripped i) _ _
  · rw [rd_trip, rd_istat_same, rd_estat_other _ _ _ _ (by decide)]
    rfl
  · exact ((regsKept_estat (e.tripped i) 0x14 16).trans (regsKept_istat _ _ _)).of_rd rd_trip

end Engine

theorem leaves_tinEdge {s : State} {caps : List TinCap} {e : Engine} (h : s.eng.tinEdges caps = e) :
    Leaves (.tinEdge caps) s e := by
  rw [← h]
  rfl

/-- Settles O36: a crossing by whether the comparator follows, whether the TDC stamps and how far the last stamped edge lies; a
timeout and a trip by what each tells. -/
theorem timingInputs : Obligations.TimingInputs := by
  refine ⟨fun s => leaves_tinEdge s.eng.tinEdges_nil, ?_, fun s c t ht runs waking beyond => ?_,
    fun s c t ht runs on beyond selected unrecorded units => ?_, fun s k st hst old past => ?_,
    fun s i v n hterm htrip hana hphase hn hv => ?_⟩
  · intro s c half hstays
    have stays : s.eng.tinRuns c.input = false ∨ s.eng.toggles c = false := hstays.imp_right Engine.toggles_of_within
    exact leaves_tinEdge (Engine.tinEdges_moved stays)
  · obtain rfl := Engine.tin_of_getElem? ht
    have crossed : s.eng.toggles c = true := Engine.toggles_of_beyond beyond
    exact leaves_tinEdge ((Engine.tinEdges_toggled runs crossed waking).trans (Engine.tinToggled_eq ht))
  · obtain rfl := Engine.tin_of_getElem? ht
    have crossed : s.eng.toggles c = true := Engine.toggles_of_beyond beyond
    have held (k : Nat) (hk : k < 4) := (units k hk).2
    refine ⟨fun hfar => ?_, fun l hl hnear => ?_⟩
    · have far : s.eng.tooClose c = false := Engine.tooClose_of_far hfar
      have stamped := Engine.tinEdges_stamped runs crossed on selected held far unrecorded fun k hk => (units k hk).1
      exact leaves_tinEdge (stamped.trans (Engine.tinHeld_eq ht))
    · have close : s.eng.tooClose c = true := Engine.tooClose_of_near hl hnear
      exact ⟨_, leaves_tinEdge (Engine.tinEdges_lost runs crossed on selected held close), Engine.tinLost_spec ht⟩
  · exact does_guarded (·.timedOut k) (·.unitTimeout k) rfl (Engine.timedOut_of_old hst old past) (s.eng.unitTimeout_spec k)
  · exact does_guarded (fun e => e.rb (R.TDC_TIN0 + 4 * i) 27 && !(e.tin i).trip && e.pwr.enAna && e.sys.phase == .run &&
      16 ≤ n && (v < -3000000000 || 3000000000 < v)) (·.termTrip i) rfl (by simp [*]) (s.eng.termTrip_spec i)

end Sys2Proof.Machine
end

section
/-! PROOF. O37: one decision of the sequencer. A decision is the matchers' work, the count of the branches, and the winner's
actions; each leaves the engine steady, but for the trigger, which a fire action may be. -/

namespace Sys2Proof.Machine

namespace Engine

/-! ### Steady, quiet, triggered -/

/-- The registers that a decision may write (R148, R150, R153, R163). -/
abbrev decisionKeys : List Nat := [istatKey 0x18, istatKey 0x1A, R.SEQ_SAT, R.SEQ_LAST]

/-- What a decision never moves. -/
def outside (e : Engine) : TimeBlk × List Lane × List Pod × StgBlk × JobBlk × Bool × Nat :=
  (e.time, e.lanes, e.pods, e.stg, e.job, e.seq.running, e.seq.arm)

/-- What only the trigger moves. -/
def shot (e : Engine) : Bool × Option Nat × SysBlk := (e.seq.fired, e.seq.trigAt, e.sys)

/-- What the choice of the winner and the fire action depend on, and the events. -/
def standing (e : Engine) : Nat × List Nat × Bool × List Event := (e.seq.level, e.seq.cnt, e.seq.preHold, e.arriving)

/-- The interrupt source of the trigger is set (R153). -/
def toldTrigger (e : Engine) : Bool := bit (e.rd (istatKey 0x18)) 0

/-- b is a after steps of a decision none of which was the trigger. -/
structure Steady (a b : Engine) : Prop where
  regs : RegsKept decisionKeys a b
  told : a.toldTrigger = true → b.toldTrigger = true
  outside : b.outside = a.outside
  shot : b.shot = a.shot

/-- b is a after the work of the matchers, which says a match and no more (R163). -/
structure Quiet (a b : Engine) : Prop where
  regs : RegsKept [istatKey 0x1A] a b
  outside : b.outside = a.outside
  shot : b.shot = a.shot
  standing : b.standing = a.standing

/-- b is a after steps of a decision one of which was the trigger for word c (R153). -/
structure Triggers (c : Nat) (a b : Engine) : Prop where
  regs : RegsKept decisionKeys a b
  outside : b.outside = a.outside
  unfired : a.seq.fired = false
  fired : b.seq.fired = true
  trigAt : b.seq.trigAt = some c
  mode : b.sys.mode = .capture
  told : b.toldTrigger = true

theorem shot_iff {a b : Engine} : b.shot = a.shot ↔
    b.seq.fired = a.seq.fired ∧ b.seq.trigAt = a.seq.trigAt ∧ b.sys = a.sys := by
  simp only [shot, Prod.mk.injEq]

theorem Steady.refl (e : Engine) : Steady e e := ⟨fun _ _ => rfl, id, rfl, rfl⟩

theorem Steady.trans {a b c : Engine} (h : Steady a b) (h' : Steady b c) : Steady a c where
  regs k hk := (h'.regs k hk).trans (h.regs k hk)
  told t := h'.told (h.told t)
  outside := h'.outside.trans h.outside
  shot := h'.shot.trans h.shot

/-- An operation that is done where a condition holds. -/
theorem Steady.ite {a b : Engine} {p : Prop} [Decidable p] (h : Steady a b) : Steady a (if p then b else a) := by
  split
  · exact h
  · exact Steady.refl a

/-- A step that writes no register. -/
theorem steady_of_regs {a b : Engine} (hr : b.regs = a.regs) (ho : b.outside = a.outside) (hs : b.shot = a.shot) :
    Steady a b := by
  have rd (k : Nat) : b.rd k = a.rd k := by rw [rd_eq, rd_eq, hr]
  exact ⟨fun k _ => rd k, by rw [toldTrigger, toldTrigger, rd]; exact id, ho, hs⟩

theorem Quiet.refl (e : Engine) : Quiet e e := ⟨fun _ _ => rfl, rfl, rfl, rfl⟩

theorem Quiet.trans {a b c : Engine} (h : Quiet a b) (h' : Quiet b c) : Quiet a c where
  regs k hk := (h'.regs k hk).trans (h.regs k hk)
  outside := h'.outside.trans h.outside
  shot := h'.shot.trans h.shot
  standing := h'.standing.trans h.standing

theorem Quiet.steady {a b : Engine} (h : Quiet a b) : Steady a b where
  regs k hk := h.regs k fun hmem => hk (by simp_all)
  told := by rw [toldTrigger, toldTrigger, h.regs _ (by decide)]; exact id
  outside := h.outside
  shot := h.shot

theorem Triggers.steady {c : Nat} {a b b' : Engine} (h : Triggers c a b) (h' : Steady b b') : Triggers c a b' := by
  obtain ⟨hfired, htrigAt, hsys⟩ := shot_iff.mp h'.shot
  exact {
    regs k hk := (h'.regs k hk).trans (h.regs k hk)
    outside := h'.outside.trans h.outside
    unfired := h.unfired
    fired := hfired.trans h.fired
    trigAt := htrigAt.trans h.trigAt
    mode := (congrArg SysBlk.mode hsys).trans h.mode
    told := h'.told h.told }

theorem Steady.triggers {c : Nat} {a a' b : Engine} (h : Steady a a') (h' : Triggers c a' b) : Triggers c a b where
  regs k hk := (h'.regs k hk).trans (h.regs k hk)
  outside := h'.outside.trans h.outside
  unfired := (shot_iff.mp h.shot).1.symm.trans h'.unfired
  fired := h'.fired
  trigAt := h'.trigAt
  mode := h'.mode
  told := h'.told

/-! ### The operations of a decision -/

/-- Hardware only sets bits. -/
theorem toldTrigger_hwSet {e : Engine} (h : e.toldTrigger = true) (k : Nat) (m : Word) : (e.hwSet k m).toldTrigger = true := by
  unfold toldTrigger at *
  rw [rd_hwSet]
  split
  next hk => subst hk; simp only [bit, BitVec.getLsbD_or, Bool.or_eq_true] at *; exact .inl h
  next => exact h

theorem toldTrigger_istat (e : Engine) : (e.istat 0x18 1).toldTrigger = true := by
  rw [toldTrigger, istat, rd_hwSet_same]
  simp [bit, w32]

theorem steady_hwSet (e : Engine) {k : Nat} (hk : k ∈ decisionKeys) (m : Word) : Steady e (e.hwSet k m) where
  regs j hj := rd_hwSet_other e k j m fun hjk => hj (hjk ▸ hk)
  told h := toldTrigger_hwSet h k m
  outside := rfl
  shot := rfl

theorem steady_istat (e : Engine) (bits : Nat) : Steady e (e.istat 0x18 bits) := steady_hwSet e (by decide) _

theorem steady_wr (e : Engine) {k : Nat} (hk : k = R.SEQ_SAT ∨ k = R.SEQ_LAST) (v : Word) : Steady e (e.wr k v) where
  regs j hj := rd_wr_other e k j v fun hjk => hj (by rcases hk with rfl | rfl <;> simp [hjk])
  told h := by
    rw [toldTrigger, rd_wr_other e k _ v (by rcases hk with rfl | rfl <;> decide)]
    exact h
  outside := rfl
  shot := rfl

theorem steady_pushAt (e : Engine) (source code prio arg time : Nat) : Steady e (e.pushAt source code prio arg time) :=
  steady_of_regs rfl rfl rfl

theorem steady_seq {e : Engine} {q : SeqBlk} (running : q.running = e.seq.running) (arm : q.arm = e.seq.arm)
    (fired : q.fired = e.seq.fired) (trigAt : q.trigAt = e.seq.trigAt) : Steady e { e with seq := q } :=
  steady_of_regs rfl (by simp only [Engine.outside, running, arm]) (by simp only [Engine.shot, fired, trigAt])

theorem steady_recb (e : Engine) (r : RecBlk) : Steady e { e with recb := r } := steady_of_regs rfl rfl rfl

theorem steady_inAll (e : Engine) (n : Nat) (f : CycAcc → CycAcc) : Steady e (e.inAll n f) := by
  rw [inAll_eq]
  exact steady_recb ..

theorem steady_storeQ (e : Engine) (c : Nat) (on : Bool) : Steady e (e.storeQ c on) := steady_recb ..

theorem steady_pulse (e : Engine) : Steady e e.pulse := steady_of_regs rfl rfl rfl

theorem steady_tmRestart (e : Engine) (k : Nat) (c : Int) : Steady e (e.tmRestart k c) := steady_of_regs rfl rfl rfl

theorem steady_protect (e : Engine) (t : Time) : Steady e (e.protect t) := by
  unfold protect
  refine List.foldlRecOn _ _ (Steady.refl e) fun b hb s _ => hb.trans ?_
  split
  · exact steady_of_regs rfl rfl rfl
  · exact Steady.refl b

theorem steady_cnInc (e : Engine) (k c : Nat) : Steady e (e.cnInc k c) := by
  unfold cnInc
  dsimp only
  split
  next =>
    split
    · exact Steady.refl e
    · exact steady_of_regs rfl rfl rfl
  next =>
    have up : Steady e { e with seq.cn := upd e.seq.cn k fun v => v + 1#32 } := steady_of_regs rfl rfl rfl
    split
    · exact ((up.trans (steady_hwSet _ (by decide) _)).trans (steady_istat _ _)).trans (steady_pushAt ..)
    · exact up

theorem steady_cnClear (e : Engine) (k : Nat) : Steady e (e.cnClear k) :=
  (steady_wr e (.inl rfl) _).trans (steady_of_regs rfl rfl rfl)

theorem steady_enterLevel (e : Engine) (lvl br c : Nat) : Steady e (e.enterLevel lvl br c) := by
  unfold enterLevel
  extract_lets logged _ entered
  have logs : Steady e logged := steady_wr e (.inr rfl) _
  clear_value logged
  have enters : Steady logged entered := steady_seq rfl rfl rfl rfl
  exact (logs.trans enters).trans (steady_tmRestart ..).ite

/-! ### The fire action and the winner -/

theorem trigger_triggers {e : Engine} (h : e.seq.fired = false) (c : Nat) (forced : Bool) (br sub : Nat) :
    Triggers c e (e.trigger c forced br sub) := by
  unfold trigger
  extract_lets short lvl _ _ moved marked told pushed
  have moves : Triggers c e told := by
    have steady : Steady moved told := (steady_inAll ..).trans (steady_istat ..)
    obtain ⟨hfired, htrigAt, hsys⟩ := shot_iff.mp steady.shot
    exact {
      regs := steady.regs
      outside := steady.outside
      unfired := h
      fired := hfired
      trigAt := htrigAt
      mode := congrArg SysBlk.mode hsys
      told := toldTrigger_istat marked }
  clear_value told
  have pushes : Steady told pushed := (steady_pushAt ..).ite
  clear_value pushed
  exact moves.steady (pushes.trans ((steady_pulse _).ite.trans (steady_protect ..)))

/-- A fire action is the trigger or says that it is held (R152, R153). -/
theorem fireAction_outcome (e : Engine) (c br sub : Nat) :
    Steady e (e.fireAction c br sub) ∨ Triggers c e (e.fireAction c br sub) := by
  unfold fireAction
  split
  next => exact .inl (Steady.refl e)
  next unfired =>
    split
    next => exact .inr (trigger_triggers (by simpa using unfired) ..)
    next =>
      split
      next => exact .inl (Steady.refl e)
      next => exact .inl (((steady_istat e _).trans (steady_pushAt ..)).trans (steady_of_regs rfl rfl rfl))

theorem fireAction_triggers {e : Engine} (unfired : e.seq.fired = false) (free : e.seq.preHold = false) (c br sub : Nat) :
    Triggers c e (e.fireAction c br sub) := by
  unfold fireAction
  rw [if_neg (by simp [unfired]), if_pos (by simp [free])]
  exact trigger_triggers unfired ..

/-- The winner's count starts anew (R146). -/
def recounted (e : Engine) (b : Nat) : Engine := { e with seq := { e.seq with cnt := upd e.seq.cnt b fun _ => 0 } }

/-- The winner's count starts anew, and its fire action is done (R146, R149). -/
def firstAction (e : Engine) (c b sub : Nat) : Engine :=
  if e.rb (e.actKey b) 27 then (e.recounted b).fireAction c b sub else e.recounted b

theorem steady_recounted (e : Engine) (b : Nat) : Steady e (e.recounted b) := steady_seq rfl rfl rfl rfl

theorem firstAction_outcome (e : Engine) (c b sub : Nat) :
    Steady e (e.firstAction c b sub) ∨ Triggers c e (e.firstAction c b sub) := by
  have counted := steady_recounted e b
  unfold firstAction
  split
  · exact (fireAction_outcome _ c b sub).imp counted.trans counted.triggers
  · exact .inl counted

theorem firstAction_triggers {e : Engine} {b : Nat} (acts : e.rb (e.actKey b) 27 = true) (unfired : e.seq.fired = false)
    (free : e.seq.preHold = false) (c sub : Nat) : Triggers c e (e.firstAction c b sub) := by
  unfold firstAction
  rw [if_pos acts]
  exact (steady_recounted e b).triggers (fireAction_triggers (e := e.recounted b) unfired free ..)

/-- None of the winner's other actions is a trigger (R148, R149). -/
theorem winner_steady (e : Engine) (c b sub : Nat) : Steady (e.firstAction c b sub) (e.winner c b sub) := by
  unfold winner
  extract_lets a lvl next _ counted fired _ _ _ stored marked pulsed cn restarted told
  change Steady fired _
  have stores : Steady fired stored := by
    simp only [stored]
    split
    · exact (steady_storeQ ..).trans (steady_of_regs rfl rfl rfl)
    · exact steady_of_regs rfl rfl rfl
    · exact Steady.refl _
  have marks : Steady stored marked := (steady_inAll ..).ite
  have pulses : Steady marked pulsed := (steady_pulse _).ite
  have counts : Steady pulsed cn := by
    simp only [cn]
    split
    · exact steady_cnInc ..
    · exact steady_cnClear ..
    · exact Steady.refl _
  have restarts : Steady cn restarted := (steady_tmRestart ..).ite
  have tells : Steady restarted told := ((steady_istat ..).trans (steady_pushAt ..)).ite
  have acted := ((((stores.trans marks).trans pulses).trans counts).trans restarts).trans tells
  clear_value told
  split
  · exact acted
  · exact acted.trans (steady_enterLevel ..)

theorem winner_outcome (e : Engine) (c b sub : Nat) : Steady e (e.winner c b sub) ∨ Triggers c e (e.winner c b sub) :=
  (firstAction_outcome e c b sub).imp (·.trans (winner_steady ..)) (·.steady (winner_steady ..))

/-! ### The branches -/

/-- One branch of the current level: its count, and whether it wins where none before it has (R146, R147). -/
def branched (c : Nat) (s : Seen) (pm : List (List Bool)) (a : Engine × Option Nat) (b : Nat) : Engine × Option Nat :=
  let e := a.1
  if !e.rb (e.condKey b) 31 then a
  else
    let x := e.branchCond c s pm b
    let hit := if e.rb (e.condKey b) 29 then x && !e.seq.xprev.getD b false else x
    let n := e.seq.cnt.getD b 0
    let n' := if hit && n < e.occOf b then n + 1 else n
    ({ e with seq := { e.seq with xprev := upd e.seq.xprev b fun _ => x, cnt := upd e.seq.cnt b fun _ => n' } },
      a.2.orElse fun _ => if hit && n' == e.occOf b then some b else none)

section
variable (c : Nat) (s : Seen) (pm : List (List Bool))

theorem branches_eq (e : Engine) : e.branches c s pm = (List.range 4).foldl (branched c s pm) (e, none) := rfl

theorem branched_disabled {a : Engine × Option Nat} {b : Nat} (h : a.1.rb (a.1.condKey b) 31 = false) :
    branched c s pm a b = a := by
  simp [branched, h]

/-- The first that has won stays the winner (R147). -/
theorem branched_won {a : Engine × Option Nat} {w : Nat} (h : a.2 = some w) (b : Nat) : (branched c s pm a b).2 = some w := by
  unfold branched
  dsimp only
  split
  · exact h
  · rw [h]; rfl

/-- The branches move their counts alone. -/
theorem branches_counts (e : Engine) :
    ∃ xs ns, (e.branches c s pm).1 = { e with seq := { e.seq with xprev := xs, cnt := ns } } := by
  rw [branches_eq]
  refine List.foldlRecOn
    (motive := fun a : Engine × Option Nat => ∃ xs ns, a.1 = { e with seq := { e.seq with xprev := xs, cnt := ns } })
    _ _ ⟨e.seq.xprev, e.seq.cnt, rfl⟩ fun a ⟨xs, ns, ha⟩ b _ => ?_
  unfold branched
  dsimp only
  split
  · exact ⟨xs, ns, ha⟩
  · rw [ha]
    exact ⟨_, _, rfl⟩

theorem branches_disabled {e : Engine} (h : ∀ b, b < 4 → e.rb (e.condKey b) 31 = false) : e.branches c s pm = (e, none) := by
  rw [branches_eq]
  exact List.foldlRecOn (motive := (· = (e, none))) _ _ rfl fun a ha b hb => by
    subst ha; exact branched_disabled c s pm (h b (List.mem_range.mp hb))

/-- A branch without a condition is true for every word (R143). -/
theorem branchCond_unconditional {e : Engine} {b : Nat} (h : ∀ k, k < 4 → e.rf (e.condKey b) (7 * k) 6 = 0x3F) :
    e.branchCond c s pm b = true := by
  have unused : (List.range 4).filter (fun k => fld (e.rd (e.condKey b)) (7 * k) 6 != 0x3F) = [] :=
    List.filter_eq_nil_iff.mpr fun k hk => by simpa [rf] using h k (List.mem_range.mp hk)
  unfold branchCond
  simp only [unused]
  rfl

/-- A first branch without a condition that is to occur once wins at once. -/
theorem branches_first {e : Engine} (enabled : e.rb (e.condKey 0) 31 = true) (level : e.rb (e.condKey 0) 29 = false)
    (free : ∀ k, k < 4 → e.rf (e.condKey 0) (7 * k) 6 = 0x3F) (once : e.occOf 0 = 1) (fresh : e.seq.cnt[0]? = some 0) :
    (e.branches c s pm).2 = some 0 := by
  have hcond := branchCond_unconditional c s pm free
  have won : (branched c s pm (e, none) 0).2 = some 0 := by
    simp [branched, enabled, level, hcond, once, fresh]
  rw [branches_eq, show List.range 4 = 0 :: [1, 2, 3] from rfl, List.foldl_cons]
  exact List.foldlRecOn (motive := fun a : Engine × Option Nat => a.2 = some 0) [1, 2, 3] _ won fun a ha b _ =>
    branched_won c s pm ha b

end

/-! ### The matchers' work -/

theorem Quiet.ite {a b : Engine} {p : Prop} [Decidable p] (h : Quiet a b) : Quiet a (if p then b else a) := by
  split
  · exact h
  · exact Quiet.refl a

theorem quiet_pats (e : Engine) (ps : List Matcher) : Quiet e { e with seq := { e.seq with pats := ps } } :=
  ⟨fun _ _ => rfl, rfl, rfl, rfl⟩

theorem quiet_istat (e : Engine) (bits : Nat) : Quiet e (e.istat 0x1A bits) := ⟨regsKept_istat e 0x1A bits, rfl, rfl, rfl⟩

theorem quiet_patAll (e : Engine) (s : Seen) : Quiet e (e.patAll s).1 := by
  unfold patAll
  refine List.foldlRecOn (motive := fun a : Engine × List (List Bool) => Quiet e a.1) _ _ (Quiet.refl e) fun a ha k _ =>
    ha.trans ?_
  dsimp only
  split
  · exact (quiet_pats ..).trans (quiet_istat ..).ite
  · exact quiet_pats ..

theorem quiet_setBlk (e : Engine) (i : Nat) (f : BlkPwr → BlkPwr) : Quiet e (e.setBlk i f) :=
  ⟨fun _ _ => rfl, rfl, rfl, rfl⟩

theorem quiet_recb (e : Engine) (r : RecBlk) : Quiet e { e with recb := r } := ⟨fun _ _ => rfl, rfl, rfl, rfl⟩

theorem quiet_storeQ (e : Engine) (c : Nat) (on : Bool) : Quiet e (e.storeQ c on) := quiet_recb ..

/-- The engine as the branches find it for word c: the matchers have run, both blocks have worked, the word is stored or not. -/
def presented (e : Engine) (c : Nat) : Engine :=
  let m := ((e.patAll (e.seenAt c)).1.setBlk 7 fun b => { b with worked := true }).setBlk 8 fun b => { b with worked := true }
  m.storeQ c m.seq.q

theorem quiet_presented (e : Engine) (c : Nat) : Quiet e (e.presented c) :=
  (((quiet_patAll e (e.seenAt c)).trans (quiet_setBlk ..)).trans (quiet_setBlk ..)).trans (quiet_storeQ ..)

/-- The branches have counted word c. -/
def ranked (e : Engine) (c : Nat) : Engine × Option Nat :=
  (e.presented c).branches c (e.seenAt c) (e.patAll (e.seenAt c)).2

/-- Word c has been decided (R145). -/
def decided (e : Engine) (c : Nat) (s : Seen) : Engine :=
  { e with seq := { e.seq with next := c + 1, held := s, seen := e.seq.seen.filter fun x => c < x.n } }

theorem quiet_decided (e : Engine) (c : Nat) (s : Seen) : Quiet e (e.decided c s) := ⟨fun _ _ => rfl, rfl, rfl, rfl⟩

theorem steady_ranked (e : Engine) (c : Nat) : Steady e (e.ranked c).1 := by
  obtain ⟨xs, ns, h⟩ := (e.presented c).branches_counts c (e.seenAt c) (e.patAll (e.seenAt c)).2
  refine (quiet_presented e c).steady.trans ?_
  rw [ranked, h]
  exact steady_of_regs rfl rfl rfl

/-- The winner's actions have been done, where a branch has won (R149). -/
def chosen (e : Engine) (c : Nat) : Engine :=
  match (e.ranked c).2 with
  | some b => (e.ranked c).1.winner c b ((e.ranked c).1.subOf (e.patAll (e.seenAt c)).2 b)
  | none => (e.ranked c).1

theorem decision_eq (e : Engine) (c : Nat) : e.decision c = (e.chosen c).decided c (e.seenAt c) := rfl

theorem decision_next (e : Engine) (c : Nat) : (e.decision c).seq.next = c + 1 := rfl

theorem decision_held (e : Engine) (c : Nat) : (e.decision c).seq.held = e.seenAt c := rfl

theorem chosen_of_none {e : Engine} {c : Nat} (h : (e.ranked c).2 = none) : e.chosen c = (e.ranked c).1 := by
  unfold chosen
  rw [h]

theorem chosen_of_some {e : Engine} {c b : Nat} (h : (e.ranked c).2 = some b) :
    e.chosen c = (e.ranked c).1.winner c b ((e.ranked c).1.subOf (e.patAll (e.seenAt c)).2 b) := by
  unfold chosen
  rw [h]

/-- The trigger is the one way in which a decision moves the mode. -/
theorem decision_outcome (e : Engine) (c : Nat) : Steady e (e.decision c) ∨ Triggers c e (e.decision c) := by
  have counted := steady_ranked e c
  have last := (quiet_decided (e.chosen c) c (e.seenAt c)).steady
  rw [decision_eq]
  cases hwon : (e.ranked c).2 with
  | none =>
    rw [chosen_of_none hwon] at last ⊢
    exact .inl (counted.trans last)
  | some b =>
    rw [chosen_of_some hwon] at last ⊢
    exact (winner_outcome ..).imp (fun h => (counted.trans h).trans last) fun h => (counted.triggers h).steady last

/-! ### What the branches of the level make of a decision -/

/-- The matchers' work leaves the registers of the current level. -/
theorem Quiet.rd_win {a b : Engine} (h : Quiet a b) {k : Nat} (hk : k % 65536 ≠ istatKey 0x1A) :
    b.rd (win k b.seq.level) = a.rd (win k a.seq.level) := by
  have level : b.seq.level = a.seq.level := congrArg Prod.fst h.standing
  rw [level]
  refine h.regs _ fun hmem => hk ?_
  have same : win k a.seq.level = istatKey 0x1A := List.mem_singleton.mp hmem
  simp only [win, istatKey] at same ⊢
  omega

theorem Quiet.rd_condKey {a b : Engine} (h : Quiet a b) {k : Nat} (hk : k < 4) : b.rd (b.condKey k) = a.rd (a.condKey k) :=
  h.rd_win (by simp only [R.SEQL_COND_A, istatKey]; omega)

theorem Quiet.rd_actKey {a b : Engine} (h : Quiet a b) {k : Nat} (hk : k < 4) : b.rd (b.actKey k) = a.rd (a.actKey k) :=
  h.rd_win (by simp only [R.SEQL_ACT_A, istatKey]; omega)

theorem Quiet.occOf_first {a b : Engine} (h : Quiet a b) : b.occOf 0 = a.occOf 0 := by
  have occ := h.rd_win (k := R.SEQL_OCC_AB) (by decide)
  unfold occOf rf
  rw [if_pos (by decide), occ]

/-- A level with no branch enabled changes nothing. -/
theorem decision_disabled {e : Engine} (h : ∀ b, b < 4 → e.rb (e.condKey b) 31 = false) (c : Nat) :
    Quiet e (e.decision c) := by
  have presents := quiet_presented e c
  have none_wins : e.ranked c = (e.presented c, none) := branches_disabled _ _ _ fun b hb => by
    rw [rb, presents.rd_condKey hb]
    exact h b hb
  rw [decision_eq, chosen_of_none (by rw [none_wins]), none_wins]
  exact presents.trans (quiet_decided ..)

/-- A first branch without a condition, to occur once, whose action fires triggers at once where nothing holds it. -/
theorem decision_fires {e : Engine} (enabled : e.rb (e.condKey 0) 31 = true) (level : e.rb (e.condKey 0) 29 = false)
    (free : ∀ k, k < 4 → e.rf (e.condKey 0) (7 * k) 6 = 0x3F) (once : e.occOf 0 = 1) (fresh : e.seq.cnt[0]? = some 0)
    (acts : e.rb (e.actKey 0) 27 = true) (unheld : e.seq.preHold = false) (unfired : e.seq.fired = false) (c : Nat) :
    Triggers c e (e.decision c) := by
  have presents := quiet_presented e c
  have cond := presents.rd_condKey (k := 0) (by decide)
  have act := presents.rd_actKey (k := 0) (by decide)
  obtain ⟨-, hcnt, hhold, -⟩ : _ ∧ _ ∧ _ ∧ _ := by simpa only [standing, Prod.mk.injEq] using presents.standing
  have hwon : (e.ranked c).2 = some 0 := branches_first _ _ _ (by rwa [rb, cond]) (by rwa [rb, cond])
    (fun k hk => by rw [rf, cond]; exact free k hk) (presents.occOf_first.trans once) (by rwa [hcnt])
  obtain ⟨xs, ns, hranked⟩ := (e.presented c).branches_counts c (e.seenAt c) (e.patAll (e.seenAt c)).2
  have acts' : (e.ranked c).1.rb ((e.ranked c).1.actKey 0) 27 = true := by
    rw [ranked, hranked]
    exact (congrArg (bit · 27) act).trans acts
  have unheld' : (e.ranked c).1.seq.preHold = false := by
    rw [ranked, hranked]
    exact hhold.trans unheld
  have counted := steady_ranked e c
  have unfired' := (shot_iff.mp counted.shot).1.trans unfired
  rw [decision_eq, chosen_of_some hwon]
  exact counted.triggers (((firstAction_triggers acts' unfired' unheld' ..).steady (winner_steady ..)).steady
    (quiet_decided ..).steady)

theorem canDecide_of {e : Engine} (running : e.seq.running = true) (on : e.isOn 7 = true) (run : e.seq.arm + 6 ≤ e.time.now)
    (due : e.seq.next ≤ e.time.now - 6) (goes : e.sys.ending = none) : e.canDecide = true := by
  simp [canDecide, running, on, run, due, goes]

end Engine

/-- Settles O37: a decision is steady or triggers; with no branch enabled it is quiet, and with a first branch that always fires
it triggers. -/
theorem sequencerDecides : Obligations.SequencerDecides := by
  intro s running on run due goes c
  refine does_guarded Engine.canDecide (fun e => e.decision (e.time.now - 6)) rfl
    (Engine.canDecide_of running on run due goes) ?_
  have outcome := s.eng.decision_outcome c
  have outside : (s.eng.decision c).outside = s.eng.outside := outcome.elim (·.outside) (·.outside)
  obtain ⟨htime, hlanes, hpods, hstg, hjob, hrunning, harm⟩ : _ ∧ _ ∧ _ ∧ _ ∧ _ ∧ _ ∧ _ := by
    simpa only [Engine.outside, Prod.mk.injEq] using outside
  refine ⟨s.eng.decision_next c, s.eng.decision_held c, hrunning.trans running, harm, outcome.elim (·.regs) (·.regs),
    htime, hlanes, hpods, hstg, hjob, outcome.imp (fun steady => ?_) fun fires => ⟨fires.unfired, fires.fired, fires.trigAt, fires.mode⟩,
    fun disabled => ?_, fun enabled level free once fresh acts unheld unfired => ?_⟩
  · obtain ⟨hfired, -, hsys⟩ := Engine.shot_iff.mp steady.shot
    exact ⟨hfired, hsys⟩
  · have quiet := Engine.decision_disabled disabled c
    obtain ⟨hfired, -, hsys⟩ := Engine.shot_iff.mp quiet.shot
    obtain ⟨hlevel, hcnt, -, harriving⟩ : _ ∧ _ ∧ _ ∧ _ := by
      simpa only [Engine.standing, Prod.mk.injEq] using quiet.standing
    exact ⟨quiet.regs, hlevel, hcnt, hfired, harriving, hsys⟩
  · have fires := Engine.decision_fires enabled level free once fresh acts unheld unfired c
    exact ⟨fires.fired, fires.trigAt, fires.mode, fires.told⟩

end Sys2Proof.Machine
end

section
/-! PROOF. O41: the delivery of staging's words to the memory writer, and the cut of a live block that no job takes. -/

namespace Sys2Proof.Machine

namespace Engine

/-! ### The delivery of a word -/

/-- Where staging holds no word to deliver, nothing is. -/
theorem delivery_none {e : Engine} (h : e.readPos = none) (u : Option Upset) : e.delivery u = e := by
  unfold delivery
  rw [h]

section
variable {e : Engine} {i : Nat} {b : SBlk} (hat : e.readPos = some i) (hb : e.stg.blks[i]? = some b)
  (shoal : b.blk.live = false)
include hat hb shoal

/-- A Shoal-routed block's next word waits until it is available, then for the memory writer (R229). -/
theorem delivery_shoal (u : Option Upset) : e.delivery u =
    if !e.wordReady b then e else if e.memServes then e.deliver i b u .writer else e.demand 13 := by
  have takes : e.consumer b = if e.memServes then some .writer else none := by
    unfold consumer
    rw [shoal]
    rfl
  unfold delivery
  simp only [hat, hb, shoal, takes, Bool.false_eq_true, if_false]
  cases e.memServes <;> rfl

theorem delivery_ready (ready : e.wordReady b = true) (serves : e.memServes = true) (u : Option Upset) :
    e.delivery u = e.deliver i b u .writer := by
  rw [delivery_shoal hat hb shoal, ready, serves]
  rfl

end

/-- The next word of block i has gone to the memory writer, which takes the block with its last word (R230). -/
def wordWritten (e : Engine) (i : Nat) (b : SBlk) : Engine :=
  let fin := b.closed && b.deliv + 1 == blkWords b.blk
  let e12 := e.setBlk 12 fun x => { x with worked := true }
  { e with
    cyc := { e.cyc with delivered := e.cyc.delivered + 1 }
    pwr := if fin then (e12.setBlk 13 fun x => { x with worked := true }).pwr else e12.pwr
    stg := { e.stg with
      blks := e.stg.blks.set i { b with deliv := b.deliv + 1, restart := b.restart && !fin }
      toPlace := e.stg.toPlace ++ if fin then [received b] else [] } }

@[simp] theorem wordWritten_blks (e : Engine) (i : Nat) (b : SBlk) : (e.wordWritten i b).stg.blks =
    e.stg.blks.set i { b with deliv := b.deliv + 1, restart := b.restart && !(b.closed && b.deliv + 1 == blkWords b.blk) } := rfl

@[simp] theorem wordWritten_arriving (e : Engine) (i : Nat) (b : SBlk) : (e.wordWritten i b).arriving = e.arriving := rfl

@[simp] theorem rd_wordWritten (e : Engine) (i : Nat) (b : SBlk) (k : Nat) : (e.wordWritten i b).rd k = e.rd k := rfl

/-- A delivery to the memory writer is the check of the word, and the word's way to the writer. -/
theorem deliver_writer {e : Engine} {i : Nat} {b : SBlk} {u : Option Upset} {f : Engine} (hf : e.stgCheck i b u = f)
    (hb : f.stg.blks[i]? = some b) : e.deliver i b u .writer = f.wordWritten i b := by
  obtain ⟨hi, -⟩ := List.getElem?_eq_some_iff.mp hb
  unfold deliver wordWritten
  rw [hf]
  dsimp only [setSBlk, setBlk]
  rw [upd_eq_set hb, List.getD_eq_getElem?_getD, List.getElem?_set_self hi]
  split
  next => rfl
  next => rw [List.append_nil]

/-! ### The check of a word (R235) -/

section
variable {e : Engine} {i : Nat} {b : SBlk} (sound : (b.bad.find? fun p => p.1 == wordOffset b) = none)
include sound

theorem stgCheck_undisturbed : e.stgCheck i b none = e := by
  simp only [stgCheck, sound, Option.map_none]

/-- A single-bit error is counted and told, and corrected. -/
theorem stgCheck_single {u : Upset} (hu : u.ecc = .single) :
    e.stgCheck i b (some u) = (e.count R.STG_CE_CNT).istat 0x20 2 := by
  simp only [stgCheck, sound, hu, Option.map_none]

end

/-! ### The cut of a live block (R231) -/

/-- How many words of a block its consumer has: a restart of the same cycle is undone (log entry 36). -/
def taken (e : Engine) (b : SBlk) : Nat := if b.restart = true ∧ b.closeAt = e.time.now then b.took else b.deliv

theorem cutBlock_taken (e : Engine) (b : SBlk) : (e.cutBlock b).2 = e.taken b := by
  simp only [cutBlock, taken, Bool.and_eq_true, beq_iff_eq]

theorem dropRest_none {e : Engine} (h : e.readPos = none) : e.dropRest = e := by
  unfold dropRest
  rw [h]

section
variable {e : Engine} {i : Nat} {b : SBlk} (hat : e.readPos = some i) (hb : e.stg.blks[i]? = some b)
include hat hb

/-- Nothing is cut where the block is not live, or no word of it has been delivered. -/
theorem dropRest_uncut (h : b.blk.live = false ∨ e.taken b = 0) : e.dropRest = e := by
  have uncut : (!b.blk.live || (e.cutBlock b).2 == 0) = true := by
    rw [cutBlock_taken]
    rcases h with h | h <;> simp [h]
  unfold dropRest
  simp only [hat, hb, uncut, if_true]

/-- Where no LIVE job takes the block, what is left of it is dropped and counted (R262). -/
theorem dropRest_unclaimed (live : b.blk.live = true) (some_taken : e.taken b ≠ 0) (unclaimed : e.liveSlot b.blk.stream = none) :
    e.dropRest = (e.setSBlk i fun x => { x with dropped := true, restart := false }).count R.STG_DROP_CNT := by
  have cut : ¬(!b.blk.live || (e.cutBlock b).2 == 0) = true := by
    rw [cutBlock_taken, live]
    simpa using some_taken
  have free : (e.setSBlk i fun x => { x with dropped := true, restart := false }).liveSlot b.blk.stream = none := unclaimed
  unfold dropRest
  simp only [hat, hb, free]
  rw [if_neg cut]

end

end Engine

/-! ### The commands -/

/-- Staging may deliver a word in this cycle (R223). -/
def Engine.mayDeliver (e : Engine) : Bool := e.isOn 12 && decide (e.cyc.delivered < 2)

theorem stagingWordDelivery_leaves {s : State} {u : Option Upset} {e : Engine} (on : s.eng.isOn 12 = true)
    (room : s.eng.cyc.delivered < 2) (he : s.eng.delivery u = e) : Leaves (.stagingWordDelivery u) s e := by
  rw [← he]
  exact leaves_guarded Engine.mayDeliver (·.delivery u) rfl (by simp [Engine.mayDeliver, on, room])

theorem stagingWordDelivery_idles {s : State} (u : Option Upset)
    (h : s.eng.isOn 12 = false ∨ 2 ≤ s.eng.cyc.delivered ∨ s.eng.readPos = none) : Idles (.stagingWordDelivery u) s := by
  by_cases may : s.eng.mayDeliver = true
  · obtain ⟨on, room⟩ : s.eng.isOn 12 = true ∧ s.eng.cyc.delivered < 2 := by simpa [Engine.mayDeliver] using may
    have waiting : s.eng.readPos = none := (h.resolve_left (by simp [on])).resolve_left (by omega)
    exact stagingWordDelivery_leaves on room (Engine.delivery_none waiting u)
  · exact idles_guarded Engine.mayDeliver (·.delivery u) rfl (Bool.not_eq_true _ ▸ may)

section
variable {s : State} {i : Nat} {b : SBlk} (on : s.eng.isOn 12 = true) (room : s.eng.cyc.delivered < 2)
  (hat : s.eng.readPos = some i) (hb : s.eng.stg.blks[i]? = some b) (shoal : b.blk.live = false)
  (ready : s.eng.wordReady b = true) (serves : s.eng.memServes = true)
  (sound : (b.bad.find? fun p => p.1 == Engine.wordOffset b) = none)
include on room hat hb shoal ready serves sound

/-- A word that nothing has disturbed goes to the memory writer. -/
theorem stagingWordDelivery_written : Leaves (.stagingWordDelivery none) s (s.eng.wordWritten i b) :=
  stagingWordDelivery_leaves on room
    ((Engine.delivery_ready hat hb shoal ready serves _).trans (Engine.deliver_writer (Engine.stgCheck_undisturbed sound) hb))

/-- So does one with a single-bit error, which is counted and told. -/
theorem stagingWordDelivery_corrected {u : Upset} (hu : u.ecc = .single) :
    Leaves (.stagingWordDelivery (some u)) s (((s.eng.count R.STG_CE_CNT).istat 0x20 2).wordWritten i b) :=
  stagingWordDelivery_leaves on room ((Engine.delivery_ready hat hb shoal ready serves _).trans
    (Engine.deliver_writer (Engine.stgCheck_single sound hu) (by rw [Engine.istat_stg, Engine.count_stg]; exact hb)))

end

theorem dropRest_leaves {s : State} {e : Engine} (acc : s.eng.access = true) (he : s.eng.dropRest = e) : Leaves .dropRest s e := by
  rw [← he]
  exact leaves_guarded Engine.access Engine.dropRest rfl acc

theorem dropRest_idles {s : State} (h : s.eng.access = false ∨ s.eng.readPos = none) : Idles .dropRest s := by
  cases acc : s.eng.access with
  | false => exact idles_guarded Engine.access Engine.dropRest rfl acc
  | true =>
    rw [acc] at h
    exact dropRest_leaves acc (Engine.dropRest_none (h.resolve_left (by decide)))

/-- Settles O41: a word by whether it is available, whether MEM serves and what its check finds; the cut of a live block by how
many of its words have been delivered. -/
theorem stagingDeliversInOrder : Obligations.StagingDeliversInOrder := by
  refine ⟨⟨fun s u => stagingWordDelivery_idles u, fun s i b on room hat hb shoal => ?_⟩,
    fun s => dropRest_idles, fun s i b acc hat hb => ⟨fun h => ?_, fun live some_taken unclaimed => ?_⟩⟩
  · have goes := Engine.delivery_shoal hat hb shoal
    refine ⟨fun u unready => stagingWordDelivery_leaves on room (by rw [goes, unready]; rfl), fun u ready busy => ?_,
      fun ready serves sound => ?_⟩
    · exact stagingWordDelivery_leaves on room (by rw [goes, ready, busy, ← Engine.demand_eq]; rfl)
    · refine ⟨stagingWordDelivery_written on room hat hb shoal ready serves sound, fun u hu =>
        ⟨_, stagingWordDelivery_corrected on room hat hb shoal ready serves sound hu, ?_, ?_, ?_, ?_, ?_⟩⟩
      · rw [Engine.rd_wordWritten, Engine.rd_istat_other _ _ _ _ (by decide), Engine.rd_count_same]
      · rw [Engine.rd_wordWritten, Engine.rd_istat_same, Engine.rd_count_other _ _ _ (by decide)]
        rfl
      · exact ((Engine.regsKept_count _ _).trans (Engine.regsKept_istat _ _ _)).of_rd (Engine.rd_wordWritten _ _ _)
      · rw [Engine.wordWritten_blks, Engine.istat_stg, Engine.count_stg]
      · rw [Engine.wordWritten_arriving, Engine.istat_arriving, Engine.count_arriving]
  · exact dropRest_leaves acc (Engine.dropRest_uncut hat hb h)
  · refine ⟨_, dropRest_leaves acc (Engine.dropRest_unclaimed hat hb live some_taken unclaimed), ?_, ?_, ?_⟩
    · rw [Engine.rd_count_same, Engine.rd_setSBlk]
    · exact fun k hk => (Engine.regsKept_count _ _ k hk).trans (Engine.rd_setSBlk ..)
    · rw [← upd_eq_set hb fun x => { x with dropped := true, restart := false }]
      exact Engine.onlyRegs_count _ _

end Sys2Proof.Machine
end

section
/-! PROOF. O44: which entry a pop takes, a pop as an access of its port, what it makes of a disturbed entry, and the overrun. -/

namespace Sys2Proof.Machine

/-! ### The order of pops (R238) -/

/-- The first visible entry of a class. -/
def EvQueue.firstOf (q : EvQueue) (c : Nat) : Option Nat := (q.entries.take q.visible).findIdx? fun x => x.cls == c

theorem State.evqFirst_eq (q : EvQueue) : evqFirst q = (List.range 4).findSome? q.firstOf := by
  have first (c : Nat) : q.firstOf c = ((q.entries.take q.visible).zipIdx.find? fun p => p.1.cls == c).map (·.2) :=
    List.findIdx?_eq_fst_find?_zipIdx
  rw [show q.firstOf = _ from funext first]
  rfl

theorem EvQueue.firstOf_some {q : EvQueue} {c i : Nat} (h : q.firstOf c = some i) :
    i < q.visible ∧ (∃ x, q.entries[i]? = some x ∧ x.cls = c) ∧
      ∀ (j : Nat) (y : Entry), j < q.visible → q.entries[j]? = some y → y.cls = c → i ≤ j := by
  obtain ⟨hi, hcls, hfirst⟩ := List.findIdx?_eq_some_iff_getElem.mp h
  have hlen := List.length_take ▸ hi
  refine ⟨by omega, ⟨q.entries[i], List.getElem?_eq_getElem (by omega), by simpa using hcls⟩, fun j y hj hy hc => ?_⟩
  obtain ⟨_, hget⟩ := List.getElem?_eq_some_iff.mp hy
  exact Nat.le_of_not_lt fun hlt => hfirst j hlt (by rw [List.getElem_take, hget, hc, beq_self_eq_true])

theorem EvQueue.firstOf_none {q : EvQueue} {c : Nat} (h : q.firstOf c = none) {j : Nat} {y : Entry} (hj : j < q.visible)
    (hy : q.entries[j]? = some y) : y.cls ≠ c := by
  have hmem : y ∈ q.entries.take q.visible := List.mem_of_getElem? (i := j) (by rw [List.getElem?_take_of_lt hj]; exact hy)
  simpa using List.findIdx?_eq_none_iff.mp h y hmem

/-- The entry that a pop takes is the first of the lowest class that is there. -/
theorem State.evqFirst_some {q : EvQueue} {i : Nat} (h : evqFirst q = some i) : i < q.visible ∧ ∃ x, q.entries[i]? = some x ∧
    ∀ (j : Nat) (y : Entry), j < q.visible → q.entries[j]? = some y → y.cls < 4 → x.cls < y.cls ∨ (x.cls = y.cls ∧ i ≤ j) := by
  rw [evqFirst_eq] at h
  obtain ⟨below, c, above, hrange, hc, hbelow⟩ := List.findSome?_eq_some_iff.mp h
  obtain ⟨hi, ⟨x, hx, hxc⟩, hfirst⟩ := EvQueue.firstOf_some hc
  refine ⟨hi, x, hx, fun j y hj hy hy4 => ?_⟩
  have hsorted : (below ++ c :: above).Pairwise (· < ·) := hrange ▸ List.pairwise_lt_range
  have hmem : y.cls ∈ below ++ c :: above := hrange ▸ List.mem_range.mpr hy4
  rcases List.mem_append.mp hmem with hlow | hrest
  · exact absurd rfl (EvQueue.firstOf_none (hbelow _ hlow) hj hy)
  · rcases List.mem_cons.mp hrest with hsame | hhigh
    · exact Or.inr ⟨hxc.trans hsame.symm, hfirst j y hj hy hsame⟩
    · exact Or.inl (hxc ▸ (List.pairwise_cons.mp (List.pairwise_append.mp hsorted).2.1).1 _ hhigh)

theorem State.evqFirst_none {q : EvQueue} (h : evqFirst q = none) (j : Nat) (y : Entry) (hj : j < q.visible)
    (hy : q.entries[j]? = some y) : 4 ≤ y.cls := by
  rw [evqFirst_eq] at h
  exact Nat.le_of_not_lt fun hlt =>
    EvQueue.firstOf_none (List.findSome?_eq_none_iff.mp h y.cls (List.mem_range.mpr hlt)) hj hy rfl

/-! ### What a port asks for (R12, R17) -/

section
variable {c : Instr} {s : State} {p : Port} {w : Work} (hc : exec c s = doneS ({ s with eng := s.eng.arrivesAt p }.ask p w))
include hc

theorem exec_ask_lost (hl : (s.eng.arrivesAt p).access = false ∧ (p = .i2c ∨ (s.eng.arrivesAt p).host.up = false)) :
    Leaves c s (s.eng.arrivesAt p) := by
  refine hc.trans ?_
  rw [State.ask, if_pos (by simpa using hl)]
  rfl

theorem exec_ask_queues (hl : ¬((s.eng.arrivesAt p).access = false ∧ (p = .i2c ∨ (s.eng.arrivesAt p).host.up = false))) :
    Queues c s (s.eng.arrivesAt p) p w := by
  intro hf
  refine hc.trans ?_
  rw [State.ask, if_neg (by simpa using hl), State.submit, if_neg (by simp [hf])]
  rfl

section
variable (hl : ¬((s.eng.arrivesAt p).access = false ∧ (p = .i2c ∨ (s.eng.arrivesAt p).host.up = false)))
  (hf : (s.eng.arrivesAt p).portFirst p = true) {t : State}
include hl hf

/-- What is first of its port is served; it may be done. -/
theorem exec_ask_done (hr : { s with eng := s.eng.arrivesAt p }.run
      { port := p, auth := (s.eng.arrivesAt p).auth (portCode p), work := w } = (t, none)) : exec c s = doneS t := by
  rw [hc, State.ask, if_neg (by simpa using hl), State.submit, if_pos hf]
  dsimp only
  rw [hr]

/-- It may have to wait. -/
theorem exec_ask_waits {h : Held} (hr : { s with eng := s.eng.arrivesAt p }.run
      { port := p, auth := (s.eng.arrivesAt p).auth (portCode p), work := w } = (t, some h)) :
    exec c s = doneS { t with eng := t.eng.hold h } := by
  rw [hc, State.ask, if_neg (by simpa using hl), State.submit, if_pos hf]
  dsimp only
  rw [hr]

end

end

/-! ### A pop as an access of its port -/

/-- The access that a pop is. -/
def popRead (p : Port) : RegAccess :=
  { port := p, page := R.EVQ_POP_LO / 256, slot := R.EVQ_POP_LO % 256, be := 15#4, data := none }

/-- A pop as its port keeps it where it waits. -/
def Engine.pops (e : Engine) (p : Port) (flips : BitVec 64) : Held :=
  { port := p, auth := e.auth (portCode p), work := .pop flips }

theorem exec_evqPop (s : State) (p : Port) (h l : Word) :
    exec (.evqPop p h l) s = doneS ({ s with eng := s.eng.arrivesAt p }.ask p (.pop (h ++ l))) := rfl

theorem State.run_pops (s : State) (p : Port) (flips : BitVec 64) :
    s.run (s.eng.pops p flips) = s.runPop (s.eng.pops p flips) flips := by
  unfold run
  dsimp only
  rw [if_neg (show ¬s.eng.time.now < (s.eng.pops p flips).after from Nat.not_lt_zero _)]
  by_cases h : (s.eng.pops p flips).after = s.eng.time.now
  · rw [if_pos h]; rfl
  · rw [if_neg h]; rfl

section
variable {s : State} {p : Port} (flips : BitVec 64)

theorem State.runPop_closed (h : s.eng.portOpen p = false) :
    s.runPop (s.eng.pops p flips) flips = (s, some (s.eng.pops p flips)) := by
  unfold runPop
  rw [if_pos (by rw [show (s.eng.pops p flips).port = p from rfl, h]; rfl)]

theorem State.runPop_noPage (h : s.eng.portOpen p = true) (hp : portHas (portCode p) 0x21 = false) :
    s.runPop (s.eng.pops p flips) flips = ({ s with eng := s.eng.noPage (popRead p) }, none) := by
  unfold runPop
  rw [if_neg (by rw [show (s.eng.pops p flips).port = p from rfl, h]; decide)]
  dsimp only
  rw [if_pos (by exact congrArg not hp)]
  rfl

theorem State.runPop_open (h : s.eng.portOpen p = true) (hp : portHas (portCode p) 0x21 = true) :
    s.runPop (s.eng.pops p flips) flips =
      let r := { s with eng := s.eng.served p }.evqPop (portCode p) flips
      ({ r.1 with eng := { r.1.eng with tx := r.1.eng.tx ++ [.portRead p R.EVQ_POP_LO r.2] } }, none) := by
  unfold runPop
  rw [if_neg (by rw [show (s.eng.pops p flips).port = p from rfl, h]; decide)]
  have page : ¬(!portHas (portCode p) (R.EVQ_POP_LO / 256)) = true := by rw [show R.EVQ_POP_LO / 256 = 0x21 from rfl, hp]; decide
  refine (if_neg page).trans ?_
  dsimp only [Engine.answer]
  rw [Engine.send_local rfl]
  rfl

end

/-- A pop waits its turn. -/
theorem waitsItsTurn_evqPop (s : State) (p : Port) (h l : Word) : WaitsItsTurn (.evqPop p h l) s p (.pop (h ++ l)) := by
  have hc := exec_evqPop s p h l
  refine ⟨exec_ask_lost hc, fun hl hf ho => ?_, exec_ask_queues hc⟩
  exact exec_ask_waits hc hl hf ((State.run_pops _ p _).trans (State.runPop_closed (s := { s with eng := s.eng.arrivesAt p }) _ ho))

/-! ### A page that function 1 has not (R16, R279) -/

namespace Engine

/-- b is a after something has been written in configuration space of a function, perhaps counted as correctable, and perhaps
told to the host. -/
def Advises (fn : Nat) (a b : Engine) : Prop :=
  (∀ k, k ≠ R.HOST_CORR_CNT → (∀ off, off < 0x1000 → k ≠ cfgKey fn off) → b.rd k = a.rd k) ∧ Told a b

theorem Reports.advises {fn : Nat} {a b : Engine} (h : Reports fn a b) : Advises fn a b := ⟨fun k _ => h.1 k, h.2⟩

theorem Advises.trans {fn : Nat} {a b c : Engine} (h : Advises fn a b) (h' : Advises fn b c) : Advises fn a c :=
  ⟨fun k hk hc => (h'.1 k hk hc).trans (h.1 k hk hc), h.2.trans h'.2⟩

theorem advises_corr (fn : Nat) (e : Engine) : Advises fn e (e.count R.HOST_CORR_CNT) :=
  ⟨fun _ hk _ => rd_count_other _ _ _ hk, (onlyRegs_count e _).told⟩

/-- An error that is advisory where it is not fatal is told as the other one is, or counted as correctable (R296). -/
theorem advises_aer (fn : Nat) (e : Engine) (x : PciErr) : Advises fn e (e.aer fn x true) := by
  cases hfatal : bit (e.cfg fn 0x10C) x.bit with
  | true =>
    have same : e.aer fn x true = e.aer fn x false := by simp only [aer, hfatal, Bool.not_true, Bool.and_false]
    rw [same]
    exact (reports_aer fn e x).advises
  | false =>
    unfold aer
    extract_lets b fatal masked first e1 e2 e3 e4 e5 e6
    have h1 : Reports fn e e1 := reports_hwSet (by decide) e _
    have h2 : Reports fn e e2 := Reports.ite (h1.trans (reports_wr (by decide) e1 _)) h1
    have h3 : Reports fn e e3 := Reports.ite (h2.trans (reports_headerLog fn e2)) h2
    have h4 : Reports fn e e4 := Reports.ite (h3.trans (reports_hwSet (by decide) e3 _)) h3
    have h5 : Reports fn e e5 := h4.trans ((reports_hwSet (by decide) e4 _).trans (reports_hwSet (by decide) _ _))
    have h6 : Advises fn e e6 := h5.advises.trans (advises_corr fn e5)
    rw [if_pos (by rw [show fatal = false from hfatal]; rfl)]
    split
    · exact h6.trans (reports_send fn e6 _).advises
    · exact h6

theorem refuse_ur (fn : Nat) (e : Engine) : e.refuse fn .ur .unsupported =
    ((((e.count R.HOST_UR_CNT).estat 0x25 8).aer fn .ur true).lastErr fn .ur).complete fn .unsupported [] := rfl

theorem lastErr_send (e : Engine) (t : Tx) : (e.send t).host.lastErr = e.host.lastErr := by
  unfold send emit linkWake
  repeat' split
  all_goals rfl

/-- What a function finds as Unsupported Request, and answers (R279, R296). -/
theorem unsupported_refuse (fn : Nat) (e : Engine) : Unsupported fn e (e.refuse fn .ur .unsupported) := by
  rw [refuse_ur]
  obtain ⟨hrd, htold⟩ := advises_aer fn ((e.count R.HOST_UR_CNT).estat 0x25 8) .ur
  replace htold := ((onlyRegs_count e R.HOST_UR_CNT).trans (onlyRegs_estat _ 0x25 8)).told.trans htold
  generalize ((e.count R.HOST_UR_CNT).estat 0x25 8).aer fn .ur true = f at hrd htold ⊢
  have htime : f.time = e.time := by rw [htold]; rfl
  have paged {k : Nat} (hk : k < 0x1000000) (hc : k ≠ R.HOST_CORR_CNT) :
      f.rd k = ((e.count R.HOST_UR_CNT).estat 0x25 8).rd k := hrd k hc fun off _ => ne_cfgKey hk fn off
  refine ⟨?_, ?_, ?_, fun k hk hc => ?_, (htold.trans (told_lastErr f fn .ur)).trans (told_send _ _)⟩
  · rw [rd_complete, rd_lastErr_other _ _ _ (by decide), paged (by decide) (by decide), rd_estat_other _ _ _ _ (by decide),
      rd_count_same]
  · rw [rd_complete, rd_lastErr_same, paged (by decide) (by decide), rd_estat_other _ _ _ _ (by decide),
      rd_count_other _ _ _ (by decide)]
  · rw [complete, lastErr_send, lastErr_host, htime, show PciErr.kind .ur * 2 ^ 24 = 2 ^ 24 from Nat.one_mul _]
  · simp only [List.mem_cons, List.not_mem_nil, or_false, not_or] at hk
    obtain ⟨hur, hcorr, hes, his⟩ := hk
    rw [rd_complete, rd_lastErr_other _ _ _ his, hrd k hcorr hc, rd_estat_other _ _ _ _ hes, rd_count_other _ _ _ hur]

end Engine

/-- Function 1 has no page of the event queue. -/
theorem evqPop_f1 {s : State} (h l : Word) (hr : s.ready .f1 = true) :
    Does (.evqPop .f1 h l) s (Unsupported 1 (s.eng.arrivesAt .f1)) := by
  have hrun := State.runPop_noPage (s := { s with eng := s.eng.arrivesAt .f1 }) (h ++ l) (State.open_of_ready hr) (by decide)
  exact ⟨(s.eng.arrivesAt .f1).refuse 1 .ur .unsupported, exec_ask_done (exec_evqPop s .f1 h l) (State.notLost_of_ready hr)
    (State.first_of_ready hr) ((State.run_pops _ .f1 _).trans hrun), Engine.unsupported_refuse 1 _⟩

/-! ### What a pop makes of the queue (R238, R241) -/

/-- What a pop latches in the port's latch. -/
def Engine.latched (e : Engine) (p : Nat) (hi : Word) (tag : Nat) : List PortLatch :=
  (e.setLatch p fun x => { x with pop := { hi := hi, tag := w32 tag, fresh := true } }).latch

/-- A disturbed half is told (R241). -/
def Engine.parityTold (e : Engine) : Engine := ((e.hwSet R.EVQ_STAT (w32 (2 ^ 29))).estat 0x21 2).istat 0x21 2

/-- The parity of the high half does not match: it was bad from the push, or an odd number of its bits has changed since. -/
def Entry.oddHi (x : Entry) (h : Word) : Bool := x.badHi != State.oddBits h

/-- The same of the low half. -/
def Entry.oddLo (x : Entry) (l : Word) : Bool := x.badLo != State.oddBits l

/-- The queue after a pop of entry i. -/
def EvQueue.without (q : EvQueue) (i : Nat) : EvQueue :=
  { q with entries := q.entries.eraseIdx i, visible := q.visible - 1, freed := q.freed + 1 }

theorem State.evqPop_empty {s : State} (h : evqFirst s.evq = none) (p : Nat) (flips : BitVec 64) :
    s.evqPop p flips = ({ s with eng := { s.eng with latch := s.eng.latched p 0#32 0 } }, 0#32) := by
  unfold evqPop
  rw [h]
  rfl

/-- A pop delivers its entry as stored: the halves with their disturbed bits, and a tag that marks those whose parity does not
match. -/
theorem State.evqPop_entry {s : State} {i : Nat} {x : Entry} (hi : evqFirst s.evq = some i) (hx : s.evq.entries[i]? = some x)
    (p : Nat) (h l : Word) :
    let bad := x.oddHi h || x.oddLo l
    let e := if bad then s.eng.parityTold else s.eng
    let tag := 2 ^ 31 + at1 bad 30 + at1 (x.oddHi h) 29 + at1 (x.oddLo l) 28
    s.evqPop p (h ++ l) = ({ s with
        eng := { e with latch := e.latched p (x.bits.extractLsb' 32 32 ^^^ h) tag }
        evq := s.evq.without i },
      x.bits.setWidth 32 ^^^ l) := by
  have high : (h ++ l).extractLsb' 32 32 = h := BitVec.extractLsb'_append_eq_left
  have low : (h ++ l).setWidth 32 = l := by rw [BitVec.setWidth_append, dif_pos (Nat.le_refl 32), BitVec.setWidth_eq]
  unfold evqPop
  simp only [hi, List.getD_eq_getElem?_getD, hx, Option.getD_some, BitVec.extractLsb'_xor, BitVec.setWidth_xor, high, low]
  rfl

section
variable {s : State} {p : Port} (hr : s.ready p = true) (h1 : p ≠ .f1)
include hr h1

/-- A pop that is served at once is an access of its port that delivers what the queue gives. -/
theorem exec_evqPop_ready (h l : Word) {e : Engine} {q : EvQueue} {v : Word}
    (hpop : { s with eng := s.eng.serving p }.evqPop (portCode p) (h ++ l) = ({ s with eng := e, evq := q }, v)) :
    exec (.evqPop p h l) s = .next
      { s with eng := { e with tx := e.tx ++ [Tx.portRead p R.EVQ_POP_LO v] }.settle, evq := q } := by
  have page : portHas (portCode p) 0x21 = true := by
    cases p with
    | f0 => decide
    | f1 => exact absurd rfl h1
    | i2c => decide
  have hrun := State.runPop_open (s := { s with eng := s.eng.arrivesAt p }) (h ++ l) (State.open_of_ready hr) page
  rw [show ({ s with eng := Engine.served (s.eng.arrivesAt p) p } : State).evqPop (portCode p) (h ++ l) = _ from hpop] at hrun
  exact exec_ask_done (exec_evqPop s p h l) (State.notLost_of_ready hr) (State.first_of_ready hr)
    ((State.run_pops _ p _).trans hrun)

end

namespace Engine

theorem onlyRegs_parityTold (e : Engine) : OnlyRegs e e.parityTold :=
  ((onlyRegs_hwSet _ _ _).trans (onlyRegs_estat _ _ _)).trans (onlyRegs_istat _ _ _)

theorem regsKept_parityTold (e : Engine) : RegsKept [R.EVQ_STAT, estatKey 0x21, istatKey 0x21] e e.parityTold :=
  ((regsKept_hwSet _ _ _).trans (regsKept_estat _ _ _)).trans (regsKept_istat _ _ _)

theorem rd_parityTold (e : Engine) : e.parityTold.rd R.EVQ_STAT = e.rd R.EVQ_STAT ||| 0x20000000#32 ∧
    e.parityTold.rd (estatKey 0x21) = e.rd (estatKey 0x21) ||| 2#32 ∧
    e.parityTold.rd (istatKey 0x21) = e.rd (istatKey 0x21) ||| 2#32 := by
  unfold parityTold
  refine ⟨?_, ?_, ?_⟩
  · rw [rd_istat_other _ _ _ _ (by decide), rd_estat_other _ _ _ _ (by decide), rd_hwSet_same]; rfl
  · rw [rd_istat_other _ _ _ _ (by decide), rd_estat_same, rd_hwSet_other _ _ _ _ (by decide)]; rfl
  · rw [rd_istat_same, rd_estat_other _ _ _ _ (by decide), rd_hwSet_other _ _ _ _ (by decide)]; rfl

theorem latched_of_latch {e f : Engine} (h : f.latch = e.latch) (p : Nat) (hi : Word) (tag : Nat) :
    f.latched p hi tag = e.latched p hi tag := by
  unfold latched setLatch
  rw [h]

/-- A change of registers alone is one under what a pop latches and answers. -/
theorem OnlyRegs.answered {e f : Engine} (h : OnlyRegs e f) (ls : List PortLatch) (ts : List Tx) :
    { f with latch := ls, tx := ts } = { e.marked { f with latch := ls, tx := ts } with latch := ls, tx := ts } :=
  congrArg (fun y : Engine => { y with latch := ls, tx := ts }) h

end Engine

theorem State.serving_latch {s : State} {p : Port} (hr : s.ready p = true) : (s.eng.serving p).latch = s.eng.latch := by
  rw [(State.serving_of_ready hr).2]

section
variable {s : State} {p : Port} (hr : s.ready p = true) (h1 : p ≠ .f1)
include hr h1

/-- A pop of an empty queue delivers 0. -/
theorem evqPop_leaves_empty (hnone : State.evqFirst s.evq = none) (h l : Word) :
    Leaves (.evqPop p h l) s { s.eng.serving p with
      latch := s.eng.latched (portCode p) 0#32 0, tx := (s.eng.serving p).tx ++ [Tx.portRead p R.EVQ_POP_LO 0#32] } := by
  rw [← Engine.latched_of_latch (State.serving_latch hr)]
  exact exec_evqPop_ready hr h1 h l (State.evqPop_empty (s := { s with eng := s.eng.serving p }) hnone _ _)

variable {i : Nat} {x : Entry} (hi : State.evqFirst s.evq = some i) (hx : s.evq.entries[i]? = some x)
include hi hx

/-- A pop of an entry whose halves are sound leaves the registers as they were. -/
theorem evqPop_sound {h l : Word} (hh : x.oddHi h = false) (hl : x.oddLo l = false) :
    exec (.evqPop p h l) s = .next { s with
      eng := { s.eng.serving p with
        latch := s.eng.latched (portCode p) (x.bits.extractLsb' 32 32 ^^^ h) (2 ^ 31)
        tx := (s.eng.serving p).tx ++ [Tx.portRead p R.EVQ_POP_LO (x.bits.setWidth 32 ^^^ l)] }.settle
      evq := s.evq.without i } := by
  have hpop := State.evqPop_entry (s := { s with eng := s.eng.serving p }) hi hx (portCode p) h l
  rw [hh, hl] at hpop
  rw [← Engine.latched_of_latch (State.serving_latch hr)]
  exact exec_evqPop_ready hr h1 h l hpop

/-- One with a half that is not is told, and its tag says which half (R241). -/
theorem evqPop_disturbed {h l : Word} (hbad : (x.oddHi h || x.oddLo l) = true) :
    exec (.evqPop p h l) s = .next { s with
      eng := { (s.eng.serving p).parityTold with
        latch := s.eng.latched (portCode p) (x.bits.extractLsb' 32 32 ^^^ h) (2 ^ 31 + 2 ^ 30 + at1 (x.oddHi h) 29 + at1 (x.oddLo l) 28)
        tx := (s.eng.serving p).tx ++ [Tx.portRead p R.EVQ_POP_LO (x.bits.setWidth 32 ^^^ l)] }.settle
      evq := s.evq.without i } := by
  have hpop := State.evqPop_entry (s := { s with eng := s.eng.serving p }) hi hx (portCode p) h l
  have hlatch : (s.eng.serving p).parityTold.latch = s.eng.latch := State.serving_latch hr
  rw [hbad] at hpop
  rw [← Engine.latched_of_latch hlatch]
  exact exec_evqPop_ready hr h1 h l hpop

end

/-! ### The overrun event (R240) -/

theorem exec_evqOverrun (s : State) : exec .evqOverrun s = doneS s.evqOverrun := rfl

theorem State.evqOverrun_idle {s : State} (h : s.evq.lostSince = 0 ∨ evqSize ≤ s.evq.entries.length) : s.evqOverrun = s := by
  unfold evqOverrun
  rw [if_neg (by omega)]

/-- Without an injection of its kind an event enters the queue with its parity right (R334). -/
theorem Engine.inject_other {e : Engine} {k : Nat} (h : e.hinge.active = false ∨ e.hinge.kind ≠ k) : e.inject k = (e, false) := by
  unfold inject
  rw [if_neg (by rcases h with h | h <;> simp [h])]

theorem State.evqOverrun_enters {s : State} (hlost : s.evq.lostSince ≠ 0) (hroom : s.evq.entries.length < evqSize)
    (hinj : s.eng.hinge.active = false ∨ s.eng.hinge.kind ≠ 9) : s.evqOverrun = { s with evq := { s.evq with
      entries := s.evq.entries ++
        [entryOf ⟨0x9, 0x03, 0, min s.evq.lostSince 0xFFF, s.eng.time.tb.toNat % 2 ^ 40, false⟩ false]
      lostSince := 0 } } := by
  unfold evqOverrun
  rw [if_pos ⟨hlost, hroom⟩, Engine.inject_other hinj]
  rfl

/-- Settles O44: the entry that a pop takes, the pop as an access of its port, what it delivers by whether its halves are sound,
and the overrun by whether pushes have been lost and there is room. -/
theorem eventsAreReadByClass : Obligations.EventsAreReadByClass := by
  refine ⟨fun q => ⟨fun _ => State.evqFirst_some, State.evqFirst_none⟩, waitsItsTurn_evqPop, fun s h l hr => evqPop_f1 h l hr,
    fun s p h l h1 hr => ⟨fun hnone => evqPop_leaves_empty hr h1 hnone h l, fun i x hi hx => ?_⟩,
    fun s => ⟨fun h => ?_, fun hlost hroom hinj => ?_⟩⟩
  · refine ⟨fun hh hl => evqPop_sound hr h1 hi hx hh hl,
      fun hbad => ⟨_, evqPop_disturbed hr h1 hi hx ((Bool.or_eq_true _ _).mpr hbad), ?_⟩⟩
    obtain ⟨hstat, hestat, histat⟩ := Engine.rd_parityTold (s.eng.serving p)
    refine ⟨hstat.trans ?_, hestat.trans ?_, histat.trans ?_, Engine.regsKept_parityTold _, ?_⟩
    · rw [State.rd_serving hr (by decide)]
    · rw [State.rd_serving hr (by decide)]
    · rw [State.rd_serving hr (by decide)]
    · exact (Engine.onlyRegs_parityTold (s.eng.serving p)).answered _ _
  · exact idles_of_doneS (by rw [exec_evqOverrun, State.evqOverrun_idle h])
  · rw [exec_evqOverrun, State.evqOverrun_enters hlost hroom hinj]
    rfl

end Sys2Proof.Machine
end

section
/-! SUPPORT. What the job engine's operations leave: what is put out for the jobs, a ring entry after each operation on entries,
and the writes that wait for credits. -/

namespace Sys2Proof.Machine

/-- A meaning that acts on the engine alone leaves what its function gives. -/
theorem leaves_of_done {c : Instr} {s : State} {f : Engine → Engine} {e : Engine} (h : exec c s = done s f) (he : f s.eng = e) :
    Leaves c s e := by
  rw [← he]
  exact h

namespace Engine

/-! ### The frame of the job engine's work -/

/-- b is a but for what has been put out on the link, the credits that took, and the jobs' entries, slots, reads and blocks. -/
def Works (a b : Engine) : Prop := b = { a with
  tx := b.tx
  host := { a.host with credits := b.host.credits, pm := b.host.pm, clkreq := b.host.clkreq }
  job := { a.job with
    ents := b.job.ents, slots := b.job.slots, reads := b.job.reads, outQ := b.job.outQ, decQ := b.job.decQ
    waitHost := b.job.waitHost } }

theorem Works.rfl {e : Engine} : Works e e := Eq.refl _

theorem Works.trans {a b c : Engine} (h : Works a b) (h' : Works b c) : Works a c := by
  unfold Works at h h'
  rw [h] at h'
  exact h'

section
variable {a b : Engine} (h : Works a b)
include h

theorem Works.regs : b.regs = a.regs := by rw [h]
theorem Works.time : b.time = a.time := by rw [h]
theorem Works.sys : b.sys = a.sys := by rw [h]
theorem Works.arriving : b.arriving = a.arriving := by rw [h]
theorem Works.bw : b.host.bw = a.host.bw := by rw [h]
theorem Works.lastErr : b.host.lastErr = a.host.lastErr := by rw [h]

theorem Works.rd (k : Nat) : b.rd k = a.rd k := by rw [rd_eq, rd_eq, h.regs]

end

/-- A chain of work on jobs is work on jobs. -/
theorem works_foldl {α : Type} {g : Engine → α → Engine} (hg : ∀ e x, Works e (g e x)) (l : List α) (e : Engine) :
    Works e (l.foldl g e) :=
  List.foldlRecOn l g Works.rfl fun _ hf x _ => hf.trans (hg _ x)

/-- b is a but for the ring entries. -/
def Enters (a b : Engine) : Prop := b = { a with job := { a.job with ents := b.job.ents } }

theorem Enters.rfl {e : Engine} : Enters e e := Eq.refl _

theorem Enters.trans {a b c : Engine} (h : Enters a b) (h' : Enters b c) : Enters a c := by
  unfold Enters at h h'
  rw [h] at h'
  exact h'

theorem Enters.works {a b : Engine} (h : Enters a b) : Works a b := by
  unfold Enters at h
  unfold Works
  rw [h]

theorem Enters.ite {a b c : Engine} {p : Prop} [Decidable p] (h : Enters a b) (h' : Enters a c) : Enters a (if p then b else c) := by
  split
  · exact h
  · exact h'

theorem enters_setEnt (e : Engine) (i : Nat) (f : JobEnt → JobEnt) : Enters e (e.setEnt i f) := Eq.refl _

theorem enters_endJob (e : Engine) (i status cause : Nat) : Enters e (e.endJob i status cause) := enters_setEnt e i _

/-! ### A ring entry after an operation on entries (R252, R259) -/

/-- An entry other than the empty one is one of the ring's. -/
theorem ent_in_ring {e : Engine} {i : Nat} (h : e.ent i ≠ {}) : i < e.job.ents.length := by
  refine Nat.lt_of_not_le fun hle => h ?_
  rw [ent, List.getD_eq_getElem?_getD, List.getElem?_eq_none hle, Option.getD_none]

theorem ent_mem {e : Engine} {i : Nat} (h : i < e.job.ents.length) : e.ent i ∈ e.job.ents := by
  rw [ent, List.getD_eq_getElem?_getD, List.getElem?_eq_getElem h, Option.getD_some]
  exact List.getElem_mem h

theorem ent_setEnt_other {e : Engine} {i j : Nat} (h : j ≠ i) (f : JobEnt → JobEnt) : (e.setEnt i f).ent j = e.ent j := by
  unfold ent setEnt upd
  simp only [List.getD_eq_getElem?_getD, List.getElem?_modify_ne _ _ h.symm]

theorem ent_setEnt_same {e : Engine} {i : Nat} (h : i < e.job.ents.length) (f : JobEnt → JobEnt) :
    (e.setEnt i f).ent i = f (e.ent i) := by
  unfold ent setEnt upd
  simp only [List.getD_eq_getElem?_getD, List.getElem?_modify_eq, List.getElem?_eq_getElem h, Option.map_eq_map, Option.map_some,
    Option.getD_some]

theorem ents_setEnt_length (e : Engine) (i : Nat) (f : JobEnt → JobEnt) :
    (e.setEnt i f).job.ents.length = e.job.ents.length := List.length_modify _ _ _

/-- An entry that ends keeps the end that it has met before. -/
def ending (status cause : Nat) (j : JobEnt) : JobEnt := if j.ended.isSome then j else { j with ended := some (status, cause) }

theorem endJob_eq (e : Engine) (i status cause : Nat) : e.endJob i status cause = e.setEnt i (ending status cause) := Eq.refl _

/-- An operation on entry after entry of a range changes each as that entry alone calls for. -/
theorem ent_foldl_range {g : Engine → Nat → Engine} {φ : Nat → JobEnt → JobEnt} {first : Nat}
    (same : ∀ e k, (g e k).ent (first + k) = φ k (e.ent (first + k)))
    (other : ∀ e k j, j ≠ first + k → (g e k).ent j = e.ent j) (n : Nat) (e : Engine) :
    (∀ k, k < n → ((List.range n).foldl g e).ent (first + k) = φ k (e.ent (first + k))) ∧
    ∀ j, j < first ∨ first + n ≤ j → ((List.range n).foldl g e).ent j = e.ent j := by
  induction n with
  | zero => exact ⟨fun k hk => absurd hk (Nat.not_lt_zero k), fun _ _ => Eq.refl _⟩
  | succ n ih =>
    obtain ⟨inside, outside⟩ := ih
    rw [List.range_succ, List.foldl_append, List.foldl_cons, List.foldl_nil]
    refine ⟨fun k hk => ?_, fun j hj => ?_⟩
    · rcases Nat.lt_succ_iff_lt_or_eq.mp hk with hlt | rfl
      · rw [other _ _ _ (by omega), inside k hlt]
      · rw [same, outside _ (by omega)]
    · rw [other _ _ _ (by omega), outside j (by omega)]

/-! ### What is put out (R259, R261, R284) -/

/-- b is a after ts have been put out on the link. -/
def Sends (ts : List Tx) (a b : Engine) : Prop :=
  b = { a with tx := a.tx ++ ts, host := { a.host with pm := b.host.pm, clkreq := b.host.clkreq } }

theorem Sends.works {ts : List Tx} {a b : Engine} (h : Sends ts a b) : Works a b := by
  unfold Sends at h
  unfold Works
  rw [h]

theorem Sends.tx {ts : List Tx} {a b : Engine} (h : Sends ts a b) : b.tx = a.tx ++ ts := by rw [h]

theorem sends_emit (e : Engine) (t : Tx) : Sends [t] e (e.emit t) := by
  unfold emit linkWake
  repeat' split
  all_goals exact Eq.refl _

/-- What an element of the queue is on the link. -/
def onLink (ido : Bool) (w : OutWr) : Tx := w.tlp.getD (.writeMem w.addr w.bytes ido)

theorem issue_eq (e : Engine) (w : OutWr) : e.issue w = e.emit (onLink e.idoReq w) := by
  unfold issue onLink
  cases w.tlp <;> rfl

theorem Sends.idoReq {ts : List Tx} {a b : Engine} (h : Sends ts a b) : b.idoReq = a.idoReq := by rw [h]; rfl

/-- The elements of the queue go out in order. -/
theorem sends_issues (l : List OutWr) : ∀ e : Engine, Sends (l.map (onLink e.idoReq)) e (l.foldl issue e) := by
  induction l with
  | nil => exact fun e => show e = { e with tx := e.tx ++ [] } by rw [List.append_nil]
  | cons w t ih =>
    intro e
    have first : Sends [onLink e.idoReq w] e (e.issue w) := issue_eq e w ▸ sends_emit e _
    have rest := ih (e.issue w)
    rw [first.idoReq] at rest
    rw [List.foldl_cons, List.map_cons]
    unfold Sends at first rest ⊢
    rw [first] at rest
    rw [first, rest, List.append_assoc]
    rfl

/-- Where the job engine may issue nothing, its writes stay and the TLPs that wait behind them go. -/
theorem drainOut_shut {e : Engine} (h : e.canIssue = false) : e.drainOut =
    { (e.job.outQ.filter fun w => w.tlp.isSome).foldl issue e with
      job := { e.job with outQ := e.job.outQ.filter fun w => w.tlp.isNone } } := by
  unfold drainOut
  rw [if_pos (by rw [h]; rfl)]
  dsimp only
  split
  next none =>
    have nothing : (e.job.outQ.filter fun w => w.tlp.isSome) = [] := List.isEmpty_iff.mp none
    have all : (e.job.outQ.filter fun w => w.tlp.isNone) = e.job.outQ := List.filter_eq_self.mpr fun w hw => by
      simpa using List.filter_eq_nil_iff.mp nothing w hw
    rw [nothing, all]
    rfl
  next => rfl

theorem drainOut_open {e : Engine} (h : e.canIssue = true) : e.drainOut =
    let n := sendable e.host.credits e.job.outQ
    let go := e.job.outQ.take n
    let d := go.foldl issue e
    { d with
      host := { d.host with credits := e.host.credits - (go.map fun w => writeCost w.bytes.length).sum }
      job := { e.job with
        outQ := e.job.outQ.drop n
        waitHost := e.job.waitHost || n < e.job.outQ.length
        slots := e.job.slots.map fun s => go.foldl slotOut s } } := by
  unfold drainOut
  rw [if_neg (by rw [h]; decide)]

/-- With nothing in the queue nothing goes. -/
theorem drainOut_empty {e : Engine} (h : e.job.outQ = []) : e.drainOut = e := by
  have emptied : e.drainOut = { e with job := { e.job with outQ := [] } } := by
    cases hi : e.canIssue with
    | false =>
      rw [drainOut_shut hi, h]
      rfl
    | true =>
      have none : sendable e.host.credits [] = 0 := rfl
      rw [drainOut_open hi, h]
      simp only [none, List.take_nil, List.drop_nil, List.foldl_nil, List.map_id', List.length_nil, Nat.lt_irrefl, decide_false,
        Bool.or_false]
      rfl
  rw [emptied, ← h]

theorem works_drainOut (e : Engine) : Works e e.drainOut := by
  cases h : e.canIssue with
  | false =>
    have go := sends_issues (e.job.outQ.filter fun w => w.tlp.isSome) e
    unfold Works Sends at *
    rw [drainOut_shut h, go]
  | true =>
    have go := sends_issues (e.job.outQ.take (sendable e.host.credits e.job.outQ)) e
    unfold Works Sends at *
    rw [drainOut_open h]
    dsimp only
    rw [go]

@[simp] theorem drainOut_ents (e : Engine) : e.drainOut.job.ents = e.job.ents := by
  cases h : e.canIssue with
  | false => rw [drainOut_shut h]
  | true => rw [drainOut_open h]

@[simp] theorem drainOut_reads (e : Engine) : e.drainOut.job.reads = e.job.reads := by
  cases h : e.canIssue with
  | false => rw [drainOut_shut h]
  | true => rw [drainOut_open h]

/-! ### A job that is cut off (R254, R256) -/

theorem works_cutJob (e : Engine) (i status cause : Nat) : Works e (e.cutJob i status cause) := by
  unfold cutJob
  extract_lets slotOf _ e1
  split
  · exact Works.rfl
  · exact (show Works e e1 from Eq.refl _).trans ((works_drainOut e1).trans (enters_endJob _ _ _ _).works)

theorem cutJob_reads (e : Engine) (i status cause : Nat) : (e.cutJob i status cause).job.reads = e.job.reads := by
  unfold cutJob
  split
  · rfl
  · exact drainOut_reads _

/-- Of the entries it changes its own alone, as an end does. -/
theorem ents_cutJob {e : Engine} {i : Nat} (h : (e.ent i).ended = none) (status cause : Nat) :
    (e.cutJob i status cause).job.ents = (e.setEnt i (ending status cause)).job.ents := by
  unfold cutJob
  rw [if_neg (by rw [h]; decide)]
  dsimp only
  rw [endJob_eq]
  unfold setEnt
  rw [drainOut_ents]

theorem ent_of_ents {e f : Engine} (h : f.job.ents = e.job.ents) (i : Nat) : f.ent i = e.ent i := by unfold ent; rw [h]

/-! ### A descriptor read that fails (R259) -/

/-- An entry of a failed read: what is still to come of it ends, and so does what an earlier part has brought. -/
def failing (tag cause : Nat) (j : JobEnt) : JobEnt :=
  if j.inRead then ending 6 cause { j with inRead := false, desc := [] }
  else if j.tag = some tag ∧ j.ended = none then { j with ended := some (6, cause), desc := [] }
  else j

theorem works_entryFails (e : Engine) (r : JobRead) (i cause : Nat) : Works e (e.entryFails r i cause) := by
  unfold entryFails
  split
  · exact ((enters_setEnt _ _ _).trans (enters_endJob _ _ _ _)).works
  · split
    · exact (works_cutJob _ _ _ _).trans (enters_setEnt _ _ _).works
    · exact Works.rfl

theorem entryFails_reads (e : Engine) (r : JobRead) (i cause : Nat) : (e.entryFails r i cause).job.reads = e.job.reads := by
  unfold entryFails
  split
  · rfl
  · split
    · exact cutJob_reads _ _ _ _
    · rfl

theorem ent_entryFails_other {e : Engine} {i j : Nat} (h : j ≠ i) (r : JobRead) (cause : Nat) :
    (e.entryFails r i cause).ent j = e.ent j := by
  unfold entryFails
  split
  · rw [endJob_eq, ent_setEnt_other h, ent_setEnt_other h]
  · split
    next brought => rw [ent_setEnt_other h, ent_of_ents (ents_cutJob brought.2 6 cause), ent_setEnt_other h]
    next => rfl

theorem ent_entryFails_same (e : Engine) (r : JobRead) (i cause : Nat) :
    (e.entryFails r i cause).ent i = failing r.tag cause (e.ent i) := by
  unfold entryFails failing
  split
  next flight =>
    have hi : i < e.job.ents.length := ent_in_ring fun h => by rw [h] at flight; cases flight
    rw [endJob_eq, ent_setEnt_same (by rw [ents_setEnt_length]; exact hi), ent_setEnt_same hi]
  next =>
    split
    next brought =>
      have hi : i < e.job.ents.length := ent_in_ring fun h => by rw [h] at brought; cases brought.1
      have hents := ents_cutJob brought.2 6 cause
      rw [ent_setEnt_same (by rw [hents, ents_setEnt_length]; exact hi), ent_of_ents hents, ent_setEnt_same hi, ending,
        if_neg (by rw [brought.2]; decide)]
    next => rfl

/-- The tags of the entries stand. -/
theorem failing_tag (tag cause : Nat) (j : JobEnt) : (failing tag cause j).tag = j.tag := by
  unfold failing ending
  repeat' split
  all_goals rfl

theorem entryFails_tag (e : Engine) (r : JobRead) (i cause j : Nat) : ((e.entryFails r i cause).ent j).tag = (e.ent j).tag := by
  by_cases h : j = i
  · rw [h, ent_entryFails_same, failing_tag]
  · rw [ent_entryFails_other h]

/-- An end that an entry has met stands. -/
theorem failing_ended {j : JobEnt} {x : Nat × Nat} (h : j.ended = some x) (tag cause : Nat) :
    (failing tag cause j).ended = some x ∧ (failing tag cause j).wb = j.wb := by
  unfold failing ending
  simp only [h, Option.isSome_some, if_true, reduceCtorEq, and_false, if_false]
  split
  · exact ⟨rfl, rfl⟩
  · exact ⟨h, rfl⟩

/-! ### A descriptor read that is over -/

/-- An entry stands alone: the read with that tag is over. -/
def alone (tag : Nat) (j : JobEnt) : JobEnt := if j.tag = some tag then { j with tag := none } else j

theorem ent_readOver (e : Engine) (r : JobRead) (i : Nat) : (e.readOver r).ent i = alone r.tag (e.ent i) := by
  show (e.job.ents.map (alone r.tag)).getD i {} = alone r.tag (e.job.ents.getD i {})
  rw [List.getD_eq_getElem?_getD, List.getD_eq_getElem?_getD, List.getElem?_map]
  cases e.job.ents[i]? with
  | none => rfl
  | some j => rfl

theorem alone_of_ne {tag : Nat} {j : JobEnt} (h : j.tag ≠ some tag) : alone tag j = j := if_neg h

/-- Of an entry only the tag is given up. -/
theorem alone_keeps (tag : Nat) (j : JobEnt) : alone tag j = { j with tag := (alone tag j).tag } := by
  unfold alone
  split <;> rfl

theorem works_readOver (e : Engine) (r : JobRead) : Works e (e.readOver r) := Eq.refl _

theorem works_fetchErr (e : Engine) (r : JobRead) (cause : Nat) : Works e (e.fetchErr r cause) :=
  (works_foldl (fun e k => works_entryFails e r (r.first + k) cause) _ e).trans (works_readOver _ r)

theorem fetchErr_reads (e : Engine) (r : JobRead) (cause : Nat) :
    (e.fetchErr r cause).job.reads = e.job.reads.filter fun x => x.tag != r.tag := by
  have kept : ((List.range r.n).foldl (fun e k => e.entryFails r (r.first + k) cause) e).job.reads = e.job.reads :=
    List.foldlRecOn (motive := fun f => f.job.reads = e.job.reads) _ _ rfl fun f hf k _ => (entryFails_reads f r _ cause).trans hf
  exact congrArg (List.filter fun x => x.tag != r.tag) kept

/-- Each entry of the read fails; the others only lose a tag. -/
theorem ent_fetchErr (e : Engine) (r : JobRead) (cause : Nat) :
    (∀ k, k < r.n → (e.fetchErr r cause).ent (r.first + k) = alone r.tag (failing r.tag cause (e.ent (r.first + k)))) ∧
    ∀ j, j < r.first ∨ r.first + r.n ≤ j → (e.fetchErr r cause).ent j = alone r.tag (e.ent j) := by
  obtain ⟨inside, outside⟩ := ent_foldl_range (g := fun e k => e.entryFails r (r.first + k) cause)
    (φ := fun _ => failing r.tag cause) (first := r.first) (fun e k => ent_entryFails_same e r _ cause)
    (fun e k j hj => ent_entryFails_other hj r cause) r.n e
  exact ⟨fun k hk => (ent_readOver _ r _).trans (congrArg _ (inside k hk)),
    fun j hj => (ent_readOver _ r _).trans (congrArg _ (outside j hj))⟩

/-- Where no entry of the read has come, no job is cut off: entries and reads alone change. -/
theorem fetchErr_uncut {e : Engine} {r : JobRead} (h : ∀ k, k < r.n → (e.ent (r.first + k)).tag ≠ some r.tag) (cause : Nat) :
    e.fetchErr r cause = { e with job := { e.job with
      ents := (e.fetchErr r cause).job.ents, reads := (e.fetchErr r cause).job.reads } } := by
  have enters : Enters e ((List.range r.n).foldl (fun e k => e.entryFails r (r.first + k) cause) e) ∧
      ∀ j, (((List.range r.n).foldl (fun e k => e.entryFails r (r.first + k) cause) e).ent j).tag = (e.ent j).tag := by
    refine List.foldlRecOn (motive := fun f => Enters e f ∧ ∀ j, (f.ent j).tag = (e.ent j).tag) _ _ ⟨Enters.rfl, fun _ => rfl⟩
      fun f hf k hk => ⟨hf.1.trans ?_, fun j => (entryFails_tag f r _ cause j).trans (hf.2 j)⟩
    have untagged : ¬((f.ent (r.first + k)).tag = some r.tag ∧ (f.ent (r.first + k)).ended = none) := fun ht =>
      h k (List.mem_range.mp hk) ((hf.2 _).symm.trans ht.1)
    unfold entryFails
    rw [if_neg untagged]
    exact Enters.ite ((enters_setEnt _ _ _).trans (enters_endJob _ _ _ _)) Enters.rfl
  have henters := enters.1
  unfold Enters at henters
  unfold fetchErr readOver
  rw [henters]

end Engine
end Sys2Proof.Machine
end

section
/-! PROOF. O45: completions of descriptor reads, those that fail, and the errors that end a read or freeze the port. -/

namespace Sys2Proof.Machine

namespace Engine

/-! ### What a read brings (R255) -/

/-- An entry of a read whose bytes have arrived in full. -/
def fetching (r : JobRead) (k : Nat) (j : JobEnt) : JobEnt :=
  if j.inRead && decide (8 * (k + 1) ≤ r.got.length) then
    if j.cancel then ending 5 3 { j with inRead := false }
    else { j with
      inRead := false, st := .fetched, desc := (r.got.drop (8 * k)).take 8
      tag := if r.got.length < 8 * r.n then some r.tag else none }
  else j

/-- What a read makes of its entry k. -/
def entryFetched (e : Engine) (r : JobRead) (k : Nat) : Engine :=
  let i := r.first + k
  if (e.ent i).inRead && decide (8 * (k + 1) ≤ r.got.length) then
    if (e.ent i).cancel then (e.setEnt i fun j => { j with inRead := false }).endJob i 5 3
    else e.setEnt i fun j => { j with
      inRead := false, st := .fetched, desc := (r.got.drop (8 * k)).take 8
      tag := if r.got.length < 8 * r.n then some r.tag else none }
  else e

theorem fetched_full {e : Engine} {r : JobRead} (h : 8 * r.n ≤ r.got.length) :
    e.fetched r = ((List.range r.n).foldl (fun e k => e.entryFetched r k) e).readOver r := by
  unfold fetched
  dsimp only
  rw [if_pos h]
  rfl

theorem enters_entryFetched (e : Engine) (r : JobRead) (k : Nat) : Enters e (e.entryFetched r k) :=
  Enters.ite (Enters.ite ((enters_setEnt _ _ _).trans (enters_endJob _ _ _ _)) (enters_setEnt _ _ _)) Enters.rfl

theorem ent_entryFetched_other {e : Engine} {r : JobRead} {k j : Nat} (h : j ≠ r.first + k) :
    (e.entryFetched r k).ent j = e.ent j := by
  unfold entryFetched
  dsimp only
  split
  · split
    · rw [endJob_eq, ent_setEnt_other h, ent_setEnt_other h]
    · rw [ent_setEnt_other h]
  · rfl

theorem ent_entryFetched_same (e : Engine) (r : JobRead) (k : Nat) :
    (e.entryFetched r k).ent (r.first + k) = fetching r k (e.ent (r.first + k)) := by
  unfold entryFetched fetching
  dsimp only
  split
  next whole =>
    have hi : r.first + k < e.job.ents.length := ent_in_ring fun h => by rw [h] at whole; cases whole
    split
    · rw [endJob_eq, ent_setEnt_same (by rw [ents_setEnt_length]; exact hi), ent_setEnt_same hi]
    · rw [ent_setEnt_same hi]
  next => rfl

section
variable {r : JobRead} (h : 8 * r.n ≤ r.got.length) (e : Engine)
include h

/-- A read whose bytes have all come changes entries, and is over. -/
theorem fetched_frame : e.fetched r = { e with job := { e.job with
    ents := (e.fetched r).job.ents, reads := e.job.reads.filter fun x => x.tag != r.tag } } := by
  have henters : Enters e ((List.range r.n).foldl (fun e k => e.entryFetched r k) e) :=
    List.foldlRecOn (motive := Enters e) _ _ Enters.rfl fun f hf k _ => hf.trans (enters_entryFetched f r k)
  unfold Enters at henters
  rw [fetched_full h]
  unfold readOver
  rw [henters]

theorem ent_fetched :
    (∀ k, k < r.n → (e.fetched r).ent (r.first + k) = alone r.tag (fetching r k (e.ent (r.first + k)))) ∧
    ∀ j, j < r.first ∨ r.first + r.n ≤ j → (e.fetched r).ent j = alone r.tag (e.ent j) := by
  rw [fetched_full h]
  obtain ⟨inside, outside⟩ := ent_foldl_range (g := fun e k => e.entryFetched r k) (φ := fetching r) (first := r.first)
    (fun e k => ent_entryFetched_same e r k) (fun e k j hj => ent_entryFetched_other hj) r.n e
  exact ⟨fun k hk => (ent_readOver _ r _).trans (congrArg _ (inside k hk)),
    fun j hj => (ent_readOver _ r _).trans (congrArg _ (outside j hj))⟩

/-- The descriptor of an entry that is not cancelled is taken. -/
theorem fetching_full {k : Nat} (hk : k < r.n) {j : JobEnt} (hin : j.inRead = true) (hc : j.cancel = false) :
    fetching r k j = { j with inRead := false, st := .fetched, desc := (r.got.drop (8 * k)).take 8, tag := none } := by
  unfold fetching
  rw [hin, hc, if_pos (by simp only [Bool.true_and, decide_eq_true_eq]; omega), if_neg Bool.false_ne_true, if_neg (by omega)]

end

/-! ### What an error of the endpoint leaves (R296) -/

/-- The registers that AER, Device Status and Command and Status note an error of function 0 in, and the count of those that
are advisory. -/
def errRegs : List Nat :=
  [0x04, 0x58, 0x104, 0x110, 0x118, 0x11C, 0x120, 0x124, 0x128].map (cfgKey 0) ++ [R.HOST_CORR_CNT]

/-- b is a after an error of function 0 has been noted: no bit of Command and Status is lost, and breakwater stands. -/
structure Logs (a b : Engine) : Prop where
  kept : RegsKept errRegs a b
  command : ∀ i, bit (a.rd (cfgKey 0 0x04)) i = true → bit (b.rd (cfgKey 0 0x04)) i = true
  bw : b.host.bw = a.host.bw

theorem Logs.rfl {e : Engine} : Logs e e := ⟨fun _ _ => Eq.refl _, fun _ h => h, Eq.refl _⟩

theorem Logs.trans {a b c : Engine} (h : Logs a b) (h' : Logs b c) : Logs a c :=
  ⟨fun k hk => (h'.kept k hk).trans (h.kept k hk), fun i hi => h'.command i (h.command i hi), h'.bw.trans h.bw⟩

theorem Logs.ite {a b c : Engine} {p : Prop} [Decidable p] (h : Logs a b) (h' : Logs a c) : Logs a (if p then b else c) := by
  split
  · exact h
  · exact h'

theorem bit_or_left {w : Word} {i : Nat} (h : bit w i = true) (m : Word) : bit (w ||| m) i = true := by
  unfold bit at *
  rw [BitVec.getLsbD_or, h, Bool.true_or]

theorem bit_or_right {m : Word} {i : Nat} (h : bit m i = true) (w : Word) : bit (w ||| m) i = true := by
  rw [BitVec.or_comm]
  exact bit_or_left h w

theorem bit_hwSet {e : Engine} {j i : Nat} (h : bit (e.rd j) i = true) (k : Nat) (m : Word) : bit ((e.hwSet k m).rd j) i = true := by
  by_cases hj : j = k
  · subst hj
    rw [rd_hwSet_same]
    exact bit_or_left h m
  · rw [rd_hwSet_other _ _ _ _ hj]
    exact h

theorem logs_hwSet {k : Nat} (hk : k ∈ errRegs) (e : Engine) (m : Word) : Logs e (e.hwSet k m) :=
  ⟨fun _ hj => rd_hwSet_other _ _ _ _ fun h => hj (h ▸ hk), fun _ hi => bit_hwSet hi k m, by rw [hwSet_host]⟩

theorem logs_wr {k : Nat} (hk : k ∈ errRegs) (hc : k ≠ cfgKey 0 0x04) (e : Engine) (v : Word) : Logs e (e.wr k v) :=
  ⟨fun _ hj => rd_wr_other _ _ _ _ fun h => hj (h ▸ hk), fun _ hi => by rw [rd_wr_other _ _ _ _ hc.symm]; exact hi,
    by rw [wr_host]⟩

theorem logs_corr (e : Engine) : Logs e (e.count R.HOST_CORR_CNT) :=
  ⟨fun _ hj => rd_count_other _ _ _ fun h => hj (h ▸ by decide), fun _ hi => by rw [rd_count_other _ _ _ (by decide)]; exact hi,
    by rw [count_host]⟩

theorem send_bw (e : Engine) (t : Tx) : (e.send t).host.bw = e.host.bw := by
  unfold send emit linkWake
  repeat' split
  all_goals rfl

theorem logs_send (e : Engine) (t : Tx) : Logs e (e.send t) :=
  ⟨fun k _ => rd_send e t k, fun _ hi => by rw [rd_send]; exact hi, send_bw e t⟩

theorem logs_headers (e : Engine) (n : Nat) : Logs e { e with host := { e.host with headers := n } } :=
  ⟨fun _ _ => Eq.refl _, fun _ hi => hi, Eq.refl _⟩

theorem logs_headerLog (e : Engine) : Logs e (e.headerLog 0) := by
  unfold headerLog
  extract_lets h e1
  have h1 : Logs e e1 := List.foldlRecOn (motive := Logs e) _ _ Logs.rfl fun f hf i hi => hf.trans <| by
    have range : ∀ i ∈ [0, 1, 2, 3], cfgKey 0 (0x11C + 4 * i) ∈ errRegs ∧ cfgKey 0 (0x11C + 4 * i) ≠ cfgKey 0 0x04 := by decide
    obtain ⟨hmem, hne⟩ := range i hi
    exact logs_wr hmem hne f _
  exact h1.trans (logs_headers e1 _)

theorem logs_aer (e : Engine) (x : PciErr) (advisory : Bool) : Logs e (e.aer 0 x advisory) := by
  unfold aer
  extract_lets b fatal masked first e1 e2 e3 e4 e5 e6 e7 e8
  have h1 : Logs e e1 := logs_hwSet (by decide) e _
  have h2 : Logs e e2 := Logs.ite (h1.trans (logs_wr (by decide) (by decide) e1 _)) h1
  have h3 : Logs e e3 := Logs.ite (h2.trans (logs_headerLog e2)) h2
  have h4 : Logs e e4 := Logs.ite (h3.trans (logs_hwSet (by decide) e3 _)) h3
  have h6 : Logs e e6 :=
    ((h4.trans (logs_hwSet (by decide) e4 _)).trans (logs_hwSet (by decide) _ _)).trans (logs_corr e5)
  have h7 : Logs e e7 := h4.trans (logs_hwSet (by decide) e4 _)
  have h8 : Logs e e8 := Logs.ite (h7.trans (logs_hwSet (by decide) e7 _)) h7
  exact Logs.ite (Logs.ite (h6.trans (logs_send e6 _)) h6) (Logs.ite (h8.trans (logs_send e8 _)) h8)

/-! ### A completion that nothing asked for -/

theorem Told.time {a b : Engine} (h : Told a b) : b.time = a.time := by rw [h]; rfl
theorem Told.sys {a b : Engine} (h : Told a b) : b.sys = a.sys := by rw [h]; rfl
theorem Told.arriving {a b : Engine} (h : Told a b) : b.arriving = a.arriving := by rw [h]; rfl
theorem Told.job {a b : Engine} (h : Told a b) : b.job = { a.job with outQ := b.job.outQ } := by rw [h]

theorem hostErr_unexpected (e : Engine) : e.hostErr 0 .unexpected true = (e.aer 0 .unexpected true).lastErr 0 .unexpected := rfl

theorem told_unexpected (e : Engine) : Told e (e.hostErr 0 .unexpected true) :=
  (advises_aer 0 e .unexpected).2.trans (told_lastErr _ 0 .unexpected)

theorem rd_unexpected (e : Engine) : (e.hostErr 0 .unexpected true).rd (istatKey 0x25) = e.rd (istatKey 0x25) ||| 32#32 := by
  rw [hostErr_unexpected, rd_lastErr_same, (logs_aer e .unexpected true).kept _ (by decide)]

theorem lastErr_unexpected (e : Engine) : (e.hostErr 0 .unexpected true).host.lastErr =
    w32 (2 ^ 31 + 6 * 2 ^ 24 + e.time.tb.toNat % 2 ^ 24) := by
  rw [hostErr_unexpected]
  exact (lastErr_host _ 0 .unexpected).trans
    (by simp only [(advises_aer 0 e .unexpected).2.time, Nat.zero_mul, Nat.add_zero, PciErr.kind])

theorem regsKept_unexpected (e : Engine) : RegsKept (errRegs ++ [istatKey 0x25]) e (e.hostErr 0 .unexpected true) := fun k hk => by
  rw [List.mem_append, not_or, List.mem_singleton] at hk
  obtain ⟨herr, hist⟩ := hk
  rw [hostErr_unexpected, rd_lastErr_other _ _ _ hist, (logs_aer e .unexpected true).kept k herr]

/-! ### Errors that breakwater may take as its cause (R297, R298) -/

/-- f is e after an error of a kind has been counted, noted and kept as the last one; breakwater stands as it stood. -/
structure Noted (x : PciErr) (cnt : Nat) (e f : Engine) : Prop where
  counted : f.rd cnt = bump16 (e.rd cnt)
  causes : f.rd R.HOST_BW_CTL = e.rd R.HOST_BW_CTL
  last : f.host.lastErr = w32 (2 ^ 31 + x.kind * 2 ^ 24 + e.time.tb.toNat % 2 ^ 24)
  told : Told e f
  bw : f.host.bw = e.host.bw

theorem bw_with_lastErr (e : Engine) (w : Word) : ({ e with host := { e.host with lastErr := w } } : Engine).host.bw = e.host.bw := rfl

theorem lastErr_bw (e : Engine) (fn : Nat) (x : PciErr) : (e.lastErr fn x).host.bw = e.host.bw :=
  (congrArg HostBlk.bw (istat_host _ 0x25 32)).trans (bw_with_lastErr e _)

/-- The error is kept as the last one. -/
theorem noted_lastErr {x : PciErr} {cnt : Nat} {e g : Engine} (hc : g.rd cnt = bump16 (e.rd cnt))
    (hb : g.rd R.HOST_BW_CTL = e.rd R.HOST_BW_CTL) (hg : Told e g) (hbw : g.host.bw = e.host.bw) (hist : cnt ≠ istatKey 0x25) :
    Noted x cnt e (g.lastErr 0 x) where
  counted := (rd_lastErr_other _ _ _ hist).trans hc
  causes := (rd_lastErr_other _ _ _ (by decide)).trans hb
  last := (lastErr_host g 0 x).trans (by simp only [hg.time, Nat.zero_mul, Nat.add_zero])
  told := hg.trans (told_lastErr g 0 x)
  bw := (lastErr_bw g 0 x).trans hbw

/-- An error is noted after registers of the HOST page have changed. -/
theorem noted_of {x : PciErr} {cnt : Nat} {e f : Engine} (hf : OnlyRegs e f) (hc : f.rd cnt = bump16 (e.rd cnt))
    (hb : f.rd R.HOST_BW_CTL = e.rd R.HOST_BW_CTL) (hcnt : cnt < 0x1000000) (hist : cnt ≠ istatKey 0x25) :
    Noted x cnt e ((f.aer 0 x false).lastErr 0 x) := by
  obtain ⟨hrd, htold⟩ := reports_aer 0 f x
  have page {k : Nat} (hk : k < 0x1000000) : (f.aer 0 x false).rd k = f.rd k := hrd k fun off _ => ne_cfgKey hk 0 off
  have hbw : f.host.bw = e.host.bw := by rw [hf, marked_host]
  exact noted_lastErr ((page hcnt).trans hc) ((page (by decide)).trans hb) (hf.told.trans htold)
    ((logs_aer f x false).bw.trans hbw) hist

/-- The engine with the port frozen for cause x: what its jobs have under way is held. -/
def frozenBy (e : Engine) (x : PciErr) : Engine :=
  { e with
    host := { e.host with bw := .frozen, bwCause := x.cause, bwTb := e.time.tb }
    job := { e.job with
      slots := e.job.slots.map fun s => { s with frozen := s.busy }, reads := e.job.reads.map fun r => { r with frozen := true } } }

/-- A completion timeout and a poisoned TLP freeze an open port where they are enabled as a cause. -/
theorem breakwater_eq {x : PciErr} (hx : x = .timeout ∨ x = .poison) (e : Engine) : e.breakwater x =
    if e.rb R.HOST_BW_CTL (x.cause - 1) && e.host.bw == .opened then ((e.frozenBy x).istat 0x25 4).push 0xB 0x03 0 x.cause else e := by
  rcases hx with rfl | rfl <;> rfl

/-- A read is lost: its entries fail, or breakwater keeps back what comes of it (R299). -/
def readLost (e : Engine) (tag : Nat) (r : JobRead) : Engine :=
  if e.host.bw = .frozen then
    { e with job.reads := e.job.reads.map fun x => if x.tag = tag then { x with late := true } else x }
  else e.fetchErr r 8

section
variable {x : PciErr} {cnt : Nat} {e f : Engine} (hx : x = .timeout ∨ x = .poison) (hbw : e.host.bw = .opened) (h : Noted x cnt e f)
include hx hbw h

/-- An enabled cause freezes the port, and the entries of the read stand. -/
theorem readLost_frozen (hen : e.rb R.HOST_BW_CTL (x.cause - 1) = true) (tag : Nat) (r : JobRead) :
    let g := (f.breakwater x).readLost tag r
    g.host = { f.host with bw := .frozen, bwCause := x.cause, bwTb := e.time.tb } ∧ g.time = e.time ∧
    g.job.ents = e.job.ents ∧ g.arriving = e.arriving ++ [e.event 0xB 0x03 0 x.cause] ∧
    ∀ k, k ≠ istatKey 0x25 → g.rd k = f.rd k := by
  have entered : f.breakwater x = ((f.frozenBy x).istat 0x25 4).push 0xB 0x03 0 x.cause := by
    rw [breakwater_eq hx, if_pos]
    unfold rb at *
    rw [h.causes, hen, h.bw, hbw]
    rfl
  have hjob : f.job = { e.job with outQ := f.job.outQ } := h.told.job
  have frozen : (((f.frozenBy x).istat 0x25 4).push 0xB 0x03 0 x.cause).host.bw = .frozen := rfl
  rw [entered, readLost, if_pos frozen]
  refine ⟨?_, h.told.time, ?_, ?_, fun k hk => ?_⟩
  · rw [← h.told.time]
    rfl
  · exact (show _ = f.job.ents from rfl).trans (by rw [hjob])
  · rw [← h.told.arriving]
    unfold event
    rw [← h.told.time]
    rfl
  · exact rd_istat_other (f.frozenBy x) 0x25 4 k hk

/-- A cause that is not enabled lets the port be, and the entries of the read fail. -/
theorem readLost_open (hen : e.rb R.HOST_BW_CTL (x.cause - 1) = false) (tag : Nat) (r : JobRead) :
    (f.breakwater x).readLost tag r = f.fetchErr r 8 := by
  have stays : f.breakwater x = f := by
    rw [breakwater_eq hx, if_neg]
    unfold rb at *
    rw [h.causes, hen]
    exact Bool.false_ne_true
  rw [stays, readLost, if_neg (by rw [h.bw, hbw]; decide)]

/-- Either way the error stands as it has been noted. -/
theorem readLost_noted (hist : cnt ≠ istatKey 0x25) (tag : Nat) (r : JobRead) :
    let g := (f.breakwater x).readLost tag r
    (∀ k, k ≠ istatKey 0x25 → g.rd k = f.rd k) ∧ g.rd cnt = bump16 (e.rd cnt) ∧
    g.host.lastErr = w32 (2 ^ 31 + x.kind * 2 ^ 24 + e.time.tb.toNat % 2 ^ 24) ∧ g.time = e.time := by
  cases hen : e.rb R.HOST_BW_CTL (x.cause - 1) with
  | true =>
    obtain ⟨hhost, htime, -, -, hrd⟩ := readLost_frozen hx hbw h hen tag r
    exact ⟨hrd, (hrd cnt hist).trans h.counted, (congrArg HostBlk.lastErr hhost).trans h.last, htime⟩
  | false =>
    have hworks := works_fetchErr f r 8
    rw [readLost_open hx hbw h hen]
    exact ⟨fun k _ => hworks.rd k, (hworks.rd cnt).trans h.counted, hworks.lastErr.trans h.last, hworks.time.trans h.told.time⟩

end

/-- An entry in flight that has not ended fails. -/
theorem failing_flight {j : JobEnt} (hin : j.inRead = true) (hend : j.ended = none) (tag cause : Nat) :
    failing tag cause j = { j with inRead := false, desc := [], ended := some (6, cause) } := by
  unfold failing ending
  rw [if_pos hin, if_neg (by rw [hend]; decide)]

/-- So does one that an earlier part of the read has brought. -/
theorem failing_brought {j : JobEnt} (hin : j.inRead = false) (hend : j.ended = none) {tag : Nat} (ht : j.tag = some tag) (cause : Nat) :
    failing tag cause j = { j with ended := some (6, cause), desc := [] } := by
  unfold failing
  rw [if_neg (by rw [hin]; decide), if_pos ⟨ht, hend⟩]

/-! ### The errors of the commands -/

/-- With Parity Error Response a poisoned completion sets Master Data Parity Error. -/
def parityNoted (e : Engine) : Engine := if bit (e.cfg 0 0x04) 6 then e.hwSet (cfgKey 0 0x04) (w32 (2 ^ 24)) else e

/-- What a poisoned completion sets and counts before AER takes it. -/
def poisonSet (e : Engine) : Engine :=
  ((e.parityNoted.count R.HOST_POIS_CNT).estat 0x25 2).hwSet (cfgKey 0 0x04) (w32 (2 ^ 31))

theorem poisonedCpl_eq (e : Engine) :
    e.poisonedCpl = ((e.poisonSet.aer 0 .poison false).lastErr 0 .poison).breakwater .poison := rfl

theorem onlyRegs_parityNoted (e : Engine) : OnlyRegs e e.parityNoted := by
  unfold parityNoted
  split
  · exact onlyRegs_hwSet _ _ _
  · exact Eq.refl _

theorem rd_parityNoted_other (e : Engine) {k : Nat} (h : k ≠ cfgKey 0 0x04) : e.parityNoted.rd k = e.rd k := by
  unfold parityNoted
  split
  · exact rd_hwSet_other _ _ _ _ h
  · rfl

theorem rd_poisonSet_other (e : Engine) {k : Nat} (hc : k ≠ cfgKey 0 0x04) (hs : k ≠ estatKey 0x25) :
    e.poisonSet.rd k = (e.parityNoted.count R.HOST_POIS_CNT).rd k := by
  unfold poisonSet
  rw [rd_hwSet_other _ _ _ _ hc, rd_estat_other _ _ _ _ hs]

theorem noted_poison (e : Engine) : Noted .poison R.HOST_POIS_CNT e ((e.poisonSet.aer 0 .poison false).lastErr 0 .poison) := by
  refine noted_of ?_ ?_ ?_ (by decide) (by decide)
  · exact (((onlyRegs_parityNoted e).trans (onlyRegs_count _ _)).trans (onlyRegs_estat _ _ _)).trans (onlyRegs_hwSet _ _ _)
  · rw [rd_poisonSet_other e (by decide) (by decide), rd_count_same, rd_parityNoted_other e (by decide)]
  · rw [rd_poisonSet_other e (by decide) (by decide), rd_count_other _ _ _ (by decide), rd_parityNoted_other e (by decide)]

/-- Detected Parity Error, and Master Data Parity Error where Parity Error Response is set. -/
theorem command_poison (e : Engine) :
    let f := (e.poisonSet.aer 0 .poison false).lastErr 0 .poison
    bit (f.rd (cfgKey 0 0x04)) 31 = true ∧
    (bit (e.rd (cfgKey 0 0x04)) 6 = true → bit (f.rd (cfgKey 0 0x04)) 24 = true) := by
  have noted (i : Nat) (h : bit (e.poisonSet.rd (cfgKey 0 0x04)) i = true) :
      bit (((e.poisonSet.aer 0 .poison false).lastErr 0 .poison).rd (cfgKey 0 0x04)) i = true := by
    rw [rd_lastErr_other _ _ _ (by decide)]
    exact (logs_aer e.poisonSet .poison false).command i h
  refine ⟨noted 31 ?_, fun h6 => noted 24 ?_⟩
  · unfold poisonSet
    rw [rd_hwSet_same]
    exact bit_or_right (by decide) _
  · have parity : bit (e.parityNoted.rd (cfgKey 0 0x04)) 24 = true := by
      unfold parityNoted
      rw [if_pos (by exact h6), rd_hwSet_same]
      exact bit_or_right (by decide) _
    refine bit_hwSet ?_ _ _
    rw [rd_estat_other _ _ _ _ (by decide), rd_count_other _ _ _ (by decide)]
    exact parity

/-- What a timeout counts before AER takes it. -/
def timeoutSet (e : Engine) : Engine := (e.count R.HOST_CTO_CNT).estat 0x25 1

theorem hostErr_timeout (e : Engine) :
    e.hostErr 0 .timeout false = ((e.timeoutSet.aer 0 .timeout false).lastErr 0 .timeout).breakwater .timeout := rfl

theorem noted_timeout (e : Engine) : Noted .timeout R.HOST_CTO_CNT e ((e.timeoutSet.aer 0 .timeout false).lastErr 0 .timeout) := by
  refine noted_of ((onlyRegs_count _ _).trans (onlyRegs_estat _ _ _)) ?_ ?_ (by decide) (by decide)
  · rw [timeoutSet, rd_estat_other _ _ _ _ (by decide), rd_count_same]
  · rw [timeoutSet, rd_estat_other _ _ _ _ (by decide), rd_count_other _ _ _ (by decide)]

/-! ### Completions by the read that they answer -/

/-- A completion that nothing asked for is an error of the endpoint (R296). -/
theorem completion_unexpected {e : Engine} {tag : Nat} (hr : e.job.reads.find? (fun r => r.tag == tag && !r.late) = none)
    (st : CplStatus) (ps : Bool) (data : List Word) : e.completion tag st ps data = e.hostErr 0 .unexpected true := by
  unfold completion
  rw [hr]

section
variable {e : Engine} {tag : Nat} {r : JobRead} (hr : e.job.reads.find? (fun r => r.tag == tag && !r.late) = some r)
include hr

theorem completion_held (hf : r.frozen = true) (st : CplStatus) (ps : Bool) (data : List Word) :
    e.completion tag st ps data = { e with job := { e.job with reads := e.job.reads.map fun x => if x.tag = tag then
      (if st = .success ∧ (r.got ++ data).length < 8 * r.n then { r with got := r.got ++ data } else { r with late := true }) else x } } := by
  unfold completion
  rw [hr]
  dsimp only
  rw [if_pos hf]
  split
  next => rfl
  next => rfl

variable (hf : r.frozen = false)
include hf

theorem completion_poisoned (st : CplStatus) (data : List Word) :
    e.completion tag st true data = e.poisonedCpl.readLost tag r := by
  unfold completion
  rw [hr]
  dsimp only
  rw [if_neg (by rw [hf]; decide), if_pos rfl]
  rfl

theorem completion_success (data : List Word) :
    e.completion tag .success false data = e.fetched { r with got := r.got ++ data } := by
  unfold completion
  rw [hr]
  dsimp only
  rw [if_neg (by rw [hf]; decide), if_neg Bool.false_ne_true]

theorem completion_failed {st : CplStatus} (hst : st ≠ .success) (data : List Word) : e.completion tag st false data =
    (e.hwSet (cfgKey 0 0x04) (if st = .unsupported then 0x20000000#32 else 0x10000000#32)).fetchErr r 8 := by
  unfold completion
  rw [hr]
  dsimp only
  rw [if_neg (by rw [hf]; decide), if_neg Bool.false_ne_true]
  cases st with
  | success => exact absurd rfl hst
  | unsupported => rfl
  | abort => rfl

end

/-- A request that has waited for the timeout. -/
theorem completionTimeout_due {e : Engine} {tag t : Nat} {r : JobRead}
    (hr : e.job.reads.find? (fun r => r.tag == tag && !r.late) = some r) (ht : e.timeoutOf = some t) (hdue : r.at' + t ≤ e.time.now) :
    e.completionTimeout tag = (e.hostErr 0 .timeout false).readLost tag r := by
  unfold completionTimeout
  rw [hr, ht]
  dsimp only
  rw [if_pos hdue]
  rfl

/-- Without a timeout, without the request, or before its time, nothing happens. -/
theorem completionTimeout_idle {e : Engine} {tag : Nat}
    (h : e.timeoutOf = none ∨ e.job.reads.find? (fun r => r.tag == tag && !r.late) = none ∨
      ∃ t r, e.timeoutOf = some t ∧ e.job.reads.find? (fun r => r.tag == tag && !r.late) = some r ∧ e.time.now < r.at' + t) :
    e.completionTimeout tag = e := by
  unfold completionTimeout
  rcases h with h | h | ⟨t, r, ht, hr, hlt⟩
  · rw [h]
  · rw [h]
    split
    next hnone => cases hnone
    next => rfl
  · rw [hr, ht]
    dsimp only
    rw [if_neg (by omega)]

/-! ### What the commands leave -/

/-- An entry that has not ended, and that the read was to bring or has brought, ends FAILED and gives its descriptor up. -/
theorem fails_ended {j : JobEnt} {tag : Nat} (hend : j.ended = none) (h : j.inRead = true ∨ j.tag = some tag) (cause : Nat) :
    (alone tag (failing tag cause j)).ended = some (6, cause) ∧ (alone tag (failing tag cause j)).desc = [] ∧
    (alone tag (failing tag cause j)).inRead = false := by
  rw [alone_keeps]
  cases hin : j.inRead with
  | true =>
    rw [failing_flight hin hend]
    exact ⟨rfl, rfl, rfl⟩
  | false =>
    rw [failing_brought hin hend (h.resolve_left (by rw [hin]; decide))]
    exact ⟨rfl, rfl, hin⟩

/-- Entries and reads change after registers have. -/
theorem OnlyRegs.jobs {a b c : Engine} (h : OnlyRegs a b)
    (hc : c = { b with job := { b.job with ents := c.job.ents, reads := c.job.reads } }) :
    c = { a.marked c with job := { a.job with ents := c.job.ents, reads := c.job.reads } } := by
  unfold OnlyRegs at h
  rw [h] at hc
  rw [hc]
  rfl

/-- A read is lost to an error that has been noted: the port is frozen where the error is enabled as a cause, and else the
entries of the read fail. -/
theorem readLost_ends {x : PciErr} {cnt : Nat} {e f : Engine} (hx : x = .timeout ∨ x = .poison) (hbw : e.host.bw = .opened)
    (h : Noted x cnt e f) (tag : Nat) (r : JobRead) :
    let g := (f.breakwater x).readLost tag r
    (e.rb R.HOST_BW_CTL (x.cause - 1) = true → g.host.bw = .frozen ∧ g.host.bwCause = x.cause ∧ g.host.bwTb = e.time.tb ∧
      g.job.ents = e.job.ents ∧ g.arriving = e.arriving ++ [e.event 0xB 0x03 0 x.cause]) ∧
    (e.rb R.HOST_BW_CTL (x.cause - 1) = false → g.host.bw = .opened ∧ g.arriving = e.arriving ∧
      g.job.reads = (e.job.reads.filter fun y => y.tag != r.tag) ∧
      ∀ k, k < r.n → (e.ent (r.first + k)).inRead = true → (e.ent (r.first + k)).ended = none →
        (g.ent (r.first + k)).ended = some (6, 8)) := by
  refine ⟨fun hen => ?_, fun hen => ?_⟩
  · obtain ⟨hhost, -, hents, harr, -⟩ := readLost_frozen hx hbw h hen tag r
    exact ⟨congrArg HostBlk.bw hhost, congrArg HostBlk.bwCause hhost, congrArg HostBlk.bwTb hhost, hents, harr⟩
  · have hworks := works_fetchErr f r 8
    have hents : f.job.ents = e.job.ents := by rw [h.told.job]
    have hreads : f.job.reads = e.job.reads := by rw [h.told.job]
    rw [readLost_open hx hbw h hen]
    refine ⟨hworks.bw.trans (h.bw.trans hbw), hworks.arriving.trans h.told.arriving, ?_, fun k hk hin hend => ?_⟩
    · rw [fetchErr_reads, hreads]
    · rw [(ent_fetchErr f r 8).1 k hk, ent_of_ents hents]
      exact (fails_ended hend (Or.inl hin) 8).1

end Engine

theorem exec_completion (tag : Nat) (st : CplStatus) (ps : Bool) (data : List Word) (s : State) :
    exec (.completion tag st ps data) s = done s fun e => e.completion tag st ps data := rfl

theorem exec_completionTimeout (tag : Nat) (s : State) :
    exec (.completionTimeout tag) s = done s fun e => e.completionTimeout tag := rfl

section
variable {s : State} {tag : Nat} {r : JobRead} (hr : s.eng.job.reads.find? (fun r => r.tag == tag && !r.late) = some r)
  (hf : r.frozen = false)
include hr hf

/-- The descriptors that a completion brings make their entries FETCHED (R255). -/
theorem completion_brings {data : List Word} (hlen : 8 * r.n ≤ (r.got ++ data).length) :
    Does (.completion tag .success false data) s fun e =>
      (∀ k, k < r.n → (s.eng.ent (r.first + k)).inRead = true → (s.eng.ent (r.first + k)).cancel = false →
        e.ent (r.first + k) = { s.eng.ent (r.first + k) with
          inRead := false, st := .fetched, desc := ((r.got ++ data).drop (8 * k)).take 8, tag := none }) ∧
      (∀ j, j < r.first ∨ r.first + r.n ≤ j → (s.eng.ent j).tag ≠ some r.tag → e.ent j = s.eng.ent j) ∧
      e = { s.eng with job := { s.eng.job with
        ents := e.job.ents, reads := s.eng.job.reads.filter fun x => x.tag != r.tag } } := by
  refine does_of_done (exec_completion ..) ?_
  rw [Engine.completion_success hr hf]
  obtain ⟨inside, outside⟩ := Engine.ent_fetched (r := { r with got := r.got ++ data }) hlen s.eng
  refine ⟨fun k hk hin hc => ?_, fun j hj ht => (outside j hj).trans (Engine.alone_of_ne ht),
    Engine.fetched_frame (r := { r with got := r.got ++ data }) hlen s.eng⟩
  exact (inside k hk).trans ((congrArg (Engine.alone r.tag)
    (Engine.fetching_full (r := { r with got := r.got ++ data }) hlen hk hin hc)).trans (Engine.alone_of_ne (nomatch ·)))

/-- A failed completion ends every entry of its read (R259). -/
theorem completion_fails {st : CplStatus} (hst : st ≠ .success) (data : List Word) :
    Does (.completion tag st false data) s fun e =>
      e.rd (cfgKey 0 0x04) = s.eng.rd (cfgKey 0 0x04) ||| (if st = .unsupported then 0x20000000#32 else 0x10000000#32) ∧
      RegsKept [cfgKey 0 0x04] s.eng e ∧
      (∀ k, k < r.n → (s.eng.ent (r.first + k)).ended = none →
        (s.eng.ent (r.first + k)).inRead = true ∨ (s.eng.ent (r.first + k)).tag = some r.tag →
        (e.ent (r.first + k)).ended = some (6, 8) ∧ (e.ent (r.first + k)).desc = [] ∧ (e.ent (r.first + k)).inRead = false) ∧
      (∀ j, j < r.first ∨ r.first + r.n ≤ j → (s.eng.ent j).tag ≠ some r.tag → e.ent j = s.eng.ent j) ∧
      e.job.reads = (s.eng.job.reads.filter fun x => x.tag != r.tag) ∧ e.time = s.eng.time ∧ e.sys = s.eng.sys ∧
      ((∀ k, k < r.n → (s.eng.ent (r.first + k)).tag ≠ some r.tag) → e = { s.eng.marked e with job := { s.eng.job with
        ents := e.job.ents, reads := e.job.reads } }) := by
  refine does_of_done (exec_completion ..) ?_
  rw [Engine.completion_failed hr hf hst]
  generalize (if st = .unsupported then 0x20000000#32 else 0x10000000#32) = m
  have hworks := Engine.works_fetchErr (s.eng.hwSet (cfgKey 0 0x04) m) r 8
  have hjob : (s.eng.hwSet (cfgKey 0 0x04) m).job = s.eng.job := Engine.hwSet_job _ _ _
  have hent (i : Nat) : (s.eng.hwSet (cfgKey 0 0x04) m).ent i = s.eng.ent i := Engine.ent_of_ents (congrArg JobBlk.ents hjob) i
  obtain ⟨inside, outside⟩ := Engine.ent_fetchErr (s.eng.hwSet (cfgKey 0 0x04) m) r 8
  refine ⟨?_, fun k hk => ?_, fun k hk hend h => ?_, fun j hj ht => ?_, ?_, ?_, ?_, fun h => ?_⟩
  · rw [hworks.rd, Engine.rd_hwSet_same]
  · rw [hworks.rd]
    exact Engine.regsKept_hwSet _ _ _ k hk
  · rw [inside k hk, hent]
    exact Engine.fails_ended hend h 8
  · rw [outside j hj, hent]
    exact Engine.alone_of_ne ht
  · rw [Engine.fetchErr_reads, hjob]
  · rw [hworks.time, Engine.hwSet_time]
  · rw [hworks.sys, Engine.hwSet_sys]
  · exact (Engine.onlyRegs_hwSet s.eng _ m).jobs (Engine.fetchErr_uncut (fun k hk => by rw [hent]; exact h k hk) 8)

end

/-- Settles O45: completions by the read that they answer (none, one that breakwater holds, one that goes on, one that fails), and
the two errors by whether they are enabled as a cause. -/
theorem hostCompletions : Obligations.HostCompletions := by
  refine ⟨fun s tag st ps data hr => ?_, fun s tag data r hr => ⟨fun hf st ps => ?_, fun hf hlen => completion_brings hr hf hlen,
    fun hf st hst => completion_fails hr hf hst data⟩, fun s c tag kind r hr hbw hc => ?_, fun s tag h => ?_⟩
  · have htold := Engine.told_unexpected s.eng
    exact ⟨_, leaves_of_done (exec_completion ..) (Engine.completion_unexpected hr st ps data), Engine.lastErr_unexpected s.eng,
      Engine.rd_unexpected s.eng, htold.job, htold.time, htold.sys, Engine.regsKept_unexpected s.eng⟩
  · exact leaves_of_done (exec_completion ..) (Engine.completion_held hr hf st ps data)
  · rcases hc with ⟨data, st, rfl, rfl, hf⟩ | ⟨t, rfl, rfl, ht, hdue⟩
    · refine does_of_done (exec_completion ..) ?_
      rw [Engine.completion_poisoned hr hf, Engine.poisonedCpl_eq]
      have hn := Engine.noted_poison s.eng
      obtain ⟨hrd, hcnt, hlast, htime⟩ := Engine.readLost_noted (Or.inr rfl) hbw hn (by decide) tag r
      obtain ⟨hfrozen, hopen⟩ := Engine.readLost_ends (Or.inr rfl) hbw hn tag r
      refine ⟨hcnt, hlast, htime, fun _ => ?_, hfrozen, hopen⟩
      rw [hrd _ (by decide)]
      exact Engine.command_poison s.eng
    · refine does_of_done (exec_completionTimeout tag s) ?_
      rw [Engine.completionTimeout_due hr ht hdue, Engine.hostErr_timeout]
      have hn := Engine.noted_timeout s.eng
      obtain ⟨-, hcnt, hlast, htime⟩ := Engine.readLost_noted (Or.inl rfl) hbw hn (by decide) tag r
      obtain ⟨hfrozen, hopen⟩ := Engine.readLost_ends (Or.inl rfl) hbw hn tag r
      exact ⟨hcnt, hlast, htime, fun h => absurd h (by decide), hfrozen, hopen⟩
  · exact leaves_of_done (exec_completionTimeout tag s) (Engine.completionTimeout_idle h)

end Sys2Proof.Machine
end

section
/-! PROOF. O47: the writeback of an ended job, the writes that credits let go, and the release of breakwater. -/

namespace Sys2Proof.Machine

namespace Engine

/-! ### Writebacks (R260) -/

/-- The state of an entry whose writeback has been issued. -/
def endState (status : Nat) : JobState :=
  match status with
  | 4 => .done
  | 5 => .cancelled
  | _ => .failed

theorem endState_eq (status : Nat) : endState status = if status = 4 then .done else if status = 5 then .cancelled else .failed := by
  unfold endState
  split
  next => rfl
  next => rfl
  next h4 h5 => rw [if_neg h4, if_neg h5]

/-- The write of a writeback, to its place in the ring of writebacks. -/
def wbTx (e : Engine) (ring status cause : Nat) : Tx :=
  .writeMem ((e.rd R.JOB_WB_LO).toNat + 2 ^ 32 * (e.rd R.JOB_WB_HI).toNat + 16 * ring)
    ((e.wbWords ring status cause).flatMap bytesOfWord) e.idoReq

/-- What a writeback is counted as in the next cycle. -/
def wbEnded (e : Engine) (ring status cause : Nat) : Ended :=
  let w0 := (e.ent ring).desc.getD 0 0#32
  { ring := ring, status := status, cause := cause, irq := bit w0 17, ev := bit w0 16 }

/-- The engine with the writeback put out and its slot free; the entry does not know yet. -/
def wbOut (e : Engine) (ring status cause : Nat) : Engine :=
  { e.emit (e.wbTx ring status cause) with
    host := { (e.emit (e.wbTx ring status cause)).host with credits := e.host.credits - 1 }
    job := { e.job with
      slots := e.job.slots.map fun s => if s.busy && s.ring == ring then { s with busy := false, frozen := false } else s
      counted := e.job.counted ++ [e.wbEnded ring status cause] } }

/-- The engine with the writeback issued; JOB_HEAD has not moved. -/
def wbIssued (e : Engine) (ring status cause : Nat) : Engine :=
  (e.wbOut ring status cause).setEnt ring fun j => { j with wb := true, st := endState status }

theorem writeback_eq {e : Engine} {ring status cause : Nat} (h : (e.ent ring).ended = some (status, cause)) :
    e.writeback ring = ((e.wbIssued ring status cause).headMove 64).released := by
  unfold writeback
  dsimp only
  rw [h]
  rfl

/-- f is e after t has been put out for one credit, and c is to be counted; entries, slots and JOB_HEAD may have changed. -/
structure PutsOut (t : Tx) (c : Ended) (e f : Engine) : Prop where
  tx : f.tx = e.tx ++ [t]
  credits : f.host.credits = e.host.credits - 1
  bw : f.host.bw = e.host.bw
  regs : f.regs = e.regs
  time : f.time = e.time
  sys : f.sys = e.sys
  arriving : f.arriving = e.arriving
  reads : f.job.reads = e.job.reads
  tail : f.job.tail = e.job.tail
  counted : f.job.counted = e.job.counted ++ [c]

theorem PutsOut.over {t : Tx} {c : Ended} {e f : Engine} (h : PutsOut t c e f) (ents : List JobEnt) (head : Nat) :
    PutsOut t c e { f with job := { f.job with ents := ents, head := head } } :=
  ⟨h.tx, h.credits, h.bw, h.regs, h.time, h.sys, h.arriving, h.reads, h.tail, h.counted⟩

theorem putsOut_wbOut (e : Engine) (ring status cause : Nat) :
    PutsOut (e.wbTx ring status cause) (e.wbEnded ring status cause) e (e.wbOut ring status cause) := by
  have hsend := sends_emit e (e.wbTx ring status cause)
  unfold wbOut
  generalize e.emit (e.wbTx ring status cause) = d at hsend ⊢
  exact ⟨hsend.tx, rfl, hsend.works.bw, hsend.works.regs, hsend.works.time, hsend.works.sys, hsend.works.arriving, rfl, rfl, rfl⟩

theorem putsOut_wbIssued (e : Engine) (ring status cause : Nat) :
    PutsOut (e.wbTx ring status cause) (e.wbEnded ring status cause) e (e.wbIssued ring status cause) :=
  (putsOut_wbOut e ring status cause).over _ _

/-- JOB_HEAD moves over entries, and clears them. -/
theorem putsOut_headMove {t : Tx} {c : Ended} {e : Engine} (n : Nat) : ∀ f, PutsOut t c e f → PutsOut t c e (f.headMove n) := by
  induction n with
  | zero => exact fun _ h => h
  | succ n ih =>
    intro f h
    unfold headMove
    dsimp only
    split
    · exact ih _ (h.over _ _)
    · exact h

/-- It stays at an entry whose writeback has not been issued. -/
theorem headMove_stays {e : Engine} (h : (e.ent (e.job.head % 64)).wb = false) (n : Nat) : e.headMove n = e := by
  cases n with
  | zero => rfl
  | succ n => exact if_neg fun hc => by rw [h] at hc; exact Bool.false_ne_true hc.2

/-- Breakwater goes on as it stood unless it has been released. -/
theorem released_stays {e : Engine} (h : e.host.bw ≠ .releasing) : e.released = e := by
  unfold released
  rw [if_neg]
  rw [Bool.and_eq_true, beq_iff_eq]
  exact fun hc => h hc.1

section
variable {e : Engine} {ring status cause : Nat} (hend : (e.ent ring).ended = some (status, cause)) (hbw : e.host.bw = .opened)
include hend hbw

theorem writeback_open : e.writeback ring = (e.wbIssued ring status cause).headMove 64 := by
  have opened := (putsOut_headMove 64 _ (putsOut_wbIssued e ring status cause)).bw.trans hbw
  rw [writeback_eq hend, released_stays (by rw [opened]; decide)]

/-- The writeback is put out for one credit, and its job is to be counted. -/
theorem putsOut_writeback : PutsOut (e.wbTx ring status cause) (e.wbEnded ring status cause) e (e.writeback ring) := by
  rw [writeback_open hend hbw]
  exact putsOut_headMove 64 _ (putsOut_wbIssued e ring status cause)

/-- Its entry ends; where it is not the oldest one, and that one still owes its own, JOB_HEAD and the other entries stand. -/
theorem writeback_behind (hhead : e.job.head % 64 ≠ ring) (hwb : (e.ent (e.job.head % 64)).wb = false) : let f := e.writeback ring
    f.job.head = e.job.head ∧ f.ent ring = { e.ent ring with wb := true, st := endState status } ∧
    ∀ j, j ≠ ring → f.ent j = e.ent j := by
  have hlen : ring < e.job.ents.length := ent_in_ring fun h => by rw [h] at hend; cases hend
  have other (j : Nat) (hj : j ≠ ring) : (e.wbIssued ring status cause).ent j = e.ent j :=
    (ent_setEnt_other (e := e.wbOut ring status cause) hj _).trans (ent_of_ents rfl j)
  rw [writeback_open hend hbw, headMove_stays ((congrArg JobEnt.wb (other _ hhead)).trans hwb)]
  exact ⟨rfl, ent_setEnt_same (e := e.wbOut ring status cause) hlen _, other⟩

end

/-! ### Credits (R261) -/

/-- The engine with credits returned. -/
def credited (e : Engine) (n : Nat) : Engine := { e with host := { e.host with credits := e.host.credits + n } }

/-- What waits for its turn and is no data write. -/
theorem onLink_tlps (ido : Bool) (l : List OutWr) : (l.filter fun w => w.tlp.isSome).map (onLink ido) = l.filterMap (·.tlp) := by
  induction l with
  | nil => rfl
  | cons w t ih =>
    cases h : w.tlp with
    | none => rw [List.filter_cons_of_neg (by rw [h]; decide), List.filterMap_cons_none h, ih]
    | some x =>
      rw [List.filter_cons_of_pos (by rw [h]; rfl), List.filterMap_cons_some h, List.map_cons, ih]
      exact congrArg (· :: _) (by rw [onLink, h]; rfl)

/-- Where nothing may be issued, data writes wait. -/
theorem drainOut_waits {e : Engine} (h : e.canIssue = false) (hw : ∀ w ∈ e.job.outQ, w.tlp = none) : e.drainOut = e := by
  have none : (e.job.outQ.filter fun w => w.tlp.isSome) = [] :=
    List.filter_eq_nil_iff.mpr fun w hm => by rw [hw w hm]; decide
  have all : (e.job.outQ.filter fun w => w.tlp.isNone) = e.job.outQ :=
    List.filter_eq_self.mpr fun w hm => by rw [hw w hm]; rfl
  rw [drainOut_shut h, none, all]
  rfl

/-- TLPs that wait behind data writes go where nothing may be issued. -/
theorem drainOut_tlps {e : Engine} (h : e.canIssue = false) :
    e.drainOut.tx = e.tx ++ e.job.outQ.filterMap (·.tlp) ∧ e.drainOut = { e with
      tx := e.drainOut.tx, job := { e.job with outQ := e.job.outQ.filter fun w => w.tlp.isNone }
      host := { e.host with pm := e.drainOut.host.pm, clkreq := e.drainOut.host.clkreq } } := by
  have hsend := sends_issues (e.job.outQ.filter fun w => w.tlp.isSome) e
  rw [onLink_tlps] at hsend
  rw [drainOut_shut h]
  refine ⟨hsend.tx, ?_⟩
  unfold Sends at hsend
  rw [hsend]

/-- The first element goes where the credits suffice for it, and the others behind it in order. -/
theorem drainOut_first {e : Engine} {w : OutWr} {t : List OutWr} (h : e.canIssue = true) (hq : e.job.outQ = w :: t)
    (hc : writeCost w.bytes.length ≤ e.host.credits) :
    (e.tx ++ [onLink e.idoReq w]) <+: e.drainOut.tx ∧ e.drainOut.job.outQ.length ≤ t.length ∧ e.drainOut.job.outQ <:+ t ∧
    e.drainOut.host.credits ≤ e.host.credits - writeCost w.bytes.length := by
  obtain ⟨k, hk⟩ : ∃ k, sendable e.host.credits (w :: t) = k + 1 :=
    ⟨_, by rw [sendable, if_pos hc, Nat.add_comm]⟩
  have hsend := sends_issues (w :: t.take k) e
  rw [drainOut_open h, hq, hk]
  dsimp only
  rw [List.take_succ_cons, List.drop_succ_cons]
  refine ⟨?_, by rw [List.length_drop]; omega, List.drop_suffix k t, ?_⟩
  · rw [hsend.tx, List.map_cons]
    exact ⟨(t.take k).map (onLink e.idoReq), by rw [List.append_assoc, List.singleton_append]⟩
  · rw [List.map_cons, List.sum_cons]
    omega

/-! ### The release of breakwater (R266, R298) -/

/-- The engine with the port on its way back to OPEN. -/
def releasing (e : Engine) : Engine := { e with host := { e.host with bw := .releasing } }

/-- The job in a slot that breakwater has frozen ends FAILED with cause 9, and its output is dropped. -/
def cutFrozen (e : Engine) (s : JobSlot) : Engine :=
  { e with job := { e.job with outQ := e.job.outQ.filter fun w => w.ring != s.ring } }.setEnt s.ring fun j =>
    { j with ended := some (6, 9) }

/-- Blocks of frozen slots are dropped, and the slots go on. -/
def thawed (e : Engine) : Engine :=
  { e with job := { e.job with
    decQ := e.job.decQ.filter fun d => !(e.slot d.slot).frozen, slots := e.job.slots.map fun s => { s with frozen := false } } }

theorem bwRelease_eq {e : Engine} (h : e.host.bw = .frozen) : e.bwRelease =
    let d := (((e.job.slots.filter (·.frozen)).foldl cutFrozen e.releasing).drainOut).thawed
    ((d.job.reads.filter (·.frozen)).foldl (fun e r => e.fetchErr r 9) d).released := by
  unfold bwRelease
  rw [if_neg (fun hne => hne h)]
  rfl

/-- Entry i owes the writeback of a job that breakwater has ended. -/
def Owes (i : Nat) (e : Engine) : Prop := (e.ent i).ended = some (6, 9) ∧ (e.ent i).wb = false

theorem Owes.of_ents {i : Nat} {e f : Engine} (h : Owes i e) (he : f.job.ents = e.job.ents) : Owes i f := by
  unfold Owes
  rw [ent_of_ents he]
  exact h

/-- A frozen slot leaves the entries of other jobs as they are. -/
theorem ent_cutFrozen_other {e : Engine} {s : JobSlot} {i : Nat} (h : i ≠ s.ring) : (e.cutFrozen s).ent i = e.ent i :=
  (ent_setEnt_other h _).trans (ent_of_ents rfl i)

theorem ent_cutFrozen_same {e : Engine} {s : JobSlot} (h : s.ring < e.job.ents.length) :
    (e.cutFrozen s).ent s.ring = { e.ent s.ring with ended := some (6, 9) } := ent_setEnt_same h _

theorem ents_cutFrozen_length (e : Engine) (s : JobSlot) : (e.cutFrozen s).job.ents.length = e.job.ents.length :=
  ents_setEnt_length _ _ _

theorem works_cutFrozen (e : Engine) (s : JobSlot) : Works e (e.cutFrozen s) := Eq.refl _

theorem works_thawed (e : Engine) : Works e e.thawed := Eq.refl _

/-- A frozen slot ends its own job and no writeback is taken back. -/
theorem cutFrozen_wb {e : Engine} {i : Nat} (hlen : i < e.job.ents.length) (hwb : (e.ent i).wb = false) (s : JobSlot) :
    ((e.cutFrozen s).ent i).wb = false ∧ (s.ring = i ∨ (e.ent i).ended = some (6, 9) → Owes i (e.cutFrozen s)) := by
  unfold Owes
  by_cases h : i = s.ring
  · subst h
    rw [ent_cutFrozen_same hlen]
    exact ⟨hwb, fun _ => ⟨rfl, hwb⟩⟩
  · rw [ent_cutFrozen_other h]
    exact ⟨hwb, fun hs => ⟨hs.resolve_left (Ne.symm h), hwb⟩⟩

/-- Once all frozen slots have been taken, the jobs in them owe their writebacks. -/
theorem owes_cutFrozen {i : Nat} (l : List JobSlot) : ∀ e : Engine, i < e.job.ents.length → (e.ent i).wb = false →
    (∃ x ∈ l, x.ring = i) ∨ (e.ent i).ended = some (6, 9) → Owes i (l.foldl cutFrozen e) := by
  induction l with
  | nil => exact fun e _ hwb h => ⟨h.resolve_left (by simp), hwb⟩
  | cons s t ih =>
    intro e hlen hwb h
    obtain ⟨hwb', howes⟩ := cutFrozen_wb hlen hwb s
    refine ih (e.cutFrozen s) (by rw [ents_cutFrozen_length]; exact hlen) hwb' ?_
    rcases h with ⟨x, hx, hring⟩ | hend
    · rcases List.mem_cons.mp hx with rfl | hx
      · exact Or.inr (howes (Or.inl hring)).1
      · exact Or.inl ⟨x, hx, hring⟩
    · exact Or.inr (howes (Or.inr hend)).1

/-- A failed read takes nothing of that back. -/
theorem owes_fetchErr {i : Nat} {e : Engine} (h : Owes i e) (r : JobRead) : Owes i (e.fetchErr r 9) := by
  obtain ⟨inside, outside⟩ := ent_fetchErr e r 9
  unfold Owes
  by_cases hi : i < r.first ∨ r.first + r.n ≤ i
  · rw [outside i hi, alone_keeps]
    exact h
  · obtain ⟨k, rfl⟩ := Nat.exists_eq_add_of_le (show r.first ≤ i by omega)
    obtain ⟨hend, hwb⟩ := failing_ended h.1 r.tag 9
    rw [inside k (by omega), alone_keeps]
    exact ⟨hend, hwb.trans h.2⟩

/-- The port does not open while a writeback is owed. -/
theorem released_owing {i : Nat} {e : Engine} (h : Owes i e) : e.released = e := by
  have hlen : i < e.job.ents.length := ent_in_ring fun he => by rw [Owes, he] at h; cases h.1
  unfold released
  rw [if_neg]
  rw [Bool.and_eq_true, List.all_eq_true]
  intro hall
  have hone := hall.2 (e.ent i) (ent_mem hlen)
  rw [h.1, h.2] at hone
  exact absurd hone (by decide)

/-- A release with a job frozen: the job ends, and the port waits for its writeback. -/
theorem bwRelease_owing {e : Engine} {x : JobSlot} (hbw : e.host.bw = .frozen) (hx : x ∈ e.job.slots) (hf : x.frozen = true)
    (hlen : x.ring < e.job.ents.length) (hwb : (e.ent x.ring).wb = false) :
    Owes x.ring e.bwRelease ∧ Works e.releasing e.bwRelease := by
  have hcut := owes_cutFrozen (i := x.ring) (e.job.slots.filter (·.frozen)) e.releasing hlen hwb
    (Or.inl ⟨x, List.mem_filter.mpr ⟨hx, hf⟩, rfl⟩)
  have hworks := works_foldl works_cutFrozen (e.job.slots.filter (·.frozen)) e.releasing
  rw [bwRelease_eq hbw]
  generalize (e.job.slots.filter (·.frozen)).foldl cutFrozen e.releasing = d at hcut hworks ⊢
  have howes : Owes x.ring (((d.drainOut).thawed.job.reads.filter (·.frozen)).foldl (fun e r => e.fetchErr r 9) d.drainOut.thawed) :=
    List.foldlRecOn (motive := Owes x.ring) _ _ (hcut.of_ents (drainOut_ents d)) fun f hf r _ => owes_fetchErr hf r
  dsimp only
  rw [released_owing howes]
  exact ⟨howes, ((hworks.trans (works_drainOut d)).trans (works_thawed _)).trans (works_foldl (fun e r => works_fetchErr e r 9) _ _)⟩

/-- With no slot frozen none has anything dropped. -/
theorem thawed_same {e : Engine} (h : ∀ x ∈ e.job.slots, x.frozen = false) : e.thawed = e := by
  have slots : (e.job.slots.map fun s => { s with frozen := false }) = e.job.slots := by
    refine (List.map_congr_left fun s hs => ?_).trans (List.map_id _)
    rw [← h s hs]
    rfl
  have slot (k : Nat) : (e.slot k).frozen = false := by
    rw [Engine.slot, List.getD_eq_getElem?_getD]
    cases hk : e.job.slots[k]? with
    | none => rfl
    | some x => exact h x (List.mem_of_getElem? hk)
  have decQ : (e.job.decQ.filter fun d => !(e.slot d.slot).frozen) = e.job.decQ :=
    List.filter_eq_self.mpr fun d _ => by rw [slot]; rfl
  unfold thawed
  rw [slots, decQ]

/-- A port that owes nothing opens at once. -/
theorem bwRelease_free {e : Engine} (hbw : e.host.bw = .frozen) (hq : e.job.outQ = []) (hs : ∀ x ∈ e.job.slots, x.frozen = false)
    (hr : ∀ x ∈ e.job.reads, x.frozen = false) (hj : ∀ j ∈ e.job.ents, j.wb = true ∨ j.ended ≠ some (6, 9)) :
    e.bwRelease = (({ e with host := { e.host with bw := .opened } } : Engine).istat 0x25 8).push 0xB 0x04 2 0 := by
  have slots : (e.job.slots.filter (·.frozen)) = [] := List.filter_eq_nil_iff.mpr fun x hx => by rw [hs x hx]; decide
  have reads : (e.releasing.job.reads.filter (·.frozen)) = [] := List.filter_eq_nil_iff.mpr fun x hx => by rw [hr x hx]; decide
  have free : (e.releasing.host.bw == .releasing && e.releasing.job.ents.all fun j => j.wb || j.ended != some (6, 9)) = true := by
    rw [Bool.and_eq_true, List.all_eq_true]
    exact ⟨rfl, fun j hm => by simpa using hj j hm⟩
  rw [bwRelease_eq hbw, slots, List.foldl_nil, drainOut_empty (e := e.releasing) hq, thawed_same (e := e.releasing) hs]
  dsimp only
  rw [reads, List.foldl_nil, released, if_pos free]
  rfl

end Engine

/-! ### The commands -/

theorem exec_jobWriteback (ring : Fin 64) (s : State) : exec (.jobWriteback ring) s = done s fun e =>
    if e.wbReady ring then e.writeback ring
    else if (e.ent ring).ended.isSome && !(e.ent ring).wb && e.canIssue then { e with job := { e.job with waitHost := true } }
    else e := rfl

section
variable {s : State} {ring : Fin 64}

theorem jobWriteback_issues (h : s.eng.wbReady ring = true) : Leaves (.jobWriteback ring) s (s.eng.writeback ring) :=
  leaves_of_done (exec_jobWriteback ring s) (if_pos h)

variable (h : s.eng.wbReady ring = false)
include h

theorem jobWriteback_waits (hend : (s.eng.ent ring).ended.isSome = true) (hwb : (s.eng.ent ring).wb = false)
    (hcan : s.eng.canIssue = true) :
    Leaves (.jobWriteback ring) s { s.eng with job := { s.eng.job with waitHost := true } } := by
  refine leaves_of_done (exec_jobWriteback ring s) ?_
  exact (if_neg (by rw [h]; decide)).trans (if_pos (by rw [hend, hwb, hcan]; rfl))

theorem jobWriteback_idles (hno : (s.eng.ent ring).ended = none ∨ (s.eng.ent ring).wb = true ∨ s.eng.canIssue = false) :
    Idles (.jobWriteback ring) s := by
  refine leaves_of_done (exec_jobWriteback ring s) ?_
  exact (if_neg (by rw [h]; decide)).trans (if_neg (by rcases hno with h | h | h <;> simp [h]))

end

theorem postedCreditsReturn_leaves (s : State) (n : Nat) : Leaves (.postedCreditsReturn n) s (s.eng.credited n).drainOut := rfl

/-- Settles O47: the writeback by whether it may be issued, the credits by whether the job engine may issue, and the release by
whether a job is frozen. -/
theorem jobsEndAndPortOpens : Obligations.JobsEndAndPortOpens := by
  refine ⟨fun s ring st cause hready hend hbw => ?_,
    fun s ring h => ⟨jobWriteback_waits h, jobWriteback_idles h⟩, fun s n h => ?_, fun s n h => ?_, fun s n w t h hq hc => ?_,
    fun s h => ?_, fun s x hacc hbw hx hf hlen hwb => ?_, fun s hacc hbw hq hs hr hj => ?_⟩
  · have h := Engine.putsOut_writeback hend hbw
    refine ⟨_, jobWriteback_issues hready, h.tx, h.credits, fun k _ => by rw [Engine.rd_eq, Engine.rd_eq, h.regs], h.time, h.sys,
      h.arriving, h.reads, h.tail, ⟨_, h.counted, rfl, rfl, rfl⟩, fun hhead hwb => ?_⟩
    obtain ⟨hh, hent, hother⟩ := Engine.writeback_behind hend hbw hhead hwb
    exact ⟨hh, congrArg JobEnt.wb hent, (congrArg JobEnt.st hent).trans (Engine.endState_eq st), hother⟩
  · have same : (s.eng.credited n).drainOut = s.eng.credited n := by
      rcases h with hq | ⟨hcan, hw⟩
      · exact Engine.drainOut_empty (e := s.eng.credited n) hq
      · exact Engine.drainOut_waits (e := s.eng.credited n) hcan hw
    have hl := postedCreditsReturn_leaves s n
    rw [same] at hl
    exact hl
  · exact ⟨_, postedCreditsReturn_leaves s n, Engine.drainOut_tlps (e := s.eng.credited n) h⟩
  · have hworks := Engine.works_drainOut (s.eng.credited n)
    obtain ⟨htx, hlen, hsuf, hcred⟩ := Engine.drainOut_first (e := s.eng.credited n) h hq hc
    exact ⟨_, postedCreditsReturn_leaves s n, htx, hlen, hsuf, hcred, hworks.regs, hworks.time, Engine.drainOut_ents _⟩
  · cases hacc : s.eng.access with
    | false => exact idles_guarded (·.access) Engine.bwRelease rfl hacc
    | true =>
      have stays : s.eng.bwRelease = s.eng := if_pos (h.resolve_left (by rw [hacc]; decide))
      have hl := leaves_guarded (s := s) (c := .breakwaterRelease) (·.access) Engine.bwRelease rfl hacc
      rw [stays] at hl
      exact hl
  · obtain ⟨⟨hend, -⟩, hworks⟩ := Engine.bwRelease_owing hbw hx hf hlen hwb
    exact does_guarded (·.access) Engine.bwRelease rfl hacc
      ⟨hworks.bw, hend, fun k _ => hworks.rd k, hworks.arriving, hworks.time, hworks.sys⟩
  · refine does_guarded (·.access) Engine.bwRelease rfl hacc ?_
    rw [Engine.bwRelease_free hbw hq hs hr hj]
    exact ⟨Engine.rd_istat_same _ 0x25 8, Engine.regsKept_istat _ 0x25 8, (Engine.onlyRegs_istat _ 0x25 8).push 0xB 0x04 2 0⟩

end Sys2Proof.Machine
end

section
/-! PROOF. O8: what follows from a command at once is what the host port says, and the notice. -/

namespace Sys2Proof.Machine

namespace Engine

/-- A TLP that waits behind posted writes (R284). -/
def behind (t : Tx) : OutWr := { ring := 64, addr := 0, bytes := [], upTo := 0, tlp := some t }

/-- b is a after out has been put out on the link, and wait has been put behind the posted writes that wait for credit. -/
def Says (out wait : List Tx) (a b : Engine) : Prop := b = { a with
  tx := a.tx ++ out
  job := { a.job with outQ := a.job.outQ ++ wait.map behind }
  host := { a.host with pm := b.host.pm, clkreq := b.host.clkreq } }

theorem says_nothing (e : Engine) : Says [] [] e e := by
  unfold Says
  rw [List.append_nil, List.map_nil, List.append_nil]

theorem Says.trans {out out' wait wait' : List Tx} {a b c : Engine} (h : Says out wait a b) (h' : Says out' wait' b c) :
    Says (out ++ out') (wait ++ wait') a c := by
  unfold Says at h h' ⊢
  rw [h] at h'
  rw [h', List.map_append, List.append_assoc, List.append_assoc]

theorem Says.outQ {out wait : List Tx} {a b : Engine} (h : Says out wait a b) :
    b.job.outQ = a.job.outQ ++ wait.map behind := by rw [h]

theorem says_emit (e : Engine) (t : Tx) : Says [t] [] e (e.emit t) := by
  have h := sends_emit e t
  unfold Sends at h
  unfold Says
  rw [h, List.map_nil, List.append_nil]

/-- A TLP waits only where something waits before it. -/
theorem outQ_of_waits {e : Engine} {t : Tx} (h : e.waits t = true) : e.job.outQ ≠ [] := fun hq => by
  unfold waits at h
  rw [hq] at h
  simp at h

theorem says_behind {e : Engine} {t : Tx} (h : e.waits t = true) : Says [] [t] e (e.send t) := by
  unfold send
  rw [if_pos h]
  unfold Says linkWake
  rw [List.append_nil]
  split <;> rfl

/-- What is transmitted in order is put out, or waits; it waits only where something waits before it. -/
theorem says_sends (l : List Tx) : ∀ e : Engine, ∃ out wait, Says out wait e (l.foldl send e) ∧
    (e.job.outQ = [] → wait = []) ∧ ∀ x ∈ out ++ wait, x ∈ l := by
  induction l with
  | nil => exact fun e => ⟨[], [], says_nothing e, fun _ => rfl, fun _ h => h⟩
  | cons t l ih =>
    intro e
    obtain ⟨out, wait, rest, hq, hmem⟩ := ih (e.send t)
    rw [List.foldl_cons]
    cases h : e.waits t with
    | true =>
      refine ⟨[] ++ out, [t] ++ wait, (says_behind h).trans rest, fun hnil => absurd hnil (outQ_of_waits h), fun x hx => ?_⟩
      rw [List.nil_append, List.mem_append, List.singleton_append, List.mem_cons] at hx
      rcases hx with hx | rfl | hx
      · exact List.mem_cons_of_mem t (hmem x (List.mem_append_left wait hx))
      · exact List.mem_cons_self
      · exact List.mem_cons_of_mem t (hmem x (List.mem_append_right out hx))
    | false =>
      have put : Says [t] [] e (e.send t) := by
        unfold send
        rw [if_neg (by rw [h]; decide)]
        exact says_emit e t
      refine ⟨[t] ++ out, [] ++ wait, put.trans rest, fun hnil => hq (by rw [put.outQ, hnil]; rfl), fun x hx => ?_⟩
      rw [List.nil_append, List.append_assoc, List.singleton_append, List.mem_cons] at hx
      exact List.mem_cons.mpr (hx.imp_right (hmem x))

theorem intxMsg_kind {e : Engine} {fn : Nat} {cur : Bool} {x : Tx} (h : x ∈ e.intxMsg fn cur) :
    x = .assertIntx fn ∨ x = .deassertIntx fn := by
  unfold intxMsg at h
  split at h
  · cases h
  · split at h
    · exact Or.inl (List.mem_singleton.mp h)
    · split at h
      · exact Or.inr (List.mem_singleton.mp h)
      · cases h

theorem ltrMsg_kind {e : Engine} {x : Tx} (h : x ∈ e.ltrMsg) : ∃ w, x = .ltr w := by
  unfold ltrMsg at h
  split at h
  · exact ⟨_, List.mem_singleton.mp h⟩
  · cases h

/-- The engine says INTx messages and LTR messages of its own accord, no others (R286, R293). -/
theorem spoken_kind {e : Engine} {x : Tx} (h : x ∈ e.spoken) :
    (∃ fn, x = .assertIntx fn) ∨ (∃ fn, x = .deassertIntx fn) ∨ ∃ w, x = .ltr w := by
  have intx {fn : Nat} {cur : Bool} (h : x ∈ e.intxMsg fn cur) :
      (∃ fn, x = .assertIntx fn) ∨ (∃ fn, x = .deassertIntx fn) ∨ ∃ w, x = .ltr w :=
    (intxMsg_kind h).imp (fun h => ⟨fn, h⟩) fun h => Or.inl ⟨fn, h⟩
  unfold spoken at h
  rw [List.mem_append, List.mem_append] at h
  rcases h with (h | h) | h
  · exact intx h
  · exact intx h
  · exact Or.inr (Or.inr (ltrMsg_kind h))

/-- What follows at once beside the messages: what the host port has said, and the notice. -/
theorem Says.settle {out wait : List Tx} {e : Engine} (h : Says out wait e (e.spoken.foldl send e)) : e.settle = { e with
    tx := e.tx ++ out
    job := { e.job with outQ := e.job.outQ ++ wait.map behind }
    host := { e.host with pm := e.settle.host.pm, clkreq := e.settle.host.clkreq, inta := e.settle.host.inta,
                          intb := e.settle.host.intb, msgs := e.settle.host.msgs, ltrOn := e.settle.host.ltrOn,
                          ltrAct := e.settle.host.ltrAct }
    i2c := { e.i2c with cond := e.settle.i2c.cond, due := e.settle.i2c.due } } := by
  unfold Engine.settle
  dsimp only
  generalize e.spoken.foldl send e = d at h ⊢
  unfold Says at h
  rw [h]

end Engine

/-- Settles O8: each message is put out, or waits where something waits before it; the rest of what follows is the host port's
own account and the notice. -/
theorem settleKeepsTheRest : Obligations.SettleKeepsTheRest := by
  intro e
  obtain ⟨out, wait, hsays, hq, hmem⟩ := Engine.says_sends e.spoken e
  exact ⟨out, wait, hsays.settle, hq, fun x hx => Engine.spoken_kind (hmem x hx)⟩

end Sys2Proof.Machine
end

section
/-! SUPPORT. TLPs that reach a function: what their arrival leaves, how far what they ask for comes, the way that an answer
takes, and what a malformed one and an error of the link leave. -/

namespace Sys2Proof.Machine

namespace Engine

/-! ### The arrival of a TLP (R63, R291) -/

/-- f is e after a TLP has been heard: at most SYS_WAKE_SRC, the link, and the way up from DOZE have changed. -/
def Stirred (e f : Engine) : Prop := RegsKept [R.SYS_WAKE_SRC] e f ∧
  f = { e with regs := f.regs, host := f.host, sys := f.sys, clk := f.clk, pwr := f.pwr }

theorem Stirred.trans {e f g : Engine} (h : Stirred e f) (h' : Stirred f g) : Stirred e g := by
  obtain ⟨hr, hf⟩ := h
  obtain ⟨hr', hg⟩ := h'
  refine ⟨fun k hk => (hr' k hk).trans (hr k hk), ?_⟩
  rw [hf] at hg
  exact hg

theorem Heard.stirred {e f : Engine} (h : Heard e f) : Stirred e f := ⟨h.1, by rw [h.2]⟩

theorem Stirred.time {e f : Engine} (h : Stirred e f) : f.time = e.time := by rw [h.2]
theorem Stirred.cyc {e f : Engine} (h : Stirred e f) : f.cyc = e.cyc := by rw [h.2]
theorem Stirred.rd {e f : Engine} (h : Stirred e f) {k : Nat} (hk : k ≠ R.SYS_WAKE_SRC) : f.rd k = e.rd k :=
  h.1 k (by simpa using hk)

/-- A wake from DOZE begins. -/
theorem stirred_recognise {e : Engine} (h : e.sys.mode ≠ .hibernate) (i : Nat) : Stirred e (e.recognise i) := by
  have known : e.recognise i = _ := if_neg (by rw [wr_sys, beq_iff_eq]; exact h)
  rw [known, railsDozeUp_eq]
  exact ⟨fun k hk => regsKept_wr e R.SYS_WAKE_SRC (w32 (2 ^ i)) k hk, rfl⟩

/-- In HIBERNATE the host port is no wake source (R63). -/
theorem awake_of_works {e : Engine} (h : e.wakeWorks e.sys.mode 6 = true) : e.sys.mode ≠ .hibernate := fun hm => by
  unfold wakeWorks at h
  rw [hm] at h
  simp at h

/-- The host port as a wake source. -/
theorem stirred_wakeSource (e : Engine) : Stirred e (e.wakeSource 6) := by
  unfold wakeSource
  split
  next sleeps =>
    split
    next works =>
      split
      next => exact stirred_recognise (awake_of_works works) 6
      next =>
        split
        · exact (heard_wr_wakeSrc e _).stirred
        · exact (Heard.rfl e).stirred
    next idle => exact (Heard.rfl e).stirred
  next awake =>
    split
    next t _ =>
      split
      · obtain ⟨hr, he⟩ := heard_wr_wakeSrc e (if t.woken then e.rd R.SYS_WAKE_SRC ||| w32 (2 ^ 6) else w32 (2 ^ 6))
        exact ⟨hr, by rw [he]⟩
      · exact (Heard.rfl e).stirred
    next => exact (Heard.rfl e).stirred

theorem stirred_arrives (e : Engine) : Stirred e e.arrives := by
  unfold arrives
  dsimp only
  split
  · exact (heard_linkWake e).stirred.trans (stirred_wakeSource e.linkWake)
  · exact (heard_linkWake e).stirred

/-! ### The way of an answer (R284) -/

/-- TLPs go the same way after b as after a: out on the link, or behind the posted writes that wait. -/
def SamePath (a b : Engine) : Prop := ∀ t, b.waits t = a.waits t

theorem SamePath.rfl {a : Engine} : SamePath a a := fun _ => Eq.refl _

theorem SamePath.trans {a b c : Engine} (h : SamePath a b) (h' : SamePath b c) : SamePath a c := fun t => (h' t).trans (h t)

theorem SamePath.ite {a b c : Engine} {p : Prop} [Decidable p] (h : SamePath a b) (h' : SamePath a c) :
    SamePath a (if p then b else c) := by
  split
  · exact h
  · exact h'

/-- It depends on what lets the engine issue requests, and on whether posted writes wait. -/
theorem samePath_of {a b : Engine} (hcan : b.canIssue = a.canIssue) (hq : b.job.outQ.isEmpty = a.job.outQ.isEmpty) : SamePath a b := by
  intro t
  unfold waits
  rw [hcan, hq]

/-- Bus Master Enable and the power state decide of the registers. -/
theorem samePath_regs {a b : Engine} (h : OnlyRegs a b) (hbme : b.bme = a.bme) (hpm : b.cfg 0 0x44 = a.cfg 0 0x44) : SamePath a b := by
  have hhost : b.host = a.host := by rw [h]; rfl
  have hjob : b.job = a.job := by rw [h]; rfl
  refine samePath_of ?_ (by rw [hjob])
  unfold canIssue d3
  rw [hbme, hpm, hhost]

theorem samePath_kept {ks : List Nat} {a b : Engine} (h : OnlyRegs a b) (hr : RegsKept ks a b)
    (hk : cfgKey 0 0x04 ∉ ks ∧ cfgKey 0 0x44 ∉ ks) : SamePath a b :=
  samePath_regs h (congrArg (fun w => bit w 2) (hr _ hk.1)) (hr _ hk.2)

/-- A bit of Command and Status other than Bus Master Enable is set. -/
theorem samePath_command (e : Engine) {m : Word} (hm : bit m 2 = false) : SamePath e (e.hwSet (cfgKey 0 0x04) m) := by
  refine samePath_regs (onlyRegs_hwSet e _ m) ?_ (rd_hwSet_other _ _ _ _ (by decide))
  unfold bme cfg
  rw [rd_hwSet_same]
  unfold bit at *
  rw [BitVec.getLsbD_or, hm, Bool.or_false]

theorem linkWake_canIssue (e : Engine) : e.linkWake.canIssue = e.canIssue := by
  unfold linkWake
  split <;> rfl

theorem samePath_send (e : Engine) (t : Tx) : SamePath e (e.send t) := by
  unfold send
  split
  next h =>
    refine samePath_of (linkWake_canIssue e) ?_
    have waiting : e.job.outQ.isEmpty = false := by
      unfold waits at h
      simp only [Bool.and_eq_true, Bool.not_eq_true'] at h
      exact h.2
    rw [waiting]
    exact List.isEmpty_eq_false_iff.mpr (List.append_ne_nil_of_right_ne_nil _ (List.cons_ne_nil _ _))
  next =>
    unfold emit
    split
    · exact samePath_of (linkWake_canIssue e) (by rw [← linkWake_job e])
    · exact samePath_of (Eq.refl _) (Eq.refl _)

theorem samePath_headers (e : Engine) (n : Nat) : SamePath e { e with host := { e.host with headers := n } } :=
  samePath_of (Eq.refl _) (Eq.refl _)

theorem samePath_lastErr (e : Engine) (fn : Nat) (x : PciErr) : SamePath e (e.lastErr fn x) := by
  have kept (w : Word) : SamePath e { e with host := { e.host with lastErr := w } } := samePath_of (Eq.refl _) (Eq.refl _)
  rw [lastErr_eq]
  exact (kept _).trans (samePath_kept (onlyRegs_istat _ 0x25 32) (regsKept_istat _ 0x25 32) (by decide))

theorem samePath_headerLog (e : Engine) : SamePath e (e.headerLog 0) := by
  unfold headerLog
  extract_lets h e1
  have h1 : SamePath e e1 := List.foldlRecOn (motive := SamePath e) _ _ SamePath.rfl fun f hf i hi => hf.trans <| by
    have range : ∀ i ∈ [0, 1, 2, 3],
        cfgKey 0 0x04 ∉ [cfgKey 0 (0x11C + 4 * i)] ∧ cfgKey 0 0x44 ∉ [cfgKey 0 (0x11C + 4 * i)] := by decide
    exact samePath_kept (onlyRegs_wr f _ _) (regsKept_wr f _ _) (range i hi)
  exact h1.trans (samePath_headers e1 _)

/-- What is noted of an error sets no bit that lets requests be issued. -/
theorem samePath_aer (e : Engine) (x : PciErr) (advisory : Bool) : SamePath e (e.aer 0 x advisory) := by
  have noted (f : Engine) {k : Nat} (m : Word) (hk : cfgKey 0 0x04 ∉ [k] ∧ cfgKey 0 0x44 ∉ [k]) : SamePath f (f.hwSet k m) :=
    samePath_kept (onlyRegs_hwSet f k m) (regsKept_hwSet f k m) hk
  unfold aer
  extract_lets b fatal masked first e1 e2 e3 e4 e5 e6 e7 e8
  have h1 : SamePath e e1 := noted e _ (by decide)
  have h2 : SamePath e e2 := SamePath.ite (h1.trans (samePath_kept (onlyRegs_wr e1 _ _) (regsKept_wr e1 _ _) (by decide))) h1
  have h3 : SamePath e e3 := SamePath.ite (h2.trans (samePath_headerLog e2)) h2
  have h4 : SamePath e e4 := SamePath.ite (h3.trans (noted e3 _ (by decide))) h3
  have h5 : SamePath e e5 := (h4.trans (noted e4 _ (by decide))).trans (noted _ _ (by decide))
  have h6 : SamePath e e6 := h5.trans (samePath_kept (onlyRegs_count e5 _) (regsKept_count e5 _) (by decide))
  have h7 : SamePath e e7 := h4.trans (noted e4 _ (by decide))
  have h8 : SamePath e e8 := SamePath.ite (h7.trans (samePath_command e7 (by decide))) h7
  exact SamePath.ite (SamePath.ite (h6.trans (samePath_send e6 _)) h6) (SamePath.ite (h8.trans (samePath_send e8 _)) h8)

/-- What is sent last stands last, on the link or behind the posted writes. -/
theorem SamePath.answers {e f : Engine} (h : SamePath e f) (t : Tx) : Answers e (f.send t) t := by
  unfold Answers send
  rw [← h t]
  split
  next => simp
  next =>
    rw [(sends_emit f t).tx]
    exact List.getLast?_concat

/-- A request that function 0 does not support is answered so. -/
theorem answers_refuse_ur (e : Engine) : Answers e (e.refuse 0 .ur .unsupported) (.completion 0 .unsupported [] false false) := by
  rw [refuse_ur]
  have counted : SamePath e ((e.count R.HOST_UR_CNT).estat 0x25 8) :=
    (samePath_kept (onlyRegs_count e _) (regsKept_count e _) (by decide)).trans
      (samePath_kept (onlyRegs_estat _ 0x25 8) (regsKept_estat _ 0x25 8) (by decide))
  have noted := counted.trans (samePath_aer _ .ur true)
  exact (noted.trans (samePath_lastErr _ 0 .ur)).answers _

/-! ### A malformed TLP, and errors of the link (R296) -/

/-- A malformed TLP freezes an open port where it is enabled as a cause. -/
theorem breakwater_malformed (e : Engine) : e.breakwater .malformed =
    if e.rb R.HOST_BW_CTL 2 && e.host.bw == .opened then ((e.frozenBy .malformed).istat 0x25 4).push 0xB 0x03 0 3 else e := rfl

/-- Either way the last error, the time and the mode stay, and no register changes but the interrupt. -/
theorem breakwater_malformed_keeps (e : Engine) : (e.breakwater .malformed).host.lastErr = e.host.lastErr ∧
    RegsKept [istatKey 0x25] e (e.breakwater .malformed) ∧ (e.breakwater .malformed).time = e.time ∧
    (e.breakwater .malformed).sys = e.sys := by
  rw [breakwater_malformed]
  split
  · exact ⟨rfl, fun k hk => (rd_push _ _ _ _ _ k).trans (regsKept_istat (e.frozenBy .malformed) 0x25 4 k hk), rfl, rfl⟩
  · exact ⟨rfl, fun _ _ => rfl, rfl, rfl⟩

theorem hostErr_malformed (fn : Nat) (e : Engine) : e.hostErr fn .malformed false =
    (((e.estat 0x25 4).aer fn .malformed false).lastErr fn .malformed).breakwater .malformed := rfl

theorem malformed_hostErr (fn : Nat) (e : Engine) :
    (e.hostErr fn .malformed false).host.lastErr = w32 (2 ^ 31 + fn * 2 ^ 28 + 5 * 2 ^ 24 + e.time.tb.toNat % 2 ^ 24) ∧
    (e.hostErr fn .malformed false).rd (estatKey 0x25) = e.rd (estatKey 0x25) ||| 4#32 ∧
    (e.hostErr fn .malformed false).time = e.time ∧ (e.hostErr fn .malformed false).sys = e.sys := by
  rw [hostErr_malformed]
  obtain ⟨hrd, htold⟩ := reports_aer fn (e.estat 0x25 4) .malformed
  replace htold := (onlyRegs_estat e 0x25 4).told.trans htold
  generalize (e.estat 0x25 4).aer fn .malformed false = f at hrd htold ⊢
  obtain ⟨hlast, hkept, htime, hsys⟩ := breakwater_malformed_keeps (f.lastErr fn .malformed)
  have htold' := htold.trans (told_lastErr f fn .malformed)
  refine ⟨?_, ?_, htime.trans htold'.time, hsys.trans htold'.sys⟩
  · rw [hlast, lastErr_host, htold.time]
    rfl
  · rw [hkept _ (by decide), rd_lastErr_other _ _ _ (by decide), hrd _ fun off _ => ne_cfgKey (by decide) fn off, rd_estat_same]
    rfl

/-- A correctable error as it is counted, before it is told. -/
def corrNoted (e : Engine) (b : Nat) : Engine :=
  ((e.hwSet (cfgKey 0 0x110) (w32 (2 ^ b))).hwSet (cfgKey 0 0x58) (w32 (2 ^ 16))).count R.HOST_CORR_CNT

theorem corrErr_told (e : Engine) (b : Nat) : (∀ k, (e.corrErr b).rd k = (e.corrNoted b).rd k) ∧
    (e.corrErr b).time = e.time ∧ (e.corrErr b).sys = e.sys := by
  have hnoted : Told e (e.corrNoted b) :=
    (((onlyRegs_hwSet e _ _).trans (onlyRegs_hwSet _ _ _)).trans (onlyRegs_count _ _)).told
  have htold : Told e ((e.corrNoted b).send (.errMsg 0 0)) := hnoted.trans (told_send _ _)
  unfold corrErr
  dsimp only
  split
  · exact ⟨fun k => rd_send (e.corrNoted b) _ k, htold.time, htold.sys⟩
  · exact ⟨fun _ => rfl, hnoted.time, hnoted.sys⟩

theorem rd_corrNoted (e : Engine) (b : Nat) :
    (e.corrNoted b).rd R.HOST_CORR_CNT = bump16 (e.rd R.HOST_CORR_CNT) ∧
    (e.corrNoted b).rd (cfgKey 0 0x110) = e.rd (cfgKey 0 0x110) ||| w32 (2 ^ b) ∧
    (e.corrNoted b).rd (cfgKey 0 0x58) = e.rd (cfgKey 0 0x58) ||| 0x10000#32 ∧
    RegsKept [R.HOST_CORR_CNT, cfgKey 0 0x110, cfgKey 0 0x58] e (e.corrNoted b) := by
  unfold corrNoted
  refine ⟨?_, ?_, ?_, fun j hj => ?_⟩
  · simp (disch := decide) only [rd_count_same, rd_hwSet_other]
  · simp (disch := decide) only [rd_count_other, rd_hwSet_same, rd_hwSet_other]
  · simp (disch := decide) only [rd_count_other, rd_hwSet_same, rd_hwSet_other]
    rfl
  · simp only [List.mem_cons, List.not_mem_nil, or_false, not_or] at hj
    obtain ⟨hcnt, haer, hdev⟩ := hj
    rw [rd_count_other _ _ _ hcnt, rd_hwSet_other _ _ _ _ hdev, rd_hwSet_other _ _ _ _ haer]

end Engine

/-! ### What a TLP asks for (R284) -/

section
variable {c : Instr} {s : State} {p : Port} {w : Work} (hc : exec c s = doneS (s.tlp p w))
include hc

theorem idles_tlp (hdown : s.eng.host.up = false) : Idles c s :=
  hc.trans (by rw [State.tlp, if_neg (by rw [hdown]; decide)]; rfl)

variable (hup : s.eng.host.up = true)
include hup

theorem queues_tlp : Queues c s s.eng.arrives p w := by
  intro hf
  refine hc.trans ?_
  rw [State.tlp, if_pos hup, State.submit, if_neg (by rw [hf]; decide)]
  rfl

/-- What is first of its port, and is done at once. -/
theorem leaves_tlp (hf : s.eng.arrives.portFirst p = true) {f : Engine}
    (hr : { s with eng := s.eng.arrives }.run { port := p, auth := s.eng.arrives.auth (portCode p), work := w } =
      ({ s with eng := f }, none)) : Leaves c s f := by
  refine hc.trans ?_
  rw [State.tlp, if_pos hup, State.submit, if_pos hf]
  dsimp only
  rw [hr]
  rfl

end

end Sys2Proof.Machine
end

section
/-! PROOF. O49: configuration requests and messages. -/

namespace Sys2Proof.Machine

namespace Engine

/-! ### A configuration request (R271 to R274, R279) -/

theorem configRequest_prefixed {q : CfgReq} (hp : q.tlpPrefix = true) (hfn : q.fn < 2) (e : Engine) :
    e.configRequest q = e.hostErr q.fn .malformed false := by
  unfold configRequest
  rw [if_pos hp, if_neg (by omega)]

theorem configRequest_nowhere {q : CfgReq} (hp : q.tlpPrefix = false) (h : q.type1 = true ∨ 2 ≤ q.fn) (e : Engine) :
    e.configRequest q = e.refuse 0 .ur .unsupported := by
  unfold configRequest
  rw [if_neg (by rw [hp]; decide), if_pos (by simpa using h)]

section
variable {q : CfgReq} (hp : q.tlpPrefix = false) (ht : q.type1 = false) (hfn : q.fn < 2) (e : Engine)
include hp ht hfn

theorem configRequest_read (hd : q.data = none) :
    e.configRequest q = e.complete q.fn .success [e.cfgView q.fn (q.off % 4096 / 4 * 4)] := by
  unfold configRequest
  rw [if_neg (by rw [hp]; decide), if_neg (by simp [ht, hfn]), hd]

theorem configRequest_write {v : Word} (hd : q.data = some v) :
    e.configRequest q = (e.cfgWrite q.fn (q.off % 4096 / 4 * 4) q.be v).complete q.fn .success [] := by
  unfold configRequest
  rw [if_neg (by rw [hp]; decide), if_neg (by simp [ht, hfn]), hd]

end

theorem cfgWrite_nothing {fn off : Nat} (h : cfgRow? fn off = none) (e : Engine) (be : BitVec 4) (v : Word) :
    e.cfgWrite fn off be v = e := by
  unfold cfgWrite
  rw [h]

/-- The register of a configuration write as it is stored. -/
def cfgStored (e : Engine) (fn off : Nat) (r : CfgRow) (be : BitVec 4) (v : Word) : Engine :=
  (e.wr (cfgKey fn off) (cfgSanitize off (e.rd (cfgKey fn off)) (merge (r.mask &&& beMask be) (e.rd (cfgKey fn off)) v))).w1c
    (cfgKey fn off) (v &&& beMask be &&& r.w1c)

/-- When each function has last sent PM_PME, after a write that has left w in a register (R290). -/
def pmeAfter (e : Engine) (fn off : Nat) (w : Word) : List (Option Nat) :=
  if off = 0x44 ∧ bit w 15 = false then upd e.host.pmeAt fn fun _ => none else e.host.pmeAt

theorem onlyRegs_cfgStored (e : Engine) (fn off : Nat) (r : CfgRow) (be : BitVec 4) (v : Word) :
    OnlyRegs e (e.cfgStored fn off r be v) := (onlyRegs_wr e _ _).trans (onlyRegs_w1c _ _ _)

theorem regsKept_cfgStored (e : Engine) (fn off : Nat) (r : CfgRow) (be : BitVec 4) (v : Word) :
    RegsKept [cfgKey fn off] e (e.cfgStored fn off r be v) := fun k hk => by
  have hne : k ≠ cfgKey fn off := by simpa using hk
  rw [cfgStored, rd_w1c_other _ _ _ _ hne, rd_wr_other _ _ _ _ hne]

theorem rd_cfgStored {e : Engine} {fn off : Nat} (h : ∀ x ∈ e.cyc.sets, x.1 ≠ cfgKey fn off) (r : CfgRow) (be : BitVec 4) (v : Word) :
    (e.cfgStored fn off r be v).rd (cfgKey fn off) =
      cfgSanitize off (e.rd (cfgKey fn off)) (merge (r.mask &&& beMask be) (e.rd (cfgKey fn off)) v) &&&
        ~~~(v &&& beMask be &&& r.w1c) := by
  rw [cfgStored, rd_w1c_unset (by rw [wr_cyc]; exact h), rd_wr_same]

section
variable {fn off : Nat} {r : CfgRow} (hrow : cfgRow? fn off = some r) (hoff : off ≠ 0x58) (e : Engine) (be : BitVec 4) (v : Word)
include hrow hoff

/-- A write other than to Device Control stores the register, and may forget the last PM_PME. -/
theorem cfgWrite_stores : e.cfgWrite fn off be v = { e.cfgStored fn off r be v with
    host := { e.host with pmeAt := e.pmeAfter fn off ((e.cfgStored fn off r be v).rd (cfgKey fn off)) } } := by
  have hhost : (e.cfgStored fn off r be v).host = e.host := by rw [onlyRegs_cfgStored]; rfl
  have hw : e.cfgWrite fn off be v =
      if off = 0x44 ∧ bit ((e.cfgStored fn off r be v).rd (cfgKey fn off)) 15 = false then
        { e.cfgStored fn off r be v with host.pmeAt := upd (e.cfgStored fn off r be v).host.pmeAt fn fun _ => none }
      else e.cfgStored fn off r be v := by
    unfold cfgWrite
    rw [hrow]
    exact if_neg fun h => hoff h.1
  rw [hw, pmeAfter]
  generalize e.cfgStored fn off r be v = d at hhost ⊢
  split
  · simp only [hhost]
  · rw [← hhost]

/-- What a configuration write leaves. -/
theorem cfgWrite_keeps (hsets : ∀ x ∈ e.cyc.sets, x.1 ≠ cfgKey fn off) :
    let x := e.cfgWrite fn off be v
    x.rd (cfgKey fn off) = cfgSanitize off (e.rd (cfgKey fn off)) (merge (r.mask &&& beMask be) (e.rd (cfgKey fn off)) v) &&&
      ~~~(v &&& beMask be &&& r.w1c) ∧
    RegsKept [cfgKey fn off] e x ∧
    x = { e.marked x with host := { e.host with pmeAt := e.pmeAfter fn off (x.rd (cfgKey fn off)) } } := by
  have hregs := onlyRegs_cfgStored e fn off r be v
  have hkept := regsKept_cfgStored e fn off r be v
  have hrd := rd_cfgStored hsets r be v
  dsimp only
  rw [cfgWrite_stores hrow hoff e be v]
  generalize e.cfgStored fn off r be v = d at hregs hkept hrd ⊢
  refine ⟨hrd, hkept, ?_⟩
  unfold OnlyRegs at hregs
  rw [hregs]
  rfl

end

end Engine

/-! ### The commands -/

theorem exec_configurationRequest_nowhere {s : State} {q : CfgReq} (h : q.type1 = true ∨ 2 ≤ q.fn) :
    exec (.configurationRequest q) s =
      doneS (if s.eng.host.up then { s with eng := s.eng.arrives.configRequest q } else s) :=
  congrArg doneS (if_pos (by simpa using h))

theorem exec_configurationRequest {s : State} {q : CfgReq} (ht : q.type1 = false) (hfn : q.fn < 2) :
    exec (.configurationRequest q) s = doneS (s.tlp (fnPort q.fn) (.cfg q)) :=
  congrArg doneS (if_neg (by simp [ht, hfn]))

theorem exec_messageReceived_error (s : State) (fn : Fin 2) (x : RxErr) :
    exec (.messageReceived fn (.error x)) s = doneS (if s.eng.host.up then { s with eng := s.eng.rxErr fn.val x } else s) := rfl

theorem exec_messageReceived {s : State} {fn : Fin 2} {m : Msg} (h : ∀ x, m ≠ .error x) :
    exec (.messageReceived fn m) s = doneS (s.tlp (fnPort fn.val) (.msg fn.val m)) := by
  cases m with
  | error x => exact absurd rfl (h x)
  | vendorType0 => rfl
  | vendorType1 => rfl
  | prefixed => rfl
  | other => rfl

/-- What is asked for in this cycle is served in it. -/
theorem State.run_cfg (s : State) (p : Port) (auth : List Bool) (q : CfgReq) :
    s.run { port := p, auth := auth, work := .cfg q } = ({ s with eng := s.eng.configRequest q }, none) := by
  unfold run
  dsimp only
  rw [if_neg (Nat.not_lt_zero _)]
  by_cases h : 0 = s.eng.time.now
  · rw [if_pos h]
  · rw [if_neg h]

theorem State.run_msg (s : State) (p : Port) (auth : List Bool) (fn : Nat) (m : Msg) :
    s.run { port := p, auth := auth, work := .msg fn m } = ({ s with eng := s.eng.message fn m }, none) := by
  unfold run
  dsimp only
  rw [if_neg (Nat.not_lt_zero _)]
  by_cases h : 0 = s.eng.time.now
  · rw [if_pos h]
  · rw [if_neg h]

theorem idles_down {s : State} (h : s.eng.host.up = false) (q : CfgReq) (fn : Fin 2) (m : Msg) :
    Idles (.configurationRequest q) s ∧ Idles (.messageReceived fn m) s := by
  have down : ¬s.eng.host.up = true := by rw [h]; decide
  constructor
  · by_cases hq : q.type1 = true ∨ 2 ≤ q.fn
    · exact (exec_configurationRequest_nowhere hq).trans (by rw [if_neg down]; rfl)
    · rw [not_or, Bool.not_eq_true, Nat.not_le] at hq
      exact idles_tlp (exec_configurationRequest hq.1 hq.2) h
  · by_cases hm : ∃ x, m = .error x
    · obtain ⟨x, rfl⟩ := hm
      exact (exec_messageReceived_error s fn x).trans (by rw [if_neg down]; rfl)
    · exact idles_tlp (exec_messageReceived (not_exists.mp hm)) h

/-- What a malformed TLP leaves, against the state before its arrival. -/
theorem malformed_arrives (s : State) (fn : Nat) :
    let f := s.eng.arrives.hostErr fn .malformed false
    f.host.lastErr = w32 (2 ^ 31 + fn * 2 ^ 28 + 5 * 2 ^ 24 + s.eng.time.tb.toNat % 2 ^ 24) ∧
    f.rd (estatKey 0x25) = s.eng.rd (estatKey 0x25) ||| 4#32 ∧ f.time = s.eng.arrives.time ∧ f.sys = s.eng.arrives.sys := by
  have hs := Engine.stirred_arrives s.eng
  have h := Engine.malformed_hostErr fn s.eng.arrives
  rw [show s.eng.arrives.time.tb = s.eng.time.tb by rw [hs.time], hs.rd (by decide)] at h
  exact h

section
variable {s : State} (hup : s.eng.host.up = true)
include hup

/-- A configuration request whose turn has come is done at once. -/
theorem leaves_configRequest {q : CfgReq} (ht : q.type1 = false) (hfn : q.fn < 2) (hf : s.eng.arrives.portFirst (fnPort q.fn) = true) :
    Leaves (.configurationRequest q) s (s.eng.arrives.configRequest q) :=
  leaves_tlp (exec_configurationRequest ht hfn) hup hf (State.run_cfg _ _ _ q)

/-- So is a message. -/
theorem leaves_message {fn : Fin 2} {m : Msg} (hm : ∀ x, m ≠ .error x) (hf : s.eng.arrives.portFirst (fnPort fn.val) = true) :
    Leaves (.messageReceived fn m) s (s.eng.arrives.message fn.val m) :=
  leaves_tlp (exec_messageReceived hm) hup hf (State.run_msg _ _ _ fn.val m)

/-- A request for what is not there (R279). -/
theorem configurationRequest_nowhere {q : CfgReq} (h : q.type1 = true ∨ 2 ≤ q.fn) (hp : q.tlpPrefix = false) :
    Does (.configurationRequest q) s fun f => Unsupported 0 s.eng.arrives f ∧
      Answers s.eng.arrives f (.completion 0 .unsupported [] false false) := by
  refine does_of_doneS ((exec_configurationRequest_nowhere h).trans (congrArg doneS (if_pos hup))) ?_
  rw [Engine.configRequest_nowhere hp h]
  exact ⟨Engine.unsupported_refuse 0 _, Engine.answers_refuse_ur _⟩

section
variable {q : CfgReq} (ht : q.type1 = false) (hfn : q.fn < 2) (hf : s.eng.arrives.portFirst (fnPort q.fn) = true)
  (hp : q.tlpPrefix = false)
include ht hfn hf hp

theorem configurationRequest_reads (hd : q.data = none) : Leaves (.configurationRequest q) s (s.eng.arrives.send
    (.completion q.fn .success [s.eng.arrives.cfgView q.fn (q.off % 4096 / 4 * 4)] false (s.eng.arrives.idoCpl q.fn))) := by
  have hl := leaves_configRequest hup ht hfn hf
  rw [Engine.configRequest_read hp ht hfn _ hd] at hl
  exact hl

theorem configurationRequest_nothing {v : Word} (hd : q.data = some v) (hrow : cfgRow? q.fn (q.off % 4096 / 4 * 4) = none) :
    Leaves (.configurationRequest q) s (s.eng.arrives.send
      (.completion q.fn .success [] false (s.eng.arrives.idoCpl q.fn))) := by
  have hl := leaves_configRequest hup ht hfn hf
  rw [Engine.configRequest_write hp ht hfn _ hd, Engine.cfgWrite_nothing hrow] at hl
  exact hl

/-- A write changes the writable fields and clears what it writes 1 to, against the register before its arrival. -/
theorem configurationRequest_writes {v : Word} {r : CfgRow} (hd : q.data = some v) (hal : q.off % 4 = 0) (hlt : q.off < 4096)
    (hrow : cfgRow? q.fn q.off = some r) (hoff : q.off ≠ 0x58) (hsets : ∀ p ∈ s.eng.cyc.sets, p.1 ≠ cfgKey q.fn q.off) :
    let x := s.eng.arrives.cfgWrite q.fn q.off q.be v
    let k := cfgKey q.fn q.off
    Leaves (.configurationRequest q) s (x.send (.completion q.fn .success [] false (x.idoCpl q.fn))) ∧
    x.rd k = Engine.cfgSanitize q.off (s.eng.rd k) (merge (r.mask &&& beMask q.be) (s.eng.rd k) v) &&& ~~~(v &&& beMask q.be &&& r.w1c) ∧
    RegsKept [k] s.eng.arrives x ∧ x = { s.eng.arrives.marked x with
      host := { s.eng.arrives.host with pmeAt := s.eng.arrives.pmeAfter q.fn q.off (x.rd k) } } := by
  have stirred := Engine.stirred_arrives s.eng
  have slot : q.off % 4096 / 4 * 4 = q.off := by omega
  have hl := leaves_configRequest hup ht hfn hf
  rw [Engine.configRequest_write hp ht hfn _ hd, slot] at hl
  have keeps := Engine.cfgWrite_keeps hrow hoff s.eng.arrives q.be v (by rw [stirred.cyc]; exact hsets)
  rw [stirred.rd (Engine.ne_cfgKey (by decide) q.fn q.off).symm] at keeps
  exact ⟨hl, keeps⟩

end

/-- A correctable error of the link is counted, and noted in AER and Device Status of function 0 (R296). -/
theorem messageReceived_corrects (fn : Fin 2) {x : RxErr} {b : Nat} (hx : s.eng.rxErr fn.val x = s.eng.corrErr b) :
    Does (.messageReceived fn (.error x)) s fun f =>
      f.rd R.HOST_CORR_CNT = bump16 (s.eng.rd R.HOST_CORR_CNT) ∧
      f.rd (cfgKey 0 0x110) = s.eng.rd (cfgKey 0 0x110) ||| w32 (2 ^ b) ∧
      f.rd (cfgKey 0 0x58) = s.eng.rd (cfgKey 0 0x58) ||| 0x10000#32 ∧
      RegsKept [R.HOST_CORR_CNT, cfgKey 0 0x110, cfgKey 0 0x58] s.eng f ∧ f.time = s.eng.time ∧ f.sys = s.eng.sys := by
  refine does_of_doneS ((exec_messageReceived_error s fn x).trans (congrArg doneS (if_pos hup))) ?_
  rw [hx]
  obtain ⟨hrd, htime, hsys⟩ := Engine.corrErr_told s.eng b
  obtain ⟨hcnt, haer, hdev, hkept⟩ := Engine.rd_corrNoted s.eng b
  exact ⟨(hrd _).trans hcnt, (hrd _).trans haer, (hrd _).trans hdev, hkept.of_rd hrd, htime, hsys⟩

end

/-- Settles O49: a configuration request by whether it reaches a function, whether it is malformed, and what it reads or writes; a
message by what it says. -/
theorem configurationRequestsAndMessages : Obligations.ConfigurationRequestsAndMessages := by
  refine ⟨fun s q fn m hdown => idles_down hdown q fn m, fun s hup => ⟨fun q h hp => configurationRequest_nowhere hup h hp,
    fun q ht hfn => ⟨queues_tlp (exec_configurationRequest ht hfn) hup, fun hf => ⟨fun hp => ?_,
      fun hp hd => configurationRequest_reads hup ht hfn hf hp hd,
      fun v hp hd hrow => configurationRequest_nothing hup ht hfn hf hp hd hrow,
      fun v r hp hd hal hlt hrow hoff hsets => ⟨_, configurationRequest_writes hup ht hfn hf hp hd hal hlt hrow hoff hsets⟩⟩⟩,
    fun fn m hm => queues_tlp (exec_messageReceived hm) hup, fun fn hf => ?_, fun fn x hx => ?_⟩⟩
  · have hl := leaves_configRequest hup ht hfn hf
    rw [Engine.configRequest_prefixed hp hfn] at hl
    exact ⟨_, hl, malformed_arrives s q.fn⟩
  · have leaves {m : Msg} (hm : ∀ x, m ≠ .error x) := leaves_message hup (m := m) hm hf
    exact ⟨leaves nofun, leaves nofun, ⟨_, leaves nofun, Engine.unsupported_hostErr fn.val _⟩,
      ⟨_, leaves nofun, malformed_arrives s fn.val⟩⟩
  · simp only [List.mem_cons, List.not_mem_nil, or_false] at hx
    rcases hx with rfl | rfl | rfl | rfl | rfl
    all_goals exact messageReceived_corrects hup fn rfl

end Sys2Proof.Machine
end

section
/-! PROOF. O1, O6: a step runs the front command, and no command touches the queue of those that wait behind it. -/

namespace Sys2Proof.Machine

/-- Settles O1: a step takes the front command off the queue and runs it. -/
theorem stepRunsFrontCommand : Obligations.StepRunsFrontCommand := fun _ _ _ => rfl

namespace State

/-! ### The queue of commands over one access (R12, R17) -/

@[simp] theorem coreReset_pending (s : State) : s.coreReset.pending = s.pending := rfl

@[simp] theorem resetCtl_pending (s : State) (v : Word) : (s.resetCtl v).pending = s.pending := by
  unfold resetCtl
  repeat' split
  all_goals rfl

@[simp] theorem evqPop_pending (s : State) (p : Nat) (flips : BitVec 64) : (s.evqPop p flips).1.pending = s.pending := by
  unfold evqPop
  split <;> rfl

@[simp] theorem readReg_pending (s : State) (p page slot : Nat) : (s.readReg p page slot).1.pending = s.pending := by
  unfold readReg
  dsimp only
  split
  · rfl
  · split
    · exact evqPop_pending s p _
    · split
      · rfl
      · rfl
      · split <;> rfl
      · rfl

@[simp] theorem writeAs_pending (s : State) (auth : List Bool) (p page slot : Nat) (be : BitVec 4) (v : Word) :
    (s.writeAs auth p page slot be v).pending = s.pending := by
  unfold writeAs
  dsimp only
  split
  · rfl
  · split
    · rfl
    · split
      case h_5 => split
                  · exact resetCtl_pending _ _
                  · rfl
      all_goals rfl

@[simp] theorem perform_pending (s : State) (auth : List Bool) (a : RegAccess) : (s.perform auth a).1.pending = s.pending := by
  unfold perform
  split
  · exact writeAs_pending ..
  · exact readReg_pending ..

@[simp] theorem attempt_pending (s : State) (h : Held) (a : RegAccess) : (s.attempt h a).1.pending = s.pending := by
  unfold attempt
  dsimp only
  repeat' split
  case isFalse.isFalse.isFalse => exact perform_pending ..
  all_goals rfl

@[simp] theorem runRegs_pending (fn : Option Nat) (l : List RegAccess) :
    ∀ (s : State) (h : Held) (got : List Word), (s.runRegs h fn l got).1.pending = s.pending := by
  induction l with
  | nil =>
    intro s h got
    unfold runRegs
    split <;> rfl
  | cons a t ih =>
    intro s h got
    have kept := attempt_pending s h a
    unfold runRegs
    split
    next s' sent hs => rw [hs] at kept; exact kept
    next s' v hs => rw [hs] at kept; exact (ih _ _ _).trans kept

/-! ### What a port has asked for (R275, R276, R304, R307) -/

@[simp] theorem aperture_pending (s : State) (off n : Nat) (us : List Upset) (base : Nat) :
    (s.aperture off n us base).pending = s.pending := by
  unfold aperture
  dsimp only
  split <;> rfl

@[simp] theorem serveRead_pending (s : State) (p : Port) (q : MemReq) (base : Nat) :
    (s.serveRead p q base).1.pending = s.pending := by
  unfold serveRead
  dsimp only
  repeat' split
  case h_2.isFalse => exact aperture_pending ..
  all_goals rfl

@[simp] theorem serveWrite_pending (s : State) (p : Port) (q : MemReq) : (s.serveWrite p q).1.pending = s.pending := by
  unfold serveWrite
  dsimp only
  repeat' split
  all_goals rfl

@[simp] theorem runMem_pending (s : State) (h : Held) (q : MemReq) (base : Nat) : (s.runMem h q base).1.pending = s.pending := by
  unfold runMem
  extract_lets r
  have served : r.1.pending = s.pending := by
    unfold r
    split
    · exact serveRead_pending ..
    · exact serveWrite_pending ..
  split
  · rfl
  · split
    · exact served
    · exact (runRegs_pending ..).trans served

@[simp] theorem runAper_pending (s : State) (h : Held) (off len : Nat) (us : List Upset) (base : Nat) :
    (s.runAper h off len us base).1.pending = s.pending := by
  unfold runAper
  dsimp only
  repeat' split
  case isFalse.isFalse.isFalse.isFalse.isTrue => exact aperture_pending ..
  all_goals rfl

@[simp] theorem runPop_pending (s : State) (h : Held) (flips : BitVec 64) : (s.runPop h flips).1.pending = s.pending := by
  unfold runPop
  dsimp only
  split
  · rfl
  · split
    · rfl
    · exact evqPop_pending ..

@[simp] theorem i2cReads_pending (n : Nat) :
    ∀ (s : State) (h : Held) (t : I2cRun), (s.i2cReads h t n).1.pending = s.pending := by
  induction n with
  | zero => exact fun _ _ _ => rfl
  | succ n ih =>
    intro s h t
    have kept := attempt_pending s h (s.eng.atPtr none)
    unfold i2cReads
    split
    next s' sent hs => rw [hs] at kept; exact kept
    next s' v hs => rw [hs] at kept; exact (ih _ _ _).trans kept

@[simp] theorem i2cTail_pending (s : State) (h : Held) (t : I2cRun) : (s.i2cTail h t).1.pending = s.pending := by
  unfold i2cTail
  dsimp only
  split
  · rfl
  · exact i2cReads_pending ..

@[simp] theorem i2cWrites_pending (l : List Word) :
    ∀ (s : State) (h : Held) (t : I2cRun), (s.i2cWrites h t l).1.pending = s.pending := by
  induction l with
  | nil => exact fun s h t => i2cTail_pending s h { t with todo := [] }
  | cons w ws ih =>
    intro s h t
    have kept := attempt_pending s h (s.eng.atPtr (some w))
    unfold i2cWrites
    split
    next s' sent hs => rw [hs] at kept; exact kept
    next s' v hs =>
      rw [hs] at kept
      dsimp only
      split
      · exact kept
      · split
        · exact kept
        · exact (ih _ _ _).trans kept

@[simp] theorem runI2c_pending (s : State) (h : Held) (t : I2cRun) : (s.runI2c h t).1.pending = s.pending := by
  unfold runI2c
  split
  · exact i2cTail_pending ..
  · exact i2cWrites_pending ..

/-! ### Service (R12, R17) -/

@[simp] theorem run_pending (s : State) (h : Held) : (s.run h).1.pending = s.pending := by
  unfold run
  extract_lets now h'
  split
  · rfl
  · split
    · exact runRegs_pending ..
    · exact runPop_pending ..
    · exact runMem_pending ..
    · exact runAper_pending ..
    · split <;> rfl
    · rfl
    · rfl
    · exact runI2c_pending ..
    · exact runI2c_pending ..

@[simp] theorem serveHeld_pending (s : State) (h : Held) : (s.serveHeld h).1.pending = s.pending := by
  have kept := run_pending { s with eng.host.held := s.eng.host.held.erase h } h
  unfold serveHeld
  split
  next s' hs => rw [hs] at kept; exact kept
  next s' h' hs => rw [hs] at kept; exact kept

@[simp] theorem servePort_pending (p : Port) (n : Nat) : ∀ s : State, (s.servePort p n).pending = s.pending := by
  induction n with
  | zero => exact fun _ => rfl
  | succ n ih =>
    intro s
    unfold servePort
    split
    · rfl
    next h _ =>
      have kept := serveHeld_pending s h
      split
      next s' hs => rw [hs] at kept; exact (ih s').trans kept
      next s' hs => rw [hs] at kept; exact kept

@[simp] theorem serveUpto_pending (s : State) (p : Port) : (s.serveUpto p).pending = s.pending := by
  unfold serveUpto
  refine List.foldlRecOn (motive := fun t : State => t.pending = s.pending) _ _ rfl fun t ht q _ => ?_
  split
  · exact (servePort_pending ..).trans ht
  · exact ht

@[simp] theorem serveAll_pending (s : State) : s.serveAll.pending = s.pending := serveUpto_pending s .i2c

@[simp] theorem submit_pending (s : State) (p : Port) (w : Work) : (s.submit p w).pending = s.pending := by
  have kept := run_pending s { port := p, auth := s.eng.auth (portCode p), work := w }
  unfold submit
  dsimp only
  split
  · split
    next s' hs => rw [hs] at kept; exact kept
    next s' h' hs => rw [hs] at kept; exact kept
  · exact serveUpto_pending ..

@[simp] theorem ask_pending (s : State) (p : Port) (w : Work) : (s.ask p w).pending = s.pending := by
  unfold ask
  split
  · rfl
  · exact submit_pending ..

@[simp] theorem access_pending (s : State) (a : RegAccess) : (s.access a).pending = s.pending := ask_pending ..

/-- A command that is an access keeps the queue where its effect at once does. -/
theorem command_pending (s : State) (a : RegAccess) {f : State → State} (hf : ∀ t, (f t).pending = t.pending) :
    (s.command a f).pending = s.pending := by
  unfold command
  dsimp only
  split
  · exact hf _
  · exact ask_pending ..

@[simp] theorem secCommand_pending (s : State) (p : Port) (op slot confirm : Nat) (f : Engine → Engine) :
    (s.secCommand p op slot confirm f).pending = s.pending := command_pending _ _ fun _ => rfl

@[simp] theorem readIf_pending (s : State) (p : Port) (page slot : Nat) (acc : Acc) :
    (s.readIf p page slot acc).pending = s.pending := by
  unfold readIf
  dsimp only
  split
  · split
    · exact access_pending ..
    · rfl
  · exact access_pending ..

@[simp] theorem tlp_pending (s : State) (p : Port) (w : Work) : (s.tlp p w).pending = s.pending := by
  unfold tlp
  split
  · exact submit_pending ..
  · rfl

@[simp] theorem attemptNotice_pending (s : State) (r : NoticeResult) : (s.attemptNotice r).pending = s.pending := by
  unfold attemptNotice
  dsimp only
  split
  · exact submit_pending ..
  · rfl

/-! ### The exchange of frames (R326, R330) -/

@[simp] theorem cliffDone_pending (s : State) (p : Port) (seq : Nat) (v : Option Word) :
    (s.cliffDone p seq v).pending = s.pending := by
  unfold cliffDone
  split
  · rfl
  next h _ =>
    dsimp only
    have kept := run_pending { s with eng.host.held := s.eng.host.held.erase h } { h with sent := none, reply := some v }
    split
    next s' hs => rw [hs] at kept; exact kept
    next s' h' hs => rw [hs] at kept; exact kept

@[simp] theorem linkExec_pending (s : State) (seq : Nat) (op : HingeOp) : (s.linkExec seq op).pending = s.pending := by
  unfold linkExec
  split
  next a auth =>
    dsimp only
    split
    · exact perform_pending s auth a
    · exact (cliffDone_pending ..).trans (perform_pending s auth a)
  · exact cliffDone_pending ..

@[simp] theorem exchange_pending (s : State) (atHead : Bool) : (s.exchange atHead).pending = s.pending := by
  unfold exchange
  split
  · rfl
  · dsimp only
    split
    · split
      · exact linkExec_pending ..
      · rfl
    · rfl

@[simp] theorem exchanges_pending (atHead : Bool) (n : Nat) : ∀ s : State, (s.exchanges atHead n).pending = s.pending := by
  induction n with
  | zero => exact fun _ => rfl
  | succ n ih => exact fun s => (ih _).trans (exchange_pending s atHead)

@[simp] theorem cliffComplete_pending (s : State) : s.cliffComplete.pending = s.pending := by
  unfold cliffComplete
  dsimp only
  split
  · rw [serveAll_pending, exchanges_pending, exchanges_pending, serveAll_pending]
  · exact serveAll_pending s

/-! ### Shoal (R191 to R198, R257) -/

@[simp] theorem scrub_pending (s : State) (us : List Upset) : (s.scrub us).pending = s.pending := by
  unfold scrub
  dsimp only
  split <;> rfl

theorem jobRead_pending {s t : State} {us : List Upset} {a n : Nat} {bs : List Byte} {bad : Bool}
    (h : s.jobRead us a n = .ok (t, bs, bad)) : t.pending = s.pending := by
  unfold jobRead at h
  split at h
  · cases h
  · cases h
    rfl

theorem entryRead_pending {s t : State} {k : Nat} {us : List Upset} (h : s.entryRead k us = .ok t) : t.pending = s.pending := by
  unfold entryRead at h
  dsimp only at h
  split at h
  · cases h
  next t' bs bad hr =>
    have kept : t'.pending = s.pending := jobRead_pending hr
    cases h
    exact kept

theorem blockRead_pending {s t : State} {k : Nat} {us : List Upset} (h : s.blockRead k us = .ok t) : t.pending = s.pending := by
  unfold blockRead at h
  dsimp only at h
  split at h
  · cases h
  next t' bs bad hr =>
    have kept : t'.pending = s.pending := jobRead_pending hr
    cases h
    exact kept

theorem capture_pending {s t : State} {a hdr : Nat} {bs : List Byte} (h : s.capture a hdr bs = .ok t) : t.pending = s.pending := by
  unfold capture at h
  dsimp only at h
  split at h
  · cases h
  · cases h
    rfl

theorem place_pending {s t : State} {b : Block} (h : s.place b = .ok t) : t.pending = s.pending := by
  unfold place at h
  dsimp only at h
  split at h
  · cases h
    rfl
  · split at h
    · cases h
    next body =>
      split at h
      · cases h
      next entry =>
        have kept := (capture_pending entry).trans (capture_pending body)
        cases h
        exact kept

end State

/-! ### The commands -/

/-- A command that answers a next state leaves the queue as it was. -/
def KeepsWaiting (s : State) (o : Out) : Prop := ∀ t, o = .next t → t.pending = s.pending

theorem keepsWaiting_done (s : State) (f : Engine → Engine) : KeepsWaiting s (done s f) := fun _ h => by
  cases h
  rfl

/-- A command on the engine alone. -/
theorem keepsWaiting_next (s : State) (e : Engine) : KeepsWaiting s (.next { s with eng := e }) := fun _ h => by
  cases h
  rfl

theorem keepsWaiting_doneS {s t : State} (h : t.pending = s.pending) : KeepsWaiting s (doneS t) := fun _ ht => by
  cases ht
  exact h

theorem keepsWaiting_fault (s : State) (f : Fault) : KeepsWaiting s (.fault f) := fun _ h => nomatch h

theorem KeepsWaiting.ite {s : State} {p : Prop} [Decidable p] {a b : Out} (ha : KeepsWaiting s a) (hb : KeepsWaiting s b) :
    KeepsWaiting s (if p then a else b) := by
  split
  · exact ha
  · exact hb

theorem keepsWaiting_execModeTransitionComplete (s : State) : KeepsWaiting s (execModeTransitionComplete s) := by
  unfold execModeTransitionComplete
  split
  · refine keepsWaiting_doneS ?_
    split <;> rfl
  · exact keepsWaiting_doneS rfl

theorem keepsWaiting_execBlockPlacement (s : State) : KeepsWaiting s (execBlockPlacement s) := by
  unfold execBlockPlacement
  split
  · exact keepsWaiting_doneS rfl
  · refine KeepsWaiting.ite ?_ (keepsWaiting_done _ _)
    split
    · exact keepsWaiting_fault _ _
    next t ht => exact fun u hu => (keepsWaiting_done t _ u hu).trans (State.place_pending ht)

theorem keepsWaiting_execEntryRead (k : Fin 4) (us : List Upset) (s : State) : KeepsWaiting s (execEntryRead k us s) := by
  refine KeepsWaiting.ite (KeepsWaiting.ite ?_ (keepsWaiting_done _ _)) (keepsWaiting_doneS rfl)
  split
  · exact keepsWaiting_fault _ _
  next t ht => exact keepsWaiting_doneS (State.entryRead_pending ht)

theorem keepsWaiting_execBlockRead (k : Fin 4) (us : List Upset) (s : State) : KeepsWaiting s (execBlockRead k us s) := by
  refine KeepsWaiting.ite (KeepsWaiting.ite ?_ (keepsWaiting_done _ _)) (keepsWaiting_doneS rfl)
  split
  · exact keepsWaiting_fault _ _
  next t ht => exact keepsWaiting_doneS (State.blockRead_pending ht)

theorem keepsWaiting_execConfigurationRequest (q : CfgReq) (s : State) : KeepsWaiting s (execConfigurationRequest q s) := by
  refine keepsWaiting_doneS ?_
  split
  · split <;> rfl
  · exact State.tlp_pending ..

theorem keepsWaiting_execMessageReceived (fn : Fin 2) (m : Msg) (s : State) : KeepsWaiting s (execMessageReceived fn m s) := by
  refine keepsWaiting_doneS ?_
  split
  · split <;> rfl
  · exact State.tlp_pending ..

theorem keepsWaiting_execHingeDataFrame (l : Link) (f : LinkFrame) (s : State) : KeepsWaiting s (execHingeDataFrame l f s) := by
  unfold execHingeDataFrame
  dsimp only
  split
  · exact keepsWaiting_doneS (State.linkExec_pending ..)
  · exact keepsWaiting_doneS rfl

/-- Every command that answers a next state leaves the queue as it was: those on the engine alone, and those of the ports, of
Shoal, of the event queue and of resets. -/
theorem keepsWaiting_exec (c : Instr) (s : State) : KeepsWaiting s (exec c s) := by
  cases c with
  | registerWrite => exact keepsWaiting_doneS (State.access_pending ..)
  | rcRead => exact keepsWaiting_doneS (State.readIf_pending ..)
  | rlLoRead => exact keepsWaiting_doneS (State.readIf_pending ..)
  | cliffAccessComplete => exact keepsWaiting_doneS (State.cliffComplete_pending s)
  | modeTransitionComplete => exact keepsWaiting_execModeTransitionComplete s
  | bootComplete => exact KeepsWaiting.ite (keepsWaiting_doneS rfl) (keepsWaiting_doneS rfl)
  | powerGoodFailure => exact KeepsWaiting.ite (keepsWaiting_doneS rfl) (keepsWaiting_doneS rfl)
  | powerOnReset => exact keepsWaiting_doneS rfl
  | coreReset => exact keepsWaiting_doneS (State.command_pending _ _ fun t => by split <;> rfl)
  | cliffReset => exact keepsWaiting_doneS (State.command_pending _ _ fun t => by split <;> rfl)
  | coreResetEnd => exact KeepsWaiting.ite (keepsWaiting_doneS (State.serveAll_pending _)) (keepsWaiting_doneS rfl)
  | recUser => exact keepsWaiting_doneS (State.command_pending _ _ fun _ => rfl)
  | blockPlacement => exact keepsWaiting_execBlockPlacement s
  | scrubRead us => exact keepsWaiting_doneS (by split; exacts [State.scrub_pending s us, rfl])
  | evqPop => exact keepsWaiting_doneS (State.ask_pending ..)
  | evqOverrun => exact keepsWaiting_doneS (State.evqOverrun_pending s)
  | entryRead k us => exact keepsWaiting_execEntryRead k us s
  | blockRead k us => exact keepsWaiting_execBlockRead k us s
  | memoryReadRequest => exact keepsWaiting_doneS (State.tlp_pending ..)
  | memoryWriteRequest => exact keepsWaiting_doneS (by split; exacts [rfl, State.tlp_pending ..])
  | apertureRead => exact keepsWaiting_doneS (State.tlp_pending ..)
  | expansionRomRead => exact keepsWaiting_doneS (State.tlp_pending ..)
  | configurationRequest q => exact keepsWaiting_execConfigurationRequest q s
  | messageReceived fn m => exact keepsWaiting_execMessageReceived fn m s
  | i2cWriteTransaction => exact keepsWaiting_doneS (State.submit_pending ..)
  | i2cReadTransaction => exact keepsWaiting_doneS (State.submit_pending ..)
  | notice => exact keepsWaiting_doneS (by split; exacts [State.attemptNotice_pending .., rfl])
  | noticeRetry => exact keepsWaiting_doneS (by split; exacts [State.attemptNotice_pending .., rfl])
  | hingeDataFrame l f => exact keepsWaiting_execHingeDataFrame l f s
  | hingeDieFault => exact KeepsWaiting.ite (keepsWaiting_doneS (State.serveAll_pending _)) (keepsWaiting_doneS rfl)
  | injectionArm => exact keepsWaiting_doneS (State.access_pending ..)
  | injectionStop => exact keepsWaiting_doneS (State.access_pending ..)
  | challenge => exact keepsWaiting_doneS (State.secCommand_pending ..)
  | respond => exact keepsWaiting_doneS (State.secCommand_pending ..)
  | close => exact keepsWaiting_doneS (State.secCommand_pending ..)
  | program => exact keepsWaiting_doneS (State.secCommand_pending ..)
  | clear => exact keepsWaiting_doneS (State.secCommand_pending ..)
  | secBufWrite => exact keepsWaiting_doneS (State.command_pending _ _ fun _ => rfl)
  | _ => exact keepsWaiting_next s _

/-- Settles O6, command by command: those of the ports by what serves them, the others by what they act on. -/
theorem commandsKeepTheWaiting : Obligations.CommandsKeepTheWaiting := fun c s => keepsWaiting_exec c s

end Sys2Proof.Machine
end

section
/-! SUPPORT. The key block: ports and slots after each other, the commands of a port that act at once, and what each session
command makes of its port. -/

namespace Sys2Proof.Machine

/-! ### A command that acts at once where its port is served (R12, R17) -/

section
variable {c : Instr} {s : State} {a : RegAccess} {f : State → State} (hc : exec c s = doneS (s.command a f))
include hc

/-- Where its port cannot be served at once, such a command is the access that it makes. -/
theorem exec_command_access (h : ((s.eng.arrivesAt a.port).portReady a.port && portHas (portCode a.port) a.page) = false) :
    exec c s = doneS (s.access a) := by
  refine hc.trans (congrArg doneS ?_)
  unfold State.command
  dsimp only
  rw [if_neg (by rw [h]; decide)]
  rfl

/-- Where its port is served at once it has its effect. -/
theorem exec_command_acts (hr : s.ready a.port = true) (hp : portHas (portCode a.port) a.page = true) :
    exec c s = doneS (f { s with eng := s.eng.serving a.port }) := by
  refine hc.trans (congrArg doneS ?_)
  unfold State.command
  dsimp only
  rw [if_pos (by rw [show (s.eng.arrivesAt a.port).portReady a.port = true from hr, hp]; rfl)]
  rfl

theorem waitsItsTurn_command (hb : a.be ≠ 0#4) : WaitsItsTurn c s a.port (.regs [a] [] none) := by
  cases h : (s.eng.arrivesAt a.port).portReady a.port && portHas (portCode a.port) a.page with
  | false => exact waitsItsTurn_access (exec_command_access hc h) hb
  | true =>
    have hr : s.ready a.port = true := ((Bool.and_eq_true _ _).mp h).1
    have opened := State.open_of_ready hr
    refine ⟨fun lost => absurd lost (State.notLost_of_ready hr), fun _ _ closed => ?_, fun _ behind => ?_⟩
    · rw [closed] at opened; cases opened
    · rw [State.first_of_ready hr] at behind; cases behind

end

/-- A port that is served at once, by a command whose effect is on the engine alone. -/
theorem leaves_command {c : Instr} {s : State} {p : Port} {k : Nat} {v : Word} {g : Engine → Engine}
    (hc : exec c s = doneS (s.command (wrAccess p k v) fun s => { s with eng := g s.eng })) (hr : s.ready p = true)
    (hp : portHas (portCode p) (k / 256) = true) : Leaves c s (g (s.eng.serving p)) :=
  exec_command_acts hc hr hp

/-- Every port reaches the page of the key block. -/
theorem portHas_sec (p : Port) : portHas (portCode p) (R.SEC_CMD / 256) = true := by cases p <;> decide

namespace Engine

/-! ### Registers and events (R237) -/

/-- b is a but for registers, the marks of what hardware has set and counted, and the events vs that have been pushed. -/
def Pushes (vs : List Event) (a b : Engine) : Prop := b = { a.marked b with arriving := a.arriving ++ vs }

theorem OnlyRegs.pushes {a b : Engine} (h : OnlyRegs a b) : Pushes [] a b := by
  unfold Pushes
  rw [List.append_nil]
  exact h

theorem pushes_push (e : Engine) (source code prio arg : Nat) :
    Pushes [e.event source code prio arg] e (e.push source code prio arg) := rfl

theorem pushes_pushIf (e : Engine) (c : Bool) (source code prio arg : Nat) :
    Pushes (if c then [e.event source code prio arg] else []) e (e.pushIf c source code prio arg) := by
  cases c with
  | false => exact OnlyRegs.pushes rfl
  | true => rfl

namespace Pushes

variable {vs ws : List Event} {a b c : Engine}

theorem trans (h : Pushes vs a b) (h' : Pushes ws b c) : Pushes (vs ++ ws) a c := by
  unfold Pushes at h h' ⊢
  rw [h] at h'
  rw [← List.append_assoc]
  exact h'

theorem regs (h : Pushes vs a b) (h' : OnlyRegs b c) : Pushes vs a c := by
  have both := h.trans h'.pushes
  rw [List.append_nil] at both
  exact both

theorem event (h : Pushes vs a b) (source code prio arg : Nat) : b.event source code prio arg = a.event source code prio arg := by
  rw [h]
  rfl

theorem push (h : Pushes vs a b) (source code prio arg : Nat) :
    Pushes (vs ++ [a.event source code prio arg]) a (b.push source code prio arg) := by
  rw [← h.event]
  exact h.trans (pushes_push b _ _ _ _)

theorem pushIf (h : Pushes vs a b) (w : Bool) (source code prio arg : Nat) :
    Pushes (vs ++ if w then [a.event source code prio arg] else []) a (b.pushIf w source code prio arg) := by
  rw [← h.event]
  exact h.trans (pushes_pushIf b _ _ _ _ _)

theorem istat (h : Pushes vs a b) (page bits : Nat) : Pushes vs a (b.istat page bits) := h.regs (onlyRegs_istat b page bits)
theorem estat (h : Pushes vs a b) (page bits : Nat) : Pushes vs a (b.estat page bits) := h.regs (onlyRegs_estat b page bits)
theorem sec (h : Pushes vs a b) : b.sec = a.sec := by rw [h]; rfl

theorem withSec (h : Pushes vs a b) (x : SecBlk) : Pushes vs { a with sec := x } { b with sec := x } := by
  unfold Pushes at h ⊢
  exact congrArg (fun e : Engine => { e with sec := x }) h

end Pushes

/-! ### Ports and slots -/

/-- A port of the key block has the state x. -/
def putPort (e : Engine) (n : Nat) (x : PortSec) : Engine := { e with sec := { e.sec with ports := e.sec.ports.set n x } }

/-- Key slot i has the state y. -/
def putKey (e : Engine) (i : Nat) (y : KeySlot) : Engine := { e with sec := { e.sec with slots := e.sec.slots.set (i - 1) y } }

theorem putPort_putPort (e : Engine) (n : Nat) (x y : PortSec) : (e.putPort n x).putPort n y = e.putPort n y := by
  unfold putPort
  rw [List.set_set]

theorem putKey_putKey (e : Engine) (i : Nat) (x y : KeySlot) : (e.putKey i x).putKey i y = e.putKey i y := by
  unfold putKey
  rw [List.set_set]

@[simp] theorem rd_putPort (e : Engine) (n : Nat) (x : PortSec) (j : Nat) : (e.putPort n x).rd j = e.rd j := rfl
@[simp] theorem rd_putKey (e : Engine) (i : Nat) (y : KeySlot) (j : Nat) : (e.putKey i y).rd j = e.rd j := rfl

theorem Pushes.putPort {vs : List Event} {a b : Engine} (h : Pushes vs a b) (n : Nat) (x : PortSec) :
    Pushes vs (a.putPort n x) (b.putPort n x) := by
  unfold Engine.putPort
  rw [h.sec]
  exact h.withSec _

theorem Pushes.putKey {vs : List Event} {a b : Engine} (h : Pushes vs a b) (i : Nat) (y : KeySlot) :
    Pushes vs (a.putKey i y) (b.putKey i y) := by
  unfold Engine.putKey
  rw [h.sec]
  exact h.withSec _

section
variable {e : Engine} {n : Nat} {q : PortSec} (h : e.sec.ports[n]? = some q)
include h

theorem port_eq : e.port n = q := by
  unfold port
  rw [List.getD_eq_getElem?_getD, h]
  rfl

theorem setPort_eq (g : PortSec → PortSec) : e.setPort n g = e.putPort n (g q) := by
  unfold setPort putPort
  rw [upd_eq_set h]

theorem putPort_self : e.putPort n q = e := by
  obtain ⟨hn, rfl⟩ := List.getElem?_eq_some_iff.mp h
  unfold putPort
  rw [List.set_getElem_self]

theorem putPort_here (x : PortSec) : (e.putPort n x).sec.ports[n]? = some x := by
  obtain ⟨hn, -⟩ := List.getElem?_eq_some_iff.mp h
  exact List.getElem?_set_self hn

theorem secResult_eq (r : Nat) : e.secResult n r = e.putPort n { q with result := r } := setPort_eq h _

theorem clearBuf_eq : e.clearBuf n = e.putPort n { q with buf := List.replicate 8 0#32, idx := 0 } := setPort_eq h _

end

section
variable {e : Engine} {i : Nat} {k : KeySlot} (h : e.sec.slots[i - 1]? = some k)
include h

theorem key_eq : e.key i = k := by
  unfold key
  rw [List.getD_eq_getElem?_getD, h]
  rfl

theorem setKey_eq (g : KeySlot → KeySlot) : e.setKey i g = e.putKey i (g k) := by
  unfold setKey putKey
  rw [upd_eq_set h]

theorem putKey_self : e.putKey i k = e := by
  obtain ⟨hi, rfl⟩ := List.getElem?_eq_some_iff.mp h
  unfold putKey
  rw [List.set_getElem_self]

theorem putKey_here (y : KeySlot) : (e.putKey i y).sec.slots[i - 1]? = some y := by
  obtain ⟨hi, -⟩ := List.getElem?_eq_some_iff.mp h
  exact List.getElem?_set_self hi

end

/-! ### SEC_CMD (R349, R355) -/

end Engine

/-- The port's state after a SEC_CMD that names slot sl: the idle count of its session starts afresh (R349). -/
def PortSec.touched (q : PortSec) (sl : Nat) : PortSec :=
  { q with sess := if sl = 0 then q.sess else q.sess.modify (sl - 1) fun o => o.map fun _ => 0 }

theorem PortSec.touched_zero (q : PortSec) : q.touched 0 = q := rfl

/-- A session stays open, or closed, when its idle count starts afresh. -/
theorem PortSec.touched_isSome (q : PortSec) (sl i : Nat) :
    ((q.touched sl).sess.getD i none).isSome = (q.sess.getD i none).isSome := by
  unfold touched
  dsimp only
  split
  · rfl
  · rw [List.getD_eq_getElem?_getD, List.getD_eq_getElem?_getD, List.getElem?_modify]
    cases q.sess[i]? with
    | none => rfl
    | some o => split <;> cases o <;> rfl

namespace Engine

section
variable {e : Engine} {n : Nat} {q : PortSec} (h : e.sec.ports[n]? = some q)
include h

theorem secCmdTouch_eq (sl : Nat) : e.secCmdTouch n sl = e.putPort n (q.touched sl) := by
  unfold secCmdTouch
  by_cases zero : sl = 0
  · rw [if_pos zero, zero, PortSec.touched_zero, putPort_self h]
  · rw [if_neg zero, touchSess, setPort_eq h, PortSec.touched, if_neg zero]
    rfl

theorem sessOpen_putPort (x : PortSec) (sl : Nat) (hx : (x.sess.getD (sl - 1) none).isSome = (q.sess.getD (sl - 1) none).isSome) :
    (e.putPort n x).sessOpen n sl = e.sessOpen n sl := by
  unfold sessOpen
  rw [port_eq (putPort_here h x), port_eq h, hx]
  rfl

/-- While the port programs a key its other writes of SEC_CMD do nothing (log entry 65). -/
theorem secFree_eq : e.secFree n = (q.chal != .programming) := by
  unfold secFree
  rw [port_eq h]

end

end Engine

/-- The engine that serves port p, with the port's state of the key block written over that of the state before. -/
def State.puts (s : State) (p : Port) (x : PortSec) : Engine :=
  { s.eng.serving p with sec := { s.eng.sec with ports := s.eng.sec.ports.set (portCode p) x } }

theorem State.serving_putPort {s : State} {p : Port} (hr : s.ready p = true) (x : PortSec) :
    (s.eng.serving p).putPort (portCode p) x = s.puts p x := by
  unfold Engine.putPort puts
  rw [State.serving_sec hr]

theorem PortSec.touched_of_ne (q : PortSec) {sl : Nat} (h : sl ≠ 0) :
    q.touched sl = { q with sess := q.sess.modify (sl - 1) fun o => o.map fun _ => 0 } := by
  unfold touched
  rw [if_neg h]

theorem toNat_ne_zero {sl : BitVec 2} (h : sl ≠ 0#2) : sl.toNat ≠ 0 := fun zero => h (BitVec.eq_of_toNat_eq zero)

theorem State.serving_port {s : State} {p : Port} {q : PortSec} (hr : s.ready p = true)
    (hq : s.eng.sec.ports[portCode p]? = some q) : (s.eng.serving p).sec.ports[portCode p]? = some q := by
  rw [State.serving_sec hr]; exact hq

/-- What a write of SEC_CMD leaves. -/
theorem exec_secCommand {c : Instr} {s : State} {p : Port} {op sl confirm : Nat} {g : Engine → Engine}
    (hc : exec c s = doneS (s.secCommand p op sl confirm g)) :
    WaitsItsTurn c s p (.regs [wrAccess p R.SEC_CMD (w32 (confirm * 2 ^ 16 + sl * 2 ^ 8 + op))] [] none) ∧
    (s.ready p = true → (s.eng.port (portCode p)).chal = .programming → Leaves c s (s.eng.serving p)) ∧
    (s.ready p = true → ∀ q, s.eng.sec.ports[portCode p]? = some q → q.chal ≠ .programming →
      Leaves c s (g ((s.eng.serving p).putPort (portCode p) (q.touched sl)))) := by
  have acts := leaves_command (p := p) (k := R.SEC_CMD) (g := fun e => if e.secFree (portCode p) then g (e.secCmdTouch (portCode p) sl) else e) hc
  refine ⟨waitsItsTurn_command hc (show (15#4 : BitVec 4) ≠ 0#4 by decide), fun hr hchal => ?_, fun hr q hq hchal => ?_⟩
  · have leaves := acts hr (portHas_sec p)
    have busy : (s.eng.serving p).secFree (portCode p) = false := by
      unfold Engine.secFree Engine.port
      rw [State.serving_sec hr]
      exact bne_eq_false_iff_eq.mpr hchal
    rw [if_neg (by rw [busy]; decide)] at leaves
    exact leaves
  · have leaves := acts hr (portHas_sec p)
    have hq' := State.serving_port hr hq
    rw [if_pos (by rw [Engine.secFree_eq hq']; exact bne_iff_ne.mpr hchal), Engine.secCmdTouch_eq hq'] at leaves
    exact leaves

end Sys2Proof.Machine
end

section
/-! PROOF. O59: challenges, responses and their checks. -/

namespace Sys2Proof.Machine

namespace Engine

/-! ### A challenge and a response of a port (R343, R344) -/

section
variable {e : Engine} {n : Nat} {q : PortSec} (h : e.sec.ports[n]? = some q) {sl : Nat} (hs : sl ≠ 0)
include h hs

theorem challenge_locked (hl : (e.key sl).lock.isSome = true) : e.challenge n sl = e.putPort n { q with result := 3 } := by
  unfold challenge
  rw [if_neg hs, if_pos (show e.locked sl = true from hl), secResult_eq h]

theorem challenge_unprogrammed (hl : (e.key sl).lock = none) (hp : (e.key sl).prog = false) :
    e.challenge n sl = e.putPort n { q with result := 4 } := by
  unfold challenge
  rw [if_neg hs, if_neg (by rw [locked, hl]; decide), if_pos (by rw [hp]; rfl), secResult_eq h]

/-- A programmed slot that is not locked out gives a fresh nonce (R343). -/
theorem challenge_fresh (hl : (e.key sl).lock = none) (hp : (e.key sl).prog = true) : e.challenge n sl =
    let x := e.putPort n { q with
      buf := List.replicate 8 0#32, idx := 0, ctr := min (q.ctr + 1) 0xFFFF, nonce := Config.nonce e.sec.nonces
      chal := .challenged, slot := sl, age := 0 }
    { x with sec := { x.sec with nonces := e.sec.nonces + 1 } } := by
  have drawn : ({ e with sec := { e.sec with nonces := e.sec.nonces + 1 } } : Engine).sec.ports[n]? = some q := h
  unfold challenge
  rw [if_neg hs, if_neg (by rw [locked, hl]; decide), if_neg (by rw [hp]; decide)]
  dsimp only
  rw [clearBuf_eq drawn, setPort_eq (putPort_here drawn _), putPort_putPort]
  rfl

/-- A response for the pending challenge, with four words written, is checked (R344). -/
theorem respond_checked (hc : q.chal = .challenged) (hq : q.slot = sl) (hi : 4 ≤ q.idx) :
    e.respond n sl = e.putPort n { q with chal := .checking } := by
  unfold respond
  rw [port_eq h]
  dsimp only
  rw [if_pos ⟨hc, hq, hs, hi⟩, setPort_eq h]

/-- Any other one finds no challenge, or a slot that is locked out (R344, R346). -/
theorem respond_refused (hc : q.chal ≠ .challenged ∨ q.slot ≠ sl ∨ q.idx < 4) :
    e.respond n sl = e.putPort n { q with result := if (e.key sl).lock.isSome then 3 else 5 } := by
  unfold respond
  rw [port_eq h]
  dsimp only
  rw [if_neg (fun ⟨chal, slot, _, idx⟩ => hc.elim (· chal) (·.elim (· slot) (Nat.not_lt.mpr idx))), secResult_eq h]
  simp only [hs, ne_eq, not_false_eq_true, true_and, locked]

end

theorem respond_zero {e : Engine} {n : Nat} {q : PortSec} (h : e.sec.ports[n]? = some q) :
    e.respond n 0 = e.putPort n { q with result := 5 } := by
  unfold respond
  dsimp only
  rw [if_neg (by simp), if_neg (by simp), secResult_eq h]

/-! ### The check of a response (R344, R346) -/

end Engine

/-- The state of a port whose response has been checked: the buffer, the challenge and its nonce are gone (R344). -/
def PortSec.checked (q : PortSec) : PortSec := { q with buf := List.replicate 8 0#32, idx := 0, chal := .idle, nonce := 0#128 }

/-- The state of a slot after one more failure (R346). -/
def KeySlot.failed (k : KeySlot) : KeySlot :=
  if 7 ≤ k.consec then
    { k with fails := min (k.fails + 1) 255, consec := 0, level := min (k.level + 1) 7, lock := some (2 ^ min (10 + k.level) 16) }
  else { k with fails := min (k.fails + 1) 255, consec := k.consec + 1 }

namespace Engine

@[simp] theorem keepSess_sec (e : Engine) (p sl : Nat) : (e.keepSess p sl).sec = e.sec := by unfold keepSess; split <;> rfl
@[simp] theorem keepSess_regs (e : Engine) (p sl : Nat) : (e.keepSess p sl).regs = e.regs := by unfold keepSess; split <;> rfl
@[simp] theorem keepSess_arriving (e : Engine) (p sl : Nat) : (e.keepSess p sl).arriving = e.arriving := by
  unfold keepSess; split <;> rfl
@[simp] theorem keepSess_time (e : Engine) (p sl : Nat) : (e.keepSess p sl).time = e.time := by unfold keepSess; split <;> rfl
@[simp] theorem rd_keepSess (e : Engine) (p sl j : Nat) : (e.keepSess p sl).rd j = e.rd j := by rw [rd_eq, rd_eq, keepSess_regs]

theorem keepSess_event (e : Engine) (p sl source code prio arg : Nat) :
    (e.keepSess p sl).event source code prio arg = e.event source code prio arg := by
  unfold event
  rw [keepSess_time]

section
variable {e : Engine} {n : Nat} {q : PortSec} (h : e.sec.ports[n]? = some q)
include h

/-- The end of a check clears the port (R344). -/
theorem checkEnds_eq : ((e.clearBuf n).setPort n fun q => { q with chal := .idle, nonce := 0#128 }) = e.putPort n q.checked := by
  rw [clearBuf_eq h, setPort_eq (putPort_here h _), putPort_putPort]
  rfl

theorem checkDone_idle (hc : q.chal ≠ .checking) : e.checkDone n = e := by
  unfold checkDone
  dsimp only
  rw [port_eq h, if_pos hc]

end

/-- The operations that a check ends with, after it has changed registers, pushed events, and left the port as q'. -/
theorem Pushes.checkEnds {vs : List Event} {a b : Engine} {n : Nat} {q q' : PortSec} (h : Pushes vs (a.putPort n q') b)
    (ha : a.sec.ports[n]? = some q) :
    Pushes vs (a.putPort n q'.checked) ((b.clearBuf n).setPort n fun q => { q with chal := .idle, nonce := 0#128 }) := by
  have here : b.sec.ports[n]? = some q' := by rw [h.sec]; exact putPort_here ha q'
  rw [checkEnds_eq here, ← putPort_putPort a n q' q'.checked]
  exact h.putPort n _

section
variable {e : Engine} {n : Nat} {q : PortSec} (h : e.sec.ports[n]? = some q) {k : KeySlot} {sl : Nat}
  (hk : e.sec.slots[sl - 1]? = some k)
include h hk

/-- A response that matches opens the session, with the interrupt and the event where it is enabled (R344). -/
theorem secOpened_spec :
    Pushes (if e.rb R.SEC_CTL 2 then [e.event 0xE 0x01 3 (n * 16 + sl)] else [])
      (((e.keepSess n sl).putKey sl { k with consec := 0 }).putPort n
        { q with sess := upd q.sess (sl - 1) fun _ => some 0, result := 1 }) (e.secOpened n sl) ∧
    (e.secOpened n sl).rd (istatKey 0x04) = e.rd (istatKey 0x04) ||| 1#32 ∧ RegsKept [istatKey 0x04] e (e.secOpened n sl) := by
  have key : (e.keepSess n sl).sec.slots[sl - 1]? = some k := by rw [keepSess_sec]; exact hk
  have port : ((e.keepSess n sl).putKey sl { k with consec := 0 }).sec.ports[n]? = some q := by
    unfold putKey
    rw [keepSess_sec]
    exact h
  have opened : e.secOpened n sl = ((((e.keepSess n sl).putKey sl { k with consec := 0 }).putPort n
      { q with sess := upd q.sess (sl - 1) fun _ => some 0, result := 1 }).istat 0x04 1).pushIf (e.rb R.SEC_CTL 2) 0xE 0x01 3
        (n * 16 + sl) := by
    unfold secOpened
    rw [setKey_eq key]
    dsimp only
    rw [setPort_eq port]
    simp only [rb, rd_putPort, rd_putKey, rd_keepSess, secArg]
  have said := (onlyRegs_istat (((e.keepSess n sl).putKey sl { k with consec := 0 }).putPort n
      { q with sess := upd q.sess (sl - 1) fun _ => some 0, result := 1 }) 0x04 1).pushes.pushIf (e.rb R.SEC_CTL 2) 0xE 0x01 3
        (n * 16 + sl)
  rw [← opened, List.nil_append] at said
  refine ⟨?_, ?_, fun j hj => ?_⟩
  · rw [← keepSess_event e n sl]
    exact said
  · rw [opened, rd_pushIf, rd_istat_same, rd_putPort, rd_putKey, rd_keepSess]
    rfl
  · rw [opened, rd_pushIf, rd_istat_other _ _ _ _ (by simpa using hj), rd_putPort, rd_putKey, rd_keepSess]

/-- One that does not counts, and the eighth in sequence locks the slot out (R344, R346). -/
theorem secFail_spec :
    Pushes ([e.event 0xE 0x02 1 (n * 16 + sl)] ++ if 7 ≤ k.consec then [e.event 0xE 0x03 0 (n * 16 + sl)] else [])
      ((e.putKey sl k.failed).putPort n { q with result := 2 }) (e.secFail n sl) ∧
    (e.secFail n sl).rd (istatKey 0x04) = e.rd (istatKey 0x04) ||| (if 7 ≤ k.consec then 6#32 else 2#32) ∧
    RegsKept [istatKey 0x04] e (e.secFail n sl) := by
  let k' : KeySlot := { k with fails := min (k.fails + 1) 255, consec := k.consec + 1 }
  let base := (e.putKey sl k').putPort n { q with result := 2 }
  let told := (base.istat 0x04 2).push 0xE 0x02 1 (secArg n sl)
  have key : base.sec.slots[sl - 1]? = some k' := putKey_here hk k'
  have said : Pushes [e.event 0xE 0x02 1 (secArg n sl)] base told := (onlyRegs_istat base 0x04 2).pushes.push 0xE 0x02 1 (secArg n sl)
  have key' : told.sec.slots[sl - 1]? = some k' := by rw [said.sec]; exact key
  have fail : e.secFail n sl = if 8 ≤ k.consec + 1 then told.lockout n sl else told := by
    have port : (e.putKey sl k').sec.ports[n]? = some q := h
    unfold secFail
    rw [setKey_eq hk]
    dsimp only
    rw [secResult_eq port]
    exact congrArg (fun x : KeySlot => if 8 ≤ x.consec then told.lockout n sl else told) (key_eq key')
  rw [fail]
  by_cases eighth : 7 ≤ k.consec
  · have failed : k.failed = { k' with consec := 0, level := min (k.level + 1) 7, lock := some (2 ^ min (10 + k.level) 16) } :=
      if_pos eighth
    have locked : told.lockout n sl = ((told.putKey sl k.failed).istat 0x04 4).push 0xE 0x03 0 (secArg n sl) := by
      unfold lockout
      dsimp only
      rw [setKey_eq key', key_eq key', failed]
    have again := (((said.putKey sl k.failed).istat 0x04 4).push 0xE 0x03 0 (secArg n sl))
    rw [← locked] at again
    rw [if_pos (show 8 ≤ k.consec + 1 by omega), if_pos eighth, if_pos eighth]
    refine ⟨?_, ?_, fun j hj => ?_⟩
    · have both : base.putKey sl k.failed = (e.putKey sl k.failed).putPort n { q with result := 2 } :=
        congrArg (fun x : Engine => x.putPort n { q with result := 2 }) (putKey_putKey e sl k' k.failed)
      rw [← both]
      exact again
    · rw [locked, rd_push, rd_istat_same, rd_putKey, rd_push, rd_istat_same, BitVec.or_assoc]
      rfl
    · have other : j ≠ istatKey 0x04 := by simpa using hj
      rw [locked, rd_push, rd_istat_other _ _ _ _ other, rd_putKey, rd_push, rd_istat_other _ _ _ _ other]
      rfl
  · have failed : k.failed = k' := if_neg eighth
    rw [if_neg (show ¬8 ≤ k.consec + 1 by omega), if_neg eighth, if_neg eighth, List.append_nil, failed]
    refine ⟨said, ?_, fun j hj => ?_⟩
    · rw [rd_push, rd_istat_same]
      rfl
    · rw [rd_push, rd_istat_other _ _ _ _ (by simpa using hj)]
      rfl

end

section
variable {e : Engine} {n : Nat} {q : PortSec} (h : e.sec.ports[n]? = some q) {k : KeySlot}
  (hk : e.sec.slots[q.slot - 1]? = some k) (hc : q.chal = .checking)
include h hk hc

/-- The slot has been locked out in the meantime (R344). -/
theorem checkDone_locked (hl : k.lock.isSome = true) : e.checkDone n = e.putPort n { q.checked with result := 3 } := by
  unfold checkDone
  dsimp only
  rw [port_eq h, if_neg (not_not.mpr hc), if_pos (by rw [locked, key_eq hk]; exact hl), secResult_eq h,
    checkEnds_eq (putPort_here h _), putPort_putPort]
  rfl

omit hc in
/-- It is compared with the digest (R343, R344). -/
theorem secMatches_eq : e.secMatches n = ((q.buf.take 4).flatMap bytesOfWord == (hmac k.key
    (bytesOfNat 16 q.nonce.toNat ++ [BitVec.ofNat 8 n] ++ bytesOfNat 2 q.ctr)).take 16) := by
  unfold secMatches
  rw [port_eq h]
  dsimp only
  rw [key_eq hk]
  rfl

theorem checkDone_matched (hl : k.lock = none) (hm : e.secMatches n = true) :
    let p := { q.checked with result := 1, sess := upd q.sess (q.slot - 1) fun _ => some 0 }
    (e.checkDone n).rd (istatKey 0x04) = e.rd (istatKey 0x04) ||| 1#32 ∧ RegsKept [istatKey 0x04] e (e.checkDone n) ∧
    e.checkDone n = { (e.keepSess n q.slot).marked (e.checkDone n) with
      sec := { e.sec with ports := e.sec.ports.set n p, slots := e.sec.slots.set (q.slot - 1) { k with consec := 0 } }
      arriving := e.arriving ++ if e.rb R.SEC_CTL 2 then [e.event 0xE 0x01 3 (n * 16 + q.slot)] else [] } := by
  intro p
  have done : e.checkDone n =
      ((e.secOpened n q.slot).clearBuf n).setPort n fun q => { q with chal := .idle, nonce := 0#128 } := by
    unfold checkDone
    dsimp only
    rw [port_eq h, if_neg (not_not.mpr hc), if_neg (by rw [locked, key_eq hk, hl]; decide), if_pos hm]
  obtain ⟨said, hist, kept⟩ := secOpened_spec h hk
  have ends := said.checkEnds (q := q) (by rw [← keepSess_sec e n q.slot] at h; exact h)
  rw [← done] at ends
  have rd_done (j : Nat) : (e.checkDone n).rd j = (e.secOpened n q.slot).rd j := by rw [done, rd_setPort, rd_clearBuf]
  refine ⟨(rd_done _).trans hist, kept.of_rd rd_done, ?_⟩
  rw [← keepSess_sec e n q.slot, ← keepSess_arriving e n q.slot]
  exact ends

theorem checkDone_unmatched (hl : k.lock = none) (hm : e.secMatches n = false) :
    (e.checkDone n).rd (istatKey 0x04) = e.rd (istatKey 0x04) ||| (if 7 ≤ k.consec then 6#32 else 2#32) ∧
    RegsKept [istatKey 0x04] e (e.checkDone n) ∧
    e.checkDone n = { e.marked (e.checkDone n) with
      sec := { e.sec with ports := e.sec.ports.set n { q.checked with result := 2 }, slots := e.sec.slots.set (q.slot - 1) k.failed }
      arriving := e.arriving ++ [e.event 0xE 0x02 1 (n * 16 + q.slot)] ++
        if 7 ≤ k.consec then [e.event 0xE 0x03 0 (n * 16 + q.slot)] else [] } := by
  have done : e.checkDone n =
      ((e.secFail n q.slot).clearBuf n).setPort n fun q => { q with chal := .idle, nonce := 0#128 } := by
    unfold checkDone
    dsimp only
    rw [port_eq h, if_neg (not_not.mpr hc), if_neg (by rw [locked, key_eq hk, hl]; decide), if_neg (by rw [hm]; decide)]
  obtain ⟨said, hist, kept⟩ := secFail_spec h hk
  have ends := said.checkEnds (q := q) h
  rw [← done] at ends
  have rd_done (j : Nat) : (e.checkDone n).rd j = (e.secFail n q.slot).rd j := by rw [done, rd_setPort, rd_clearBuf]
  refine ⟨(rd_done _).trans hist, kept.of_rd rd_done, ?_⟩
  rw [List.append_assoc]
  exact ends

end

/-- A write of the port's state leaves the slots, which may be written as they were. -/
theorem putPort_key {e : Engine} {i : Nat} {k : KeySlot} (hk : e.sec.slots[i - 1]? = some k) (n : Nat) (x : PortSec) :
    e.putPort n x = { e with sec := { e.sec with ports := e.sec.ports.set n x, slots := e.sec.slots.set (i - 1) k } } :=
  (congrArg (fun f : Engine => f.putPort n x) (putKey_self hk)).symm

/-! ### Challenges that are too old (R345) -/

theorem expired_iff {e : Engine} {n : Nat} {q : PortSec} (h : e.sec.ports[n]? = some q) : e.expired n = true ↔
    e.cyc.boundary = true ∧ q.chal = .challenged ∧ e.rf R.SEC_CTL 16 16 ≠ 0 ∧ e.rf R.SEC_CTL 16 16 ≤ q.age := by
  unfold expired
  rw [port_eq h]
  simp only [Bool.and_eq_true, beq_iff_eq, bne_iff_ne, decide_eq_true_eq, and_assoc]

end Engine

/-! ### The commands of O59 -/

theorem exec_challenge (s : State) (p : Port) (sl : BitVec 2) :
    exec (.challenge p sl) s = doneS (s.secCommand p 1 sl.toNat 0 fun e => e.challenge (portCode p) sl.toNat) := rfl

theorem exec_respond (s : State) (p : Port) (sl : BitVec 2) :
    exec (.respond p sl) s = doneS (s.secCommand p 2 sl.toNat 0 fun e => e.respond (portCode p) sl.toNat) := rfl

theorem exec_responseCheckComplete (s : State) (p : Port) :
    exec (.responseCheckComplete p) s = done s fun e => e.checkDone (portCode p) := rfl

section
variable {s : State} {p : Port} {q : PortSec} (hr : s.ready p = true) (hq : s.eng.sec.ports[portCode p]? = some q)
  (hchal : q.chal ≠ .programming) {sl : BitVec 2} {t : PortSec} (ht : q.touched sl.toNat = t)
include hr hq hchal ht

/-- A challenge of a port whose turn has come (R343). -/
theorem leaves_challenge {e : Engine} (he : ∀ f : Engine, f = s.puts p t → f.sec.ports[portCode p]? = some t →
      f.challenge (portCode p) sl.toNat = e) : Leaves (.challenge p sl) s e := by
  obtain ⟨-, -, acts⟩ := exec_secCommand (exec_challenge s p sl)
  rw [← he _ (State.serving_putPort hr t) (Engine.putPort_here (State.serving_port hr hq) t), ← ht]
  exact acts hr q hq hchal

/-- A response of a port whose turn has come (R344). -/
theorem leaves_respond {e : Engine} (he : ∀ f : Engine, f = s.puts p t → f.sec.ports[portCode p]? = some t →
      f.respond (portCode p) sl.toNat = e) : Leaves (.respond p sl) s e := by
  obtain ⟨-, -, acts⟩ := exec_secCommand (exec_respond s p sl)
  rw [← he _ (State.serving_putPort hr t) (Engine.putPort_here (State.serving_port hr hq) t), ← ht]
  exact acts hr q hq hchal

end

theorem State.puts_putPort (s : State) (p : Port) (x y : PortSec) : (s.puts p x).putPort (portCode p) y = s.puts p y := by
  unfold Engine.putPort puts
  rw [List.set_set]

/-- Settles O59: the commands of a port by the port's and the slot's state, a check by the slot's lockout and the comparison, an
old challenge by its age. -/
theorem keyChallenges : Obligations.KeyChallenges := by
  refine ⟨fun s p sl op c hc => ?_, fun s p q hr hq hchal => ⟨?_, ?_, fun sl hsl => ?_⟩, fun s p q hq => ⟨fun hc => ?_, fun k hc h1 hk =>
    ⟨fun hl => ?_, fun hl hm => ?_, fun hl hm => ?_⟩, fun hold => ?_, fun hyoung => ?_⟩⟩
  · obtain ⟨rfl, rfl⟩ | ⟨rfl, rfl⟩ := hc
    · obtain ⟨waits, busy, -⟩ := exec_secCommand (exec_challenge s p sl)
      exact ⟨waits, busy⟩
    · obtain ⟨waits, busy, -⟩ := exec_secCommand (exec_respond s p sl)
      exact ⟨waits, busy⟩
  · obtain ⟨-, -, acts⟩ := exec_secCommand (exec_challenge s p 0#2)
    have leaves := acts hr q hq hchal
    rw [show q.touched (0#2 : BitVec 2).toNat = q from rfl, Engine.putPort_self (State.serving_port hr hq)] at leaves
    exact leaves
  · obtain ⟨-, -, acts⟩ := exec_secCommand (exec_respond s p 0#2)
    have leaves := acts hr q hq hchal
    rw [show q.touched (0#2 : BitVec 2).toNat = q from rfl, Engine.putPort_self (State.serving_port hr hq),
      show (0#2 : BitVec 2).toNat = 0 from rfl, Engine.respond_zero (State.serving_port hr hq), State.serving_putPort hr] at leaves
    exact leaves
  · have nz := toNat_ne_zero hsl
    have ht := q.touched_of_ne nz
    refine ⟨fun hl => ?_, fun hl hp => ?_, fun hl hp => ?_, fun hc hslot hi => ?_, fun hno => ?_⟩
    · refine leaves_challenge hr hq hchal ht fun f hf here => ?_
      rw [Engine.challenge_locked here nz (by rw [hf]; exact hl), hf, State.puts_putPort]
      rfl
    · refine leaves_challenge hr hq hchal ht fun f hf here => ?_
      rw [Engine.challenge_unprogrammed here nz (by rw [hf]; exact hl) (by rw [hf]; exact hp), hf, State.puts_putPort]
      rfl
    · refine leaves_challenge hr hq hchal ht fun f hf here => ?_
      rw [Engine.challenge_fresh here nz (by rw [hf]; exact hl) (by rw [hf]; exact hp), hf, State.puts_putPort]
      rfl
    · refine leaves_respond hr hq hchal ht fun f hf here => ?_
      rw [Engine.respond_checked here nz hc hslot hi, hf, State.puts_putPort]
      rfl
    · refine leaves_respond hr hq hchal ht fun f hf here => ?_
      rw [Engine.respond_refused here nz hno, hf, State.puts_putPort]
      rfl
  · exact (exec_responseCheckComplete s p).trans (by rw [done, Engine.checkDone_idle hq hc])
  · have leaves : Leaves (.responseCheckComplete p) s (s.eng.checkDone (portCode p)) := exec_responseCheckComplete s p
    rw [Engine.checkDone_locked hq hk hc hl, Engine.putPort_key hk] at leaves
    exact leaves
  · exact does_of_done (exec_responseCheckComplete s p)
      (Engine.checkDone_matched hq hk hc hl ((Engine.secMatches_eq hq hk).trans hm))
  · obtain ⟨hist, kept, rest⟩ := Engine.checkDone_unmatched hq hk hc hl ((Engine.secMatches_eq hq hk).trans hm)
    refine does_of_done (exec_responseCheckComplete s p) ⟨hist, kept, ?_⟩
    exact rest
  · have leaves : Leaves (.challengeExpired p) s (s.eng.expire (portCode p)) :=
      leaves_guarded (·.expired (portCode p)) (·.expire (portCode p)) rfl ((Engine.expired_iff hq).mpr hold)
    rw [Engine.expire, Engine.setPort_eq hq] at leaves
    exact leaves
  · exact idles_guarded (·.expired (portCode p)) (·.expire (portCode p)) rfl
      (Bool.eq_false_iff.mpr fun h => hyoung ((Engine.expired_iff hq).mp h))

end Sys2Proof.Machine
end

section
/-! PROOF. O60: the key buffer, the ends of sessions, programming and lockouts. -/

namespace Sys2Proof.Machine

namespace Engine

/-! ### The buffer and the sessions (R342, R349) -/

section
variable {e : Engine} {n : Nat} {q : PortSec} (h : e.sec.ports[n]? = some q)
include h

theorem secBuf_room (hi : q.idx < 8) (v : Word) : e.secBuf n v = e.putPort n { q with buf := q.buf.set q.idx v, idx := q.idx + 1 } := by
  unfold secBuf
  rw [setPort_eq h, if_pos hi]

theorem secBuf_full (hi : 8 ≤ q.idx) (v : Word) : e.secBuf n v = e := by
  unfold secBuf
  rw [setPort_eq h, if_neg (by omega), putPort_self h]

/-- CLOSE of slot 0 ends every session of the port (R349). -/
theorem secClose_all : e.secClose n 0 = (((e.keepSess n 1).keepSess n 2).keepSess n 3).putPort n { q with sess := [none, none, none] } := by
  have kept : (((e.keepSess n 1).keepSess n 2).keepSess n 3).sec.ports[n]? = some q := by simpa only [keepSess_sec] using h
  exact setPort_eq kept _

/-- CLOSE of another slot ends that slot's (R349). -/
theorem secClose_one {sl : Nat} (hs : sl ≠ 0) :
    e.secClose n sl = (e.keepSess n sl).putPort n { q with sess := upd q.sess (sl - 1) fun _ => none } := by
  have kept : (e.keepSess n sl).sec.ports[n]? = some q := by rw [keepSess_sec]; exact h
  unfold secClose
  rw [if_neg hs]
  dsimp only
  rw [setPort_eq kept, if_neg hs]

/-- What was known of a session at the start of the cycle does not change with the port's state, while it stays open or closed. -/
theorem keepSess_putPort {x : PortSec} {sl : Nat}
    (hx : (x.sess.getD (sl - 1) none).isSome = (q.sess.getD (sl - 1) none).isSome) :
    (e.putPort n x).keepSess n sl = (e.keepSess n sl).putPort n x := by
  unfold keepSess
  rw [sessOpen_putPort h x sl hx]
  unfold putPort
  split <;> rfl

end

end Engine

/-- A session that has ended has no idle count that could have started afresh. -/
theorem PortSec.touched_ended (q : PortSec) {sl : Nat} (hs : sl ≠ 0) :
    upd (q.touched sl).sess (sl - 1) (fun _ => none) = q.sess.set (sl - 1) none := by
  unfold touched upd
  rw [if_neg hs, List.modify_modify_eq, List.set_eq_modify]
  rfl

namespace Engine

/-! ### Programming (R351) -/

section
variable {e : Engine} {n : Nat} {q : PortSec} (h : e.sec.ports[n]? = some q)
include h

/-- The conditions of R351. -/
theorem mayProgram_iff (sl : BitVec 2) (cf : BitVec 16) : e.mayProgram n sl.toNat cf.toNat = true ↔
    e.sessOpen n 3 = true ∧ cf = 0xA55A#16 ∧ (e.sys.mode = .measure ∨ e.sys.mode = .unload) ∧ sl ≠ 0#2 ∧
      (e.key sl.toNat).prog = false ∧ q.idx = 8 ∧ (∃ w ∈ q.buf, w ≠ 0#32) ∧ (∃ w ∈ q.buf, w ≠ 0xFFFFFFFF#32) ∧
      ∀ o, o < 3 → o ≠ n → (e.port o).chal ≠ .programming := by
  have confirm : cf.toNat = 0xA55A ↔ cf = 0xA55A#16 := ⟨fun hc => BitVec.eq_of_toNat_eq hc, fun hc => by rw [hc]; rfl⟩
  have slot : sl.toNat ≠ 0 ↔ sl ≠ 0#2 := ⟨fun hs hz => hs (by rw [hz]; rfl), toNat_ne_zero⟩
  have others : (∀ o, o < 3 → o = n ∨ (e.port o).chal ≠ .programming) ↔
      ∀ o, o < 3 → o ≠ n → (e.port o).chal ≠ .programming :=
    forall_congr' fun _ => imp_congr_right fun _ => or_iff_not_imp_left
  unfold mayProgram
  rw [port_eq h, ← confirm, ← slot, ← others]
  simp only [Bool.and_eq_true, Bool.or_eq_true, beq_iff_eq, bne_iff_ne, Bool.not_eq_true', List.all_eq_false, List.all_eq_true,
    List.mem_range, and_assoc]

theorem program_taken {sl cf : Nat} (hm : e.mayProgram n sl cf = true) :
    e.program n sl cf = e.putPort n { q with chal := .programming, slot := sl, nonce := 0#128 } := by
  unfold program
  rw [if_pos hm, setPort_eq h]

theorem program_refused {sl cf : Nat} (hm : e.mayProgram n sl cf = false) :
    e.program n sl cf = e.putPort n { q with buf := List.replicate 8 0#32, idx := 0, result := 8 } := by
  unfold program
  rw [if_neg (by rw [hm]; decide), secResult_eq h, clearBuf_eq (putPort_here h _), putPort_putPort]

theorem programDone_idle (hc : q.chal ≠ .programming) (burned : List Word) : e.programDone n burned = e := by
  unfold programDone
  dsimp only
  rw [port_eq h, if_pos hc]

end

/-- What every session of a slot was at the start of the cycle is kept, for each port (R351). -/
def keepAll (e : Engine) (sl : Nat) : Engine := ((e.keepSess 0 sl).keepSess 1 sl).keepSess 2 sl

theorem keepAll_sec (e : Engine) (sl : Nat) : (e.keepAll sl).sec = e.sec := by simp only [keepAll, keepSess_sec]
theorem keepAll_arriving (e : Engine) (sl : Nat) : (e.keepAll sl).arriving = e.arriving := by
  simp only [keepAll, keepSess_arriving]
theorem rd_keepAll (e : Engine) (sl j : Nat) : (e.keepAll sl).rd j = e.rd j := by simp only [keepAll, rd_keepSess]
theorem keepAll_event (e : Engine) (sl source code prio arg : Nat) :
    (e.keepAll sl).event source code prio arg = e.event source code prio arg := by
  simp only [keepAll, keepSess_event]

/-- How the read-back of a programmed slot is told: PROGRAMMED with the interrupt and an event, or PROG_FAILED as an error. -/
def burnTold (e : Engine) (n sl : Nat) (ok : Bool) : Engine :=
  if ok then ((e.secResult n 7).istat 0x04 32).push 0xE 0x06 2 (secArg n sl) else (e.secResult n 9).estat 0x04 2

theorem burnTold_spec {e : Engine} {n : Nat} {q : PortSec} (h : e.sec.ports[n]? = some q) (sl : Nat) (ok : Bool) :
    Pushes (if ok then [e.event 0xE 0x06 2 (n * 16 + sl)] else []) (e.putPort n { q with result := if ok then 7 else 9 })
      (e.burnTold n sl ok) ∧
    (e.burnTold n sl ok).rd (istatKey 0x04) = e.rd (istatKey 0x04) ||| (if ok then 32#32 else 0#32) ∧
    (e.burnTold n sl ok).rd (estatKey 0x04) = e.rd (estatKey 0x04) ||| (if ok then 0#32 else 2#32) ∧
    RegsKept [istatKey 0x04, estatKey 0x04] e (e.burnTold n sl ok) := by
  cases ok with
  | true =>
    have told : e.burnTold n sl true = ((e.putPort n { q with result := 7 }).istat 0x04 32).push 0xE 0x06 2 (secArg n sl) := by
      unfold burnTold
      rw [if_pos rfl, secResult_eq h]
    rw [told]
    refine ⟨(onlyRegs_istat _ 0x04 32).pushes.push _ _ _ _, ?_, ?_, fun j hj => ?_⟩
    · rw [rd_push, rd_istat_same]
      rfl
    · rw [rd_push, rd_istat_other _ _ _ _ (by decide)]
      exact BitVec.or_zero.symm
    · rw [rd_push, rd_istat_other _ _ _ _ fun he => hj (by simp [he])]
      rfl
  | false =>
    have told : e.burnTold n sl false = (e.putPort n { q with result := 9 }).estat 0x04 2 := by
      unfold burnTold
      rw [if_neg (by decide), secResult_eq h]
    rw [told]
    refine ⟨(onlyRegs_estat _ 0x04 2).pushes, ?_, ?_, fun j hj => ?_⟩
    · rw [rd_estat_other _ _ _ _ (by decide)]
      exact BitVec.or_zero.symm
    · rw [rd_estat_same]
      rfl
    · rw [rd_estat_other _ _ _ _ fun he => hj (by simp [he])]
      rfl

/-- Registers and events over a written slot and a written port. -/
theorem Pushes.written {vs : List Event} {a b : Engine} {n i : Nat} {x : PortSec} {y : KeySlot}
    (h : Pushes vs ((a.putKey i y).putPort n x) b) : b = { a.marked b with
      sec := { a.sec with ports := a.sec.ports.set n x, slots := a.sec.slots.set (i - 1) y }
      arriving := a.arriving ++ vs } := h

section
variable {e : Engine} {n : Nat} {q : PortSec} (h : e.sec.ports[n]? = some q) {k : KeySlot}
  (hk : e.sec.slots[q.slot - 1]? = some k) (hc : q.chal = .programming) {burned : List Word} (hb : burned.length = 8)
include h hk hc hb

/-- The words that a slot of eight words reads back are those that were burned. -/
theorem programDone_eq :
    let y : KeySlot := { k with prog := true, key := burned.flatMap bytesOfWord, lock := none }
    e.programDone n burned = (((((e.keepAll q.slot).putKey q.slot y).burnTold n q.slot (burned == q.buf)).clearBuf n).setPort n
      fun q => { q with chal := .idle }) := by
  intro y
  have words : (List.range 8).map (fun i => burned.getD i 0#32) = burned := by
    refine List.ext_getElem (by simp [hb]) fun i h1 h2 => ?_
    simp [List.getElem?_eq_getElem h2]
  have key : (e.keepAll q.slot).sec.slots[q.slot - 1]? = some k := by rw [keepAll_sec]; exact hk
  unfold programDone burnTold
  dsimp only
  rw [port_eq h, if_neg (not_not.mpr hc), words]
  simp only [List.foldl_cons, List.foldl_nil, beq_iff_eq]
  rw [show ((e.keepSess 0 q.slot).keepSess 1 q.slot).keepSess 2 q.slot = e.keepAll q.slot from rfl, setKey_eq key]

theorem programDone_spec :
    let y : KeySlot := { k with prog := true, key := burned.flatMap bytesOfWord, lock := none }
    let ok := burned == q.buf
    (e.programDone n burned).rd (istatKey 0x04) = e.rd (istatKey 0x04) ||| (if ok then 32#32 else 0#32) ∧
    (e.programDone n burned).rd (estatKey 0x04) = e.rd (estatKey 0x04) ||| (if ok then 0#32 else 2#32) ∧
    RegsKept [istatKey 0x04, estatKey 0x04] e (e.programDone n burned) ∧
    e.programDone n burned = { (e.keepAll q.slot).marked (e.programDone n burned) with
      sec := { e.sec with
        ports := e.sec.ports.set n
          { q with buf := List.replicate 8 0#32, idx := 0, chal := .idle, result := if ok then 7 else 9 }
        slots := e.sec.slots.set (q.slot - 1) y }
      arriving := e.arriving ++ if ok then [e.event 0xE 0x06 2 (n * 16 + q.slot)] else [] } := by
  intro y ok
  have done := programDone_eq h hk hc hb
  let base := (e.keepAll q.slot).putKey q.slot y
  have port : base.sec.ports[n]? = some q := by
    show (e.keepAll q.slot).sec.ports[n]? = some q
    rw [keepAll_sec]
    exact h
  obtain ⟨said, hist, hest, kept⟩ := burnTold_spec port q.slot ok
  have rd_done (j : Nat) : (e.programDone n burned).rd j = (base.burnTold n q.slot ok).rd j := by
    rw [done, rd_setPort, rd_clearBuf]
  have rd_base (j : Nat) : base.rd j = e.rd j := rd_keepAll e q.slot j
  refine ⟨?_, ?_, fun j hj => ?_, ?_⟩
  · rw [rd_done, hist, rd_base]
  · rw [rd_done, hest, rd_base]
  · rw [rd_done, kept j hj, rd_base]
  · have here : (base.burnTold n q.slot ok).sec.ports[n]? = some { q with result := if ok then 7 else 9 } := by
      rw [said.sec]
      exact putPort_here port _
    have ends := said.putPort n { q with buf := List.replicate 8 0#32, idx := 0, chal := .idle, result := if ok then 7 else 9 }
    rw [putPort_putPort] at ends
    have last : e.programDone n burned = (base.burnTold n q.slot ok).putPort n
        { q with buf := List.replicate 8 0#32, idx := 0, chal := .idle, result := if ok then 7 else 9 } := by
      rw [done, clearBuf_eq here, setPort_eq (putPort_here here _), putPort_putPort]
    rw [← last, show base.event 0xE 0x06 2 (n * 16 + q.slot) = e.event 0xE 0x06 2 (n * 16 + q.slot) from
      keepAll_event e q.slot _ _ _ _] at ends
    have written := ends.written
    rw [keepAll_sec, keepAll_arriving] at written
    exact written

end

/-! ### Idle sessions and lockouts (R346, R349) -/

section
variable {e : Engine} {n : Nat} {q : PortSec} (h : e.sec.ports[n]? = some q)
include h

theorem timedOutSess_iff (sl : BitVec 2) : e.timedOutSess n sl.toNat = true ↔
    e.cyc.boundary = true ∧ e.rf R.SEC_CTL 16 16 ≠ 0 ∧ sl ≠ 0#2 ∧
      ∃ m, q.sess[sl.toNat - 1]? = some (some m) ∧ e.rf R.SEC_CTL 16 16 ≤ m := by
  have slot : sl.toNat ≠ 0 ↔ sl ≠ 0#2 := ⟨fun hs hz => hs (by rw [hz]; rfl), toNat_ne_zero⟩
  unfold timedOutSess
  rw [port_eq h, ← slot, List.getD_eq_getElem?_getD]
  dsimp only
  rcases q.sess[sl.toNat - 1]? with _ | _ | m
  · simp
  · simp
  · simp [and_assoc]

/-- An idle session ends, with the interrupt and the event (R349). -/
theorem sessTimeout_spec {sl : Nat} (hs : sl ≠ 0) :
    (e.sessTimeout n sl).rd (istatKey 0x04) = e.rd (istatKey 0x04) ||| 8#32 ∧ RegsKept [istatKey 0x04] e (e.sessTimeout n sl) ∧
    e.sessTimeout n sl = { (e.keepSess n sl).marked (e.sessTimeout n sl) with
      sec := { e.sec with ports := e.sec.ports.set n { q with sess := q.sess.set (sl - 1) none } }
      arriving := e.arriving ++ [e.event 0xE 0x04 2 (n * 16 + sl)] } := by
  let base := (e.keepSess n sl).putPort n { q with sess := q.sess.set (sl - 1) none }
  have ends : e.sessTimeout n sl = (base.istat 0x04 8).push 0xE 0x04 2 (secArg n sl) := by
    unfold sessTimeout
    rw [secClose_one h hs, upd, ← List.set_eq_modify]
  have said := (onlyRegs_istat base 0x04 8).pushes.push 0xE 0x04 2 (secArg n sl)
  rw [← ends] at said
  refine ⟨?_, fun j hj => ?_, ?_⟩
  · rw [ends, rd_push, rd_istat_same, rd_putPort, rd_keepSess]
    rfl
  · rw [ends, rd_push, rd_istat_other _ _ _ _ (by simpa using hj), rd_putPort, rd_keepSess]
  · rw [← keepSess_event e n sl, ← keepSess_sec e n sl, ← keepSess_arriving e n sl]
    exact said

end

end Engine

/-! ### The commands of O60 -/

theorem exec_clear (s : State) (p : Port) :
    exec (.clear p) s = doneS (s.secCommand p 5 0 0 fun e => e.clearBuf (portCode p)) := rfl

theorem exec_close (s : State) (p : Port) (sl : BitVec 2) :
    exec (.close p sl) s = doneS (s.secCommand p 3 sl.toNat 0 fun e => e.secClose (portCode p) sl.toNat) := rfl

theorem exec_program (s : State) (p : Port) (sl : BitVec 2) (cf : BitVec 16) : exec (.program p sl cf) s =
    doneS (s.secCommand p 4 sl.toNat cf.toNat fun e => e.program (portCode p) sl.toNat cf.toNat) := rfl

theorem exec_secBufWrite (s : State) (p : Port) (v : Word) : exec (.secBufWrite p v) s =
    doneS (s.command (wrAccess p R.SEC_BUF v) fun s => { s with eng := s.eng.secBuf (portCode p) v }) := rfl

/-- The touched port's state, by the slot that SEC_CMD names. -/
theorem PortSec.touched_eq (q : PortSec) (sl : BitVec 2) : q.touched sl.toNat =
    { q with sess := if sl = 0#2 then q.sess else q.sess.modify (sl.toNat - 1) fun o => o.map fun _ => 0 } := by
  have zero : sl.toNat = 0 ↔ sl = 0#2 := ⟨fun hz => BitVec.eq_of_toNat_eq hz, fun hz => by rw [hz]; rfl⟩
  unfold touched
  simp only [zero]

section
variable {s : State} {p : Port} {q : PortSec} (hr : s.ready p = true) (hq : s.eng.sec.ports[portCode p]? = some q)
include hr hq

omit hq in
theorem leaves_secBufWrite (v : Word) : Leaves (.secBufWrite p v) s ((s.eng.serving p).secBuf (portCode p) v) :=
  leaves_command (g := fun e => e.secBuf (portCode p) v) (exec_secBufWrite s p v) hr (portHas_sec p)

/-- The conditions of R351 for the port as PROGRAM finds it are those of the state before. -/
theorem mayProgram_puts (sl : BitVec 2) (cf : BitVec 16) :
    (s.puts p (q.touched sl.toNat)).mayProgram (portCode p) sl.toNat cf.toNat = true ↔
    s.eng.sessOpen (portCode p) 3 = true ∧ cf = 0xA55A#16 ∧
      ((s.eng.serving p).sys.mode = .measure ∨ (s.eng.serving p).sys.mode = .unload) ∧ sl ≠ 0#2 ∧
      (s.eng.key sl.toNat).prog = false ∧ q.idx = 8 ∧ (∃ w ∈ q.buf, w ≠ 0#32) ∧ (∃ w ∈ q.buf, w ≠ 0xFFFFFFFF#32) ∧
      ∀ o, o < 3 → o ≠ portCode p → (s.eng.port o).chal ≠ .programming := by
  have here := Engine.putPort_here (State.serving_port hr hq) (q.touched sl.toNat)
  have opened : (s.puts p (q.touched sl.toNat)).sessOpen (portCode p) 3 = s.eng.sessOpen (portCode p) 3 := by
    rw [← State.serving_putPort hr, Engine.sessOpen_putPort (State.serving_port hr hq) _ 3 (q.touched_isSome _ _)]
    unfold Engine.sessOpen Engine.key Engine.port
    rw [State.serving_sec hr]
  have others (o : Nat) (ho : o ≠ portCode p) : (s.puts p (q.touched sl.toNat)).port o = s.eng.port o := by
    unfold Engine.port State.puts
    dsimp only
    rw [List.getD_eq_getElem?_getD, List.getD_eq_getElem?_getD, List.getElem?_set_ne ho.symm]
  rw [State.serving_putPort hr] at here
  rw [Engine.mayProgram_iff here, opened]
  refine and_congr_right fun _ => and_congr_right fun _ => and_congr_right fun _ => and_congr_right fun _ =>
    and_congr_right fun _ => and_congr_right fun _ => and_congr_right fun _ => and_congr_right fun _ => ?_
  exact forall_congr' fun o => imp_congr_right fun _ => forall_congr' fun ho => by rw [others o ho]

variable (hchal : q.chal ≠ .programming)
include hchal

theorem clear_leaves : Leaves (.clear p) s (s.puts p { q with buf := List.replicate 8 0#32, idx := 0 }) := by
  obtain ⟨-, -, acts⟩ := exec_secCommand (exec_clear s p)
  have leaves := acts hr q hq hchal
  rw [PortSec.touched_zero, Engine.putPort_self (State.serving_port hr hq), Engine.clearBuf_eq (State.serving_port hr hq),
    State.serving_putPort hr] at leaves
  exact leaves

theorem close_all_leaves : Leaves (.close p 0#2) s
    (((((s.eng.serving p).keepSess (portCode p) 1).keepSess (portCode p) 2).keepSess (portCode p) 3).putPort (portCode p)
      { q with sess := [none, none, none] }) := by
  obtain ⟨-, -, acts⟩ := exec_secCommand (exec_close s p 0#2)
  have leaves := acts hr q hq hchal
  rw [show (0#2 : BitVec 2).toNat = 0 from rfl, PortSec.touched_zero, Engine.putPort_self (State.serving_port hr hq),
    Engine.secClose_all (State.serving_port hr hq)] at leaves
  exact leaves

theorem close_one_leaves {sl : BitVec 2} (hsl : sl ≠ 0#2) : Leaves (.close p sl) s
    (((s.eng.serving p).keepSess (portCode p) sl.toNat).putPort (portCode p) { q with sess := q.sess.set (sl.toNat - 1) none }) := by
  have port := State.serving_port hr hq
  have nz := toNat_ne_zero hsl
  have kept : ((s.eng.serving p).keepSess (portCode p) sl.toNat).sec.ports[portCode p]? = some q := by
    rw [Engine.keepSess_sec]; exact port
  obtain ⟨-, -, acts⟩ := exec_secCommand (exec_close s p sl)
  have leaves := acts hr q hq hchal
  rw [Engine.secClose_one (Engine.putPort_here port _) nz, Engine.keepSess_putPort port (q.touched_isSome _ _),
    Engine.putPort_putPort, q.touched_ended nz] at leaves
  exact leaves

/-- PROGRAM starts where every condition holds, and is refused elsewhere (R351). -/
theorem program_leaves (sl : BitVec 2) (cf : BitVec 16) : Leaves (.program p sl cf) s (s.puts p
    (if (s.puts p (q.touched sl.toNat)).mayProgram (portCode p) sl.toNat cf.toNat then
      { q.touched sl.toNat with chal := .programming, slot := sl.toNat, nonce := 0#128 }
    else { q.touched sl.toNat with buf := List.replicate 8 0#32, idx := 0, result := 8 })) := by
  have here := Engine.putPort_here (State.serving_port hr hq) (q.touched sl.toNat)
  obtain ⟨-, -, acts⟩ := exec_secCommand (exec_program s p sl cf)
  have leaves := acts hr q hq hchal
  rw [State.serving_putPort hr] at here leaves
  cases hm : (s.puts p (q.touched sl.toNat)).mayProgram (portCode p) sl.toNat cf.toNat with
  | true =>
    rw [Engine.program_taken here hm, State.puts_putPort] at leaves
    exact leaves
  | false =>
    rw [Engine.program_refused here hm, State.puts_putPort] at leaves
    exact leaves

end

/-- The end of a session of the port over what is kept of it, written out from the state before. -/
theorem State.putPort_kept {s : State} {p : Port} (hr : s.ready p = true) {e : Engine} (he : e.sec = (s.eng.serving p).sec)
    (x : PortSec) : e.putPort (portCode p) x = { e with sec := { s.eng.sec with ports := s.eng.sec.ports.set (portCode p) x } } := by
  unfold Engine.putPort
  rw [he, State.serving_sec hr]

theorem lockoutEnd_leaves (s : State) (sl : BitVec 2) : Leaves (.lockoutEnd sl) s
    (if sl ≠ 0#2 ∧ (s.eng.key sl.toNat).lock = some 0 then s.eng.setKey sl.toNat fun k => { k with lock := none } else s.eng) := rfl

/-- Settles O60: the commands of a port by the port's state, the end of programming by the read-back, an idle session by its
limit, a lockout by its count. -/
theorem keySessionsAndProgramming : Obligations.KeySessionsAndProgramming := by
  refine ⟨fun s p sl cf v => ⟨?_, fun c op a b hc => ?_⟩, fun s p q hr hq => ⟨fun v hi => ?_, fun v hi => ?_, fun hchal =>
    ⟨clear_leaves hr hq hchal, ?_, fun sl hsl => ?_, fun sl cf => ⟨fun may => ?_, fun no => ?_⟩⟩⟩,
    fun s p q hq => ⟨fun burned => ⟨fun hc => ?_, fun k hc h1 hk hb => ?_⟩, fun sl => ⟨fun no => ?_, fun out => ?_⟩⟩,
    fun s sl k hk => ⟨fun hsl hl => ?_, fun hno => ?_⟩⟩
  · exact waitsItsTurn_command (exec_secBufWrite s p v) (show (15#4 : BitVec 4) ≠ 0#4 by decide)
  · obtain ⟨rfl, rfl, rfl, rfl⟩ | ⟨rfl, rfl, rfl, rfl⟩ | ⟨rfl, rfl, rfl, rfl⟩ := hc
    · obtain ⟨waits, busy, -⟩ := exec_secCommand (exec_clear s p)
      exact ⟨waits, busy⟩
    · obtain ⟨waits, busy, -⟩ := exec_secCommand (exec_close s p sl)
      exact ⟨waits, busy⟩
    · obtain ⟨waits, busy, -⟩ := exec_secCommand (exec_program s p sl cf)
      exact ⟨waits, busy⟩
  · have leaves := leaves_secBufWrite hr v
    rw [Engine.secBuf_room (State.serving_port hr hq) hi, State.serving_putPort hr] at leaves
    exact leaves
  · have leaves := leaves_secBufWrite hr v
    rw [Engine.secBuf_full (State.serving_port hr hq) hi] at leaves
    exact leaves
  · have leaves := close_all_leaves hr hq hchal
    rw [State.putPort_kept hr (by simp only [Engine.keepSess_sec])] at leaves
    exact leaves
  · have leaves := close_one_leaves hr hq hchal hsl
    rw [State.putPort_kept hr (Engine.keepSess_sec _ _ _)] at leaves
    exact leaves
  · have leaves := program_leaves hr hq hchal sl cf
    rw [if_pos ((mayProgram_puts hr hq sl cf).mpr may), q.touched_eq] at leaves
    exact leaves
  · have leaves := program_leaves hr hq hchal sl cf
    rw [if_neg (mt (mayProgram_puts hr hq sl cf).mp no), q.touched_eq] at leaves
    exact leaves
  · have leaves : Leaves (.programComplete p burned) s (s.eng.programDone (portCode p) burned) := rfl
    rw [Engine.programDone_idle hq hc] at leaves
    exact leaves
  · exact ⟨s.eng.programDone (portCode p) burned, rfl, Engine.programDone_spec hq hk hc hb⟩
  · exact idles_guarded (·.timedOutSess (portCode p) sl.toNat) (·.sessTimeout (portCode p) sl.toNat) rfl
      (Bool.eq_false_iff.mpr fun h => no ((Engine.timedOutSess_iff hq sl).mp h))
  · have due := (Engine.timedOutSess_iff hq sl).mpr out
    obtain ⟨-, -, nz, -⟩ := out
    exact does_guarded (·.timedOutSess (portCode p) sl.toNat) (·.sessTimeout (portCode p) sl.toNat) rfl due
      (Engine.sessTimeout_spec hq (toNat_ne_zero nz))
  · have leaves := lockoutEnd_leaves s sl
    rw [if_pos ⟨hsl, by rw [Engine.key_eq hk]; exact hl⟩, Engine.setKey_eq hk] at leaves
    exact leaves
  · have leaves := lockoutEnd_leaves s sl
    rw [Engine.key_eq hk, if_neg fun h => hno.elim (h.1 ·) (· h.2)] at leaves
    exact leaves

end Sys2Proof.Machine
end

section
/-! PROOF. O56: attempts at notices: one that is sent, one that fails, one that loses arbitration, one that is withdrawn. -/

namespace Sys2Proof.Machine

/-- The two-wire port after a notice that is over, sent or not (R317, R318). -/
def I2cBlk.ended (i : I2cBlk) : I2cBlk := { i with due := false, attempts := 0, waiting := false }

/-- The two-wire port after an attempt that has failed and will be made again (R318). -/
def I2cBlk.again (i : I2cBlk) (now : Nat) : I2cBlk := { i with attempts := i.attempts + 1, waiting := true, failAt := now }

namespace Engine

theorem Pushes.withI2c {vs : List Event} {a b : Engine} (h : Pushes vs a b) (x : I2cBlk) :
    Pushes vs { a with i2c := x } { b with i2c := x } := by
  unfold Pushes at h ⊢
  exact congrArg (fun e : Engine => { e with i2c := x }) h

/-! ### A failed attempt (R315, R318) -/

/-- The attempt that fails is the last one that I2CT_NOTICE allows. -/
abbrev lastAttempt (e : Engine) : Prop := e.rf R.I2CT_NOTICE 8 4 < e.i2c.attempts + 1

theorem noticeFailed_again {e : Engine} (h : ¬e.lastAttempt) :
    e.noticeFailed = { e with i2c := e.i2c.again e.time.now } := by
  unfold noticeFailed
  exact if_neg (show ¬e.rf R.I2CT_NOTICE 8 4 < e.i2c.attempts + 1 from h)

theorem noticeFailed_last {e : Engine} (h : e.lastAttempt) :
    Pushes [e.event 0xC 0x03 1 (e.i2c.attempts + 1)] { e with i2c := e.i2c.ended } e.noticeFailed ∧
    e.noticeFailed.rd (estatKey 0x07) = e.rd (estatKey 0x07) ||| 16#32 ∧
    e.noticeFailed.rd (istatKey 0x07) = e.rd (istatKey 0x07) ||| 2#32 ∧
    RegsKept [estatKey 0x07, istatKey 0x07] e e.noticeFailed := by
  let base : Engine := { e with i2c := e.i2c.ended }
  have told : e.noticeFailed = ((base.estat 0x07 16).istat 0x07 2).push 0xC 0x03 1 (e.i2c.attempts + 1) := by
    unfold noticeFailed
    exact if_pos (show e.rf R.I2CT_NOTICE 8 4 < e.i2c.attempts + 1 from h)
  rw [told]
  refine ⟨((onlyRegs_estat base 0x07 16).pushes.istat 0x07 2).push _ _ _ _, ?_, ?_, ?_⟩
  · rw [rd_push, rd_istat_other _ _ _ _ (by decide), rd_estat_same]
    rfl
  · rw [rd_push, rd_istat_same, rd_estat_other _ _ _ _ (by decide)]
    rfl
  · exact ((regsKept_estat base 0x07 16).trans (regsKept_istat _ 0x07 2)).of_rd fun k => rd_push _ _ _ _ _ k

/-- A bus timeout is counted and told (R315). -/
theorem busTimeout_spec (e : Engine) (controller : Bool) :
    Pushes [e.event 0xC 0x01 1 (at1 controller 0)] e (e.busTimeout controller) ∧
    (e.busTimeout controller).rd R.I2CT_TMO_CNT = bump16 (e.rd R.I2CT_TMO_CNT) ∧
    (e.busTimeout controller).rd (estatKey 0x07) = e.rd (estatKey 0x07) ||| 2#32 ∧
    (e.busTimeout controller).rd (istatKey 0x07) = e.rd (istatKey 0x07) ||| 8#32 ∧
    RegsKept [R.I2CT_TMO_CNT, estatKey 0x07, istatKey 0x07] e (e.busTimeout controller) := by
  unfold busTimeout i2cErr
  refine ⟨(((onlyRegs_count e _).pushes.estat 0x07 _).istat 0x07 8).push _ _ _ _, ?_, ?_, ?_, ?_⟩
  · rw [rd_push, rd_istat_other _ _ _ _ (by decide), rd_estat_other _ _ _ _ (by decide), rd_count_same]
  · rw [rd_push, rd_istat_other _ _ _ _ (by decide), rd_estat_same, rd_count_other _ _ _ (by decide)]
    rfl
  · rw [rd_push, rd_istat_same, rd_estat_other _ _ _ _ (by decide), rd_count_other _ _ _ (by decide)]
    rfl
  · exact (((regsKept_count e _).trans (regsKept_estat _ 0x07 _)).trans (regsKept_istat _ 0x07 8)).of_rd fun k =>
      rd_push _ _ _ _ _ k

/-- A bus timeout at a notice is counted itself, and is a failure (R315, R318). -/
theorem timeoutFailed_spec (e : Engine) :
    let f := (e.busTimeout true).noticeFailed
    f.rd R.I2CT_TMO_CNT = bump16 (e.rd R.I2CT_TMO_CNT) ∧
    f.rd (estatKey 0x07) = e.rd (estatKey 0x07) ||| (if e.lastAttempt then 18#32 else 2#32) ∧
    f.rd (istatKey 0x07) = e.rd (istatKey 0x07) ||| (if e.lastAttempt then 10#32 else 8#32) ∧
    RegsKept [R.I2CT_TMO_CNT, estatKey 0x07, istatKey 0x07] e f ∧
    f = { e.marked f with
      i2c := if e.lastAttempt then e.i2c.ended else e.i2c.again e.time.now
      arriving := e.arriving ++ [e.event 0xC 0x01 1 1] ++
        if e.lastAttempt then [e.event 0xC 0x03 1 (e.i2c.attempts + 1)] else [] } := by
  intro f
  obtain ⟨said, hcnt, hest, hist, kept⟩ := e.busTimeout_spec true
  have hi2c : (e.busTimeout true).i2c = e.i2c := by rw [said]; rfl
  have limit : (e.busTimeout true).lastAttempt ↔ e.lastAttempt := by
    unfold lastAttempt rf
    rw [hi2c, kept _ (by decide)]
  by_cases last : e.lastAttempt
  · obtain ⟨lost, hest', hist', kept'⟩ := noticeFailed_last (limit.mpr last)
    simp only [last, if_true]
    refine ⟨(kept' _ (by decide)).trans hcnt, ?_, ?_, fun j hj => ?_, ?_⟩
    · rw [hest', hest, BitVec.or_assoc]
      rfl
    · rw [hist', hist, BitVec.or_assoc]
      rfl
    · simp only [List.mem_cons, List.not_mem_nil, or_false, not_or] at hj
      obtain ⟨c, es, is⟩ := hj
      exact (kept' j (by simp [es, is])).trans (kept j (by simp [c, es, is]))
    · rw [hi2c, said.event] at lost
      rw [List.append_assoc]
      exact (said.withI2c e.i2c.ended).trans lost
  · have failed : f = { e.busTimeout true with i2c := e.i2c.again e.time.now } := by
      have again := noticeFailed_again (mt limit.mp last)
      rw [hi2c, show (e.busTimeout true).time = e.time by rw [said]; rfl] at again
      exact again
    simp only [last, if_false, List.append_nil]
    rw [failed]
    exact ⟨hcnt, hest, hist, kept, said.withI2c _⟩

/-! ### An attempt (R317, R319) -/

section
variable {e : Engine}

/-- Without a cause a notice is withdrawn (R317). -/
theorem notice_withdrawn (h : e.i2cCond = false) (r : NoticeResult) : e.notice r = ({ e with i2c := e.i2c.ended }, none) := by
  unfold notice
  rw [if_pos (by rw [h]; rfl)]
  rfl

variable (h : e.i2cCond = true)
include h

theorem notice_nacked : e.notice .nacked = (e.noticeFailed, none) := by
  unfold notice
  rw [if_neg (by rw [h]; decide)]

theorem notice_timeout : e.notice .timeout = (if e.rb R.I2CT_CTL 12 then (e.busTimeout true).noticeFailed else e, none) := by
  unfold notice
  rw [if_neg (by rw [h]; decide)]

/-- A notice carries its bytes, and is told (R317). -/
theorem notice_sent : e.notice .sent =
    ({ ({ e with tx := e.tx ++ [.noticeSent e.noticeBytes] } : Engine).istat 0x07 1 with i2c := e.i2c.ended }, none) := by
  unfold notice
  rw [if_neg (by rw [h]; decide)]
  dsimp only
  rw [send_local rfl]
  rfl

/-- Arbitration that is lost in the address byte, or after the same one, is counted; the winner's transaction is served where it
names the engine (R319). -/
theorem notice_lost (x : I2cTx) : e.notice (.lostArbitration x) =
    if (firstByte x).toNat ≤ 2 * e.rf R.I2CT_NOTICE 0 7 then
      ({ e.count R.I2CT_ARB_CNT with i2c := { e.i2c with waiting := false } },
        if (firstByte x).toNat < 2 * e.rf R.I2CT_NOTICE 0 7 ∧ (firstByte x).toNat / 2 = e.i2c.addr then some x else none)
    else (e, none) := by
  have address : (e.count R.I2CT_ARB_CNT).lostInAddress x = e.lostInAddress x := by
    unfold lostInAddress rf
    rw [rd_count_other _ _ _ (by decide)]
  have won : (e.lostInAddress x || e.lostLater x) = true ↔ (firstByte x).toNat ≤ 2 * e.rf R.I2CT_NOTICE 0 7 := by
    unfold lostInAddress lostLater
    rw [Bool.or_eq_true, decide_eq_true_eq, decide_eq_true_eq, Nat.le_iff_lt_or_eq]
  have ours : (e.lostInAddress x && (e.count R.I2CT_ARB_CNT).namesUs x) = true ↔
      (firstByte x).toNat < 2 * e.rf R.I2CT_NOTICE 0 7 ∧ (firstByte x).toNat / 2 = e.i2c.addr := by
    unfold lostInAddress namesUs
    rw [Bool.and_eq_true, decide_eq_true_eq, decide_eq_true_eq, count_i2c]
  unfold notice
  rw [if_neg (by rw [h]; decide)]
  dsimp only
  rw [address]
  simp only [won, ours, count_i2c]

end

end Engine

/-! ### The commands -/

theorem exec_notice (s : State) (r : NoticeResult) :
    exec (.notice r) s = doneS (if s.eng.noticeStart false then s.attemptNotice r else s) := rfl

theorem exec_noticeRetry (s : State) (r : NoticeResult) :
    exec (.noticeRetry r) s = doneS (if s.eng.noticeStart true then s.attemptNotice r else s) := rfl

theorem noticeStart_first (e : Engine) : e.noticeStart false = true ↔ e.mayNotice = true ∧ e.i2c.waiting = false := by
  simp [Engine.noticeStart]

theorem noticeStart_retry (e : Engine) : e.noticeStart true = true ↔
    e.mayNotice = true ∧ e.i2c.waiting = true ∧ e.i2c.failAt + 625000 ≤ e.time.now := by
  simp [Engine.noticeStart, and_assoc]

theorem attemptNotice_none {s : State} {r : NoticeResult} {e : Engine} (h : s.eng.notice r = (e, none)) :
    s.attemptNotice r = { s with eng := e } := by
  unfold State.attemptNotice
  rw [h]

section
variable {s : State} {r : NoticeResult} {c : Instr} (hc : exec c s = doneS (s.attemptNotice r))
include hc

theorem leaves_notice {e : Engine} (h : s.eng.notice r = (e, none)) : Leaves c s e := by
  rw [attemptNotice_none h] at hc
  exact hc

/-- After lost arbitration the engine serves the winner's transaction, where that names it (R319). -/
theorem exec_notice_served {e : Engine} {x : I2cTx} (h : s.eng.notice r = (e, some x)) :
    exec c s = .next (({ s with eng := e } : State).submit .i2c (.bus x true)).settled := by
  refine hc.trans ?_
  unfold State.attemptNotice
  rw [h]
  rfl

end

/-- Settles O56: when no attempt is made, and each result of one that is. -/
theorem noticesAreSentOrRetried : Obligations.NoticesAreSentOrRetried := by
  refine ⟨fun s r => ⟨fun h => ?_, fun h => ?_⟩, fun s r c hmay hc => ?_⟩
  · have none : s.eng.noticeStart false ≠ true := fun hs => by
      obtain ⟨may, first⟩ := (noticeStart_first _).mp hs
      rcases h with h | h
      · rw [h] at may; cases may
      · rw [h] at first; cases first
    exact (exec_notice s r).trans (by rw [if_neg none]; rfl)
  · have none : s.eng.noticeStart true ≠ true := fun hs => by
      obtain ⟨may, waiting, passed⟩ := (noticeStart_retry _).mp hs
      rcases h with h | h | h
      · rw [h] at may; cases may
      · rw [h] at waiting; cases waiting
      · omega
    exact (exec_noticeRetry s r).trans (by rw [if_neg none]; rfl)
  · intro ended again last lost
    have attempt : exec c s = doneS (s.attemptNotice r) := by
      obtain ⟨rfl, first⟩ | ⟨rfl, waiting, passed⟩ := hc
      · rw [exec_notice, if_pos ((noticeStart_first _).mpr ⟨hmay, first⟩)]
      · rw [exec_noticeRetry, if_pos ((noticeStart_retry _).mpr ⟨hmay, waiting, passed⟩)]
    refine ⟨fun hcond => leaves_notice attempt (Engine.notice_withdrawn hcond r), fun hcond => ⟨?_, ?_, ?_, ?_, ?_⟩⟩
    · rintro rfl
      refine ⟨_, leaves_notice attempt (Engine.notice_sent hcond), ?_, ?_, rfl⟩
      · exact Engine.rd_istat_same _ 0x07 1
      · exact Engine.regsKept_istat _ 0x07 1
    · rintro rfl
      have nacked := leaves_notice attempt (Engine.notice_nacked hcond)
      refine ⟨fun more => ?_, fun limit => ?_⟩
      · rw [Engine.noticeFailed_again more] at nacked
        exact nacked
      · obtain ⟨said, hest, hist, kept⟩ := Engine.noticeFailed_last limit
        exact ⟨_, nacked, hest, hist, kept, said⟩
    · rintro rfl off
      have idle := leaves_notice attempt (Engine.notice_timeout hcond)
      rw [if_neg (by rw [off]; decide)] at idle
      exact idle
    · rintro rfl on
      have failed := leaves_notice attempt (Engine.notice_timeout hcond)
      rw [if_pos on] at failed
      exact ⟨_, failed, s.eng.timeoutFailed_spec⟩
    · rintro x rfl won ours
      refine ⟨fun hlater => ?_, fun hwon => ?_⟩
      · exact leaves_notice attempt ((Engine.notice_lost hcond x).trans (if_neg (Nat.not_le.mpr hlater)))
      · have result := (Engine.notice_lost hcond x).trans (if_pos hwon)
        refine ⟨{ s.eng.count R.I2CT_ARB_CNT with i2c := { s.eng.i2c with waiting := false } }, ?_,
          Engine.rd_count_same _ _, Engine.regsKept_count _ _, rfl⟩
        split
        next named =>
          rw [if_pos named] at result
          exact exec_notice_served attempt result
        next other =>
          rw [if_neg other] at result
          exact leaves_notice attempt result

end Sys2Proof.Machine
end

section
/-! PROOF. O55: transactions of the two-wire port, its address in sleep, and bus timeouts. -/

namespace Sys2Proof.Machine

/-! ### A transaction that starts (R302, R304 to R307) -/

/-- What the two-wire port serves, from the transaction's first byte on. -/
def Engine.serves (e : Engine) (t : I2cRun) : Held := { port := .i2c, auth := e.auth 2, work := .i2c t }

theorem State.run_bus (s : State) (x : I2cTx) (lost : Bool) :
    s.run { port := .i2c, auth := s.eng.auth 2, work := .bus x lost } =
      ({ s with eng := (s.eng.i2cStart x lost).1 } : State).runI2c (s.eng.serves (s.eng.i2cStart x lost).2) (s.eng.i2cStart x lost).2 := by
  unfold run
  dsimp only
  rw [if_neg (Nat.not_lt_zero _)]
  by_cases h : 0 = s.eng.time.now
  · rw [if_pos h]
    rfl
  · rw [if_neg h]
    rfl

/-- A transaction is served at once where nothing waits. -/
theorem exec_transaction {c : Instr} {s t : State} {e : Engine} {x : I2cTx} (hc : exec c s = doneS (s.submit .i2c (.bus x false)))
    (hheld : s.eng.host.held = [])
    (ht : ({ s with eng := (s.eng.i2cStart x false).1 } : State).runI2c (s.eng.serves (s.eng.i2cStart x false).2)
      (s.eng.i2cStart x false).2 = ({ t with eng := e }, none)) : exec c s = .next { t with eng := e.settle } := by
  have first : s.eng.portFirst .i2c = true := by
    unfold Engine.portFirst
    rw [hheld]
    rfl
  have run := (s.run_bus x false).trans ht
  refine hc.trans ?_
  unfold State.submit
  dsimp only
  rw [if_pos first, show s.eng.auth (portCode .i2c) = s.eng.auth 2 from rfl, run]
  rfl

theorem queues_transaction {c : Instr} {s : State} {x : I2cTx} (hc : exec c s = doneS (s.submit .i2c (.bus x false))) :
    Queues c s s.eng .i2c (.bus x false) := by
  intro behind
  refine hc.trans ?_
  unfold State.submit
  dsimp only
  rw [if_neg (by rw [behind]; decide)]
  rfl

theorem exec_i2cWrite (s : State) (bs : List Byte) :
    exec (.i2cWriteTransaction bs) s = doneS (s.submit .i2c (.bus (.write bs) false)) := rfl

theorem exec_i2cRead (s : State) (bs : List Byte) (a : Byte) (n : Nat) :
    exec (.i2cReadTransaction bs a n) s = doneS (s.submit .i2c (.bus (.read bs a n) false)) := rfl

theorem State.runI2c_tail {s : State} {h : Held} {t : I2cRun} (ht : t.todo = []) : s.runI2c h t = s.i2cTail h t := by
  unfold runI2c
  rw [ht]
  rfl

/-- A transaction without registers ends. -/
theorem State.runI2c_ends {s : State} {h : Held} {t : I2cRun} (ht : t.todo = []) (hr : t.rest = 0) (hd : t.rd = none) :
    s.runI2c h t = ({ s with eng := s.eng.i2cEnd t }, none) := by
  rw [runI2c_tail ht]
  unfold i2cTail
  dsimp only
  rw [if_pos hr, hd, hr, List.replicate_zero, List.append_nil]
  obtain ⟨acks, todo, pec, rest, rd, head, reading, left, got, lost⟩ := t
  cases hr
  cases hd
  rfl

namespace Engine

/-- The end of a transaction whose read part has sent nothing. -/
theorem i2cEnd_quiet {e : Engine} {t : I2cRun} (hr : t.reading = false) (hl : t.lost = false) :
    e.i2cEnd t = { e with i2c := { e.i2c with busy := false }, tx := e.tx ++ [.i2cAcks t.acks] } := by
  unfold i2cEnd
  dsimp only
  rw [hr, hl, send_local rfl]
  rfl

/-- The end of a transaction that has read. -/
theorem i2cEnd_read {e : Engine} {t : I2cRun} {a : Byte} {n : Nat} (hr : t.reading = true) (hl : t.lost = false)
    (hd : t.rd = some (a, n)) : e.i2cEnd t = { e with
      i2c := { e.i2c with busy := false }, tx := e.tx ++ [.i2cAcks t.acks] ++ [.i2cSent (i2cBytes t n)] } := by
  unfold i2cEnd
  dsimp only
  rw [hr, hl, hd, if_pos rfl, send_local rfl, send_local rfl]
  rfl

/-- Out of sleep, and on no way into it, a transaction is no wake source (R63). -/
theorem addressed_awake {e : Engine} (hm : e.sys.mode.isSleep = false) (ht : e.sys.trans = none) (a : Byte) : e.addressed a = e := by
  unfold addressed
  rw [if_neg (by rw [hm, ht]; exact fun h => Bool.false_ne_true h.2.1)]

/-- Nor is one to another address. -/
theorem addressed_other {e : Engine} {a : Byte} (h : a.toNat / 2 ≠ e.i2c.addr) : e.addressed a = e := by
  unfold addressed
  rw [if_neg (fun named => h named.1)]

/-- An address byte that is the engine's names it (R302). -/
theorem addrByte_named {e : Engine} (h : e.i2c.addr < 128) (read : Bool) : (e.addrByte read).toNat / 2 = e.i2c.addr := by
  unfold addrByte
  rw [BitVec.toNat_ofNat]
  cases read with
  | false => show (2 * e.i2c.addr + 0) % 2 ^ 8 / 2 = _; omega
  | true => show (2 * e.i2c.addr + 1) % 2 ^ 8 / 2 = _; omega

/-- A write part that is not the engine's, or not accepted, finds no ACK (R306). -/
theorem i2cWrite_refused {e : Engine} {a : Byte} {t : List Byte} (h : ¬(a = e.addrByte false ∧ e.access = true)) :
    e.i2cWrite (a :: t) = (e, { acks := (a :: t).map fun _ => false }) := if_neg h

theorem i2cWrite_accepted {e : Engine} {a : Byte} (ha : a = e.addrByte false) (h : e.access = true) (t : List Byte) :
    e.i2cWrite (a :: t) = e.i2cBody a t := if_pos ⟨ha, h⟩

section
variable {e : Engine} (hm : e.sys.mode.isSleep = false) (ht : e.sys.trans = none)
include hm ht

theorem i2cStart_write (bs : List Byte) : e.i2cStart (.write bs) false =
    (((e.setBusy true).i2cWrite bs).1, { ((e.setBusy true).i2cWrite bs).2 with lost := false }) := by
  unfold i2cStart
  dsimp only
  rw [addressed_awake (show (e.setBusy true).sys.mode.isSleep = false from hm) ht]

theorem i2cStart_read (a : Byte) (n : Nat) : e.i2cStart (.read [] a n) false =
    (e.setBusy true, { rd := some (a, n), head := [a] }) := by
  unfold i2cStart
  dsimp only
  rw [addressed_awake (show (e.setBusy true).sys.mode.isSleep = false from hm) ht]
  rfl

end

/-! ### Another address -/

section
variable {e : Engine} (haddr : e.i2c.addr < 128) {a : Byte} (ha : a.toNat / 2 ≠ e.i2c.addr)
include haddr ha

theorem ne_addrByte (read : Bool) : ¬a = (e.setBusy true).addrByte read := fun h =>
  ha (by rw [h]; exact addrByte_named haddr read)

theorem i2cStart_write_other (t : List Byte) :
    e.i2cStart (.write (a :: t)) false = (e.setBusy true, { acks := (a :: t).map fun _ => false }) := by
  unfold i2cStart
  dsimp only
  rw [addressed_other (show (firstByte (.write (a :: t))).toNat / 2 ≠ (e.setBusy true).i2c.addr from ha),
    i2cWrite_refused fun h => ne_addrByte haddr ha false h.1]

omit haddr in
theorem i2cStart_read_other (n : Nat) : e.i2cStart (.read [] a n) false = (e.setBusy true, { rd := some (a, n), head := [a] }) := by
  unfold i2cStart
  dsimp only
  rw [addressed_other (show a.toNat / 2 ≠ (e.setBusy true).i2c.addr from ha)]
  rfl

theorem i2cRead_other (t : I2cRun) (n : Nat) : (e.setBusy true).i2cRead t a n = { t with acks := t.acks ++ [false] } :=
  if_neg fun h => ne_addrByte haddr ha true h.1

end

end Engine

section
variable {s : State} (hheld : s.eng.host.held = []) (haddr : s.eng.i2c.addr < 128) {a : Byte} (ha : a.toNat / 2 ≠ s.eng.i2c.addr)
include hheld haddr ha

/-- A write to another address finds no ACK (R304). -/
theorem leaves_write_other (t : List Byte) : Leaves (.i2cWriteTransaction (a :: t)) s { s.eng with
    i2c := { s.eng.i2c with busy := false }, tx := s.eng.tx ++ [.i2cAcks ((a :: t).map fun _ => false)] } := by
  refine exec_transaction (t := s) (exec_i2cWrite s (a :: t)) hheld ?_
  rw [Engine.i2cStart_write_other haddr ha, State.runI2c_ends rfl rfl rfl, Engine.i2cEnd_quiet rfl rfl]
  rfl

/-- Nor does a read from one (R305). -/
theorem leaves_read_other (n : Nat) : Leaves (.i2cReadTransaction [] a n) s { s.eng with
    i2c := { s.eng.i2c with busy := false }, tx := s.eng.tx ++ [.i2cAcks [false]] } := by
  refine exec_transaction (t := s) (exec_i2cRead s [] a n) hheld ?_
  rw [Engine.i2cStart_read_other ha, State.runI2c_tail rfl]
  unfold State.i2cTail
  dsimp only
  rw [if_pos rfl, if_neg Bool.false_ne_true, Engine.i2cRead_other haddr ha]
  exact congrArg (fun e : Engine => (({ s with eng := e } : State), (none : Option Held))) (Engine.i2cEnd_quiet rfl rfl)

end

/-! ### Registers written and read (R308 to R311) -/

/-- An access of the two-wire port outside Cliff that waits for nothing is performed. -/
theorem State.attempt_performs {s : State} {h : Held} {a : RegAccess} (hr : h.reply = none) (hb : a.be = 15#4)
    (ho : s.eng.portOpen a.port = true) (hpop : s.eng.popWaits a = false) (hp : portHas (portCode a.port) a.page = true)
    (hc : isCliff a.page = false) : s.attempt h a = ((({ s with eng := s.eng.served a.port } : State).perform h.auth a).1,
      .done (({ s with eng := s.eng.served a.port } : State).perform h.auth a).2) := by
  rw [attempt_goes hr (by rw [hb]; decide) ho hpop, if_neg (by rw [hp]; decide), if_neg (by rw [hc]; decide)]

/-- A write part of one register: it is written, and the pointer moves on unless the core has been reset (R309, R321). -/
theorem State.runI2c_one {s r : State} {h : Held} {acks : List Bool} {pec : Bool} {w : Word} {n : Nat}
    (hacks : (if pec then acks else acks ++ [true, true, true, true]) = List.replicate n true)
    (hr : s.attempt h (s.eng.atPtr (some w)) = (r, .done none)) :
    s.runI2c h { acks := acks, todo := [w], pec := pec } = ({ r with eng := { r.eng with
      i2c := { r.eng.i2c with
        busy := false
        ptr := if r.eng.access = true then r.eng.i2c.ptr / 256 * 256 + (r.eng.i2c.ptr % 256 + 4) % 256 else r.eng.i2c.ptr }
      tx := r.eng.tx ++ [Tx.i2cAcks (List.replicate n true)] } }, none) := by
  unfold runI2c
  rw [if_neg (show ¬[w].isEmpty = true from Bool.false_ne_true)]
  unfold i2cWrites
  rw [hr]
  dsimp only
  rw [hacks]
  by_cases hacc : r.eng.access = true
  · rw [if_neg (by rw [hacc]; decide), if_neg (by simp), if_pos hacc]
    unfold i2cWrites
    rw [← runI2c_tail rfl, runI2c_ends rfl rfl rfl, Engine.i2cEnd_quiet rfl rfl]
    rfl
  · rw [if_pos (by simpa using hacc), if_neg hacc, Engine.i2cEnd_quiet rfl rfl]
    unfold i2cLeft
    simp

/-- A read of one register (R305, R308). -/
theorem State.i2cReads_one {s r : State} {h : Held} {a : Byte} {t : I2cRun} {w : Word}
    (hread : t.reading = true) (hlost : t.lost = false) (hd : t.rd = some (a, 4)) (hh : t.head = []) (hg : t.got = [])
    (hr : s.attempt h (s.eng.atPtr none) = (r, .done (some w))) :
    s.i2cReads h t 1 = ({ r with eng := { r.eng with
      i2c := { r.eng.i2c with busy := false, ptr := r.eng.i2c.ptr / 256 * 256 + (r.eng.i2c.ptr % 256 + 4) % 256 }
      tx := r.eng.tx ++ [.i2cAcks t.acks] ++ [.i2cSent (bytesOfWord w)] } }, none) := by
  unfold i2cReads
  rw [hr]
  dsimp only
  unfold i2cReads
  rw [Engine.i2cEnd_read (t := { t with got := t.got ++ bytesOfWord ((some w).getD 0#32) }) hread hlost hd]
  have sent : Engine.i2cBytes { t with got := t.got ++ bytesOfWord ((some w).getD 0#32) } 4 = bytesOfWord w := by
    unfold Engine.i2cBytes
    dsimp only
    rw [hh, hg]
    rfl
  rw [sent]
  rfl

/-! ### The bytes of a write of one register (R304, R310) -/

theorem wordsOfBytes_four (b0 b1 b2 b3 : Byte) : wordsOfBytes [b0, b1, b2, b3] = [w32 (natOfBytes [b0, b1, b2, b3])] := by
  simp [wordsOfBytes]

section
variable {e : Engine} {a p o b0 b1 b2 b3 : Byte} (ha : a = e.addrByte false) (hacc : e.access = true)
  (hp : (pageInfo? p.toNat).isSome = true) (ho : o.toNat % 4 = 0)
include ha hacc hp ho

/-- After the bytes of the address the pointer is where they say (R308). -/
theorem Engine.i2cWrite_pointed (d : List Byte) : e.i2cWrite (a :: p :: o :: d) =
    if e.pec then (e.setPtr (p.toNat * 256 + o.toNat)).i2cPec [true, true, true] [a, p, o] d
    else (e.setPtr (p.toNat * 256 + o.toNat)).i2cPlain [true, true, true] d := by
  rw [i2cWrite_accepted ha hacc]
  unfold i2cBody
  dsimp only
  rw [if_neg (by rw [Option.isNone_iff_eq_none]; intro none; rw [none] at hp; cases hp), if_neg (by rw [ho]; decide)]
  rfl

theorem Engine.i2cWrite_plain (hpec : e.pec = false) : e.i2cWrite [a, p, o, b0, b1, b2, b3] =
    (e.setPtr (p.toNat * 256 + o.toNat), { acks := [true, true, true], todo := [w32 (natOfBytes [b0, b1, b2, b3])] }) := by
  rw [i2cWrite_pointed ha hacc hp ho, if_neg (by rw [hpec]; decide), ← wordsOfBytes_four]
  simp [i2cPlain]

variable (hpec : e.pec = true)
include hpec

theorem Engine.i2cWrite_pec : e.i2cWrite [a, p, o, b0, b1, b2, b3, crc8 [a, p, o, b0, b1, b2, b3]] =
    (e.setPtr (p.toNat * 256 + o.toNat),
      { acks := List.replicate 8 true, todo := [w32 (natOfBytes [b0, b1, b2, b3])], pec := true }) := by
  rw [i2cWrite_pointed ha hacc hp ho, if_pos hpec]
  unfold i2cPec
  rw [← wordsOfBytes_four]
  refine (if_neg ?_).trans ((if_neg ?_).trans ((if_neg ?_).trans (if_pos ?_)))
  · simp
  · simp
  · simp
  · rfl

theorem Engine.i2cWrite_wrongPec {c : Byte} (hc : c ≠ crc8 [a, p, o, b0, b1, b2, b3]) :
    e.i2cWrite [a, p, o, b0, b1, b2, b3, c] =
      ((e.setPtr (p.toNat * 256 + o.toNat)).pecFail p.toNat, { acks := List.replicate 7 true ++ [false] }) := by
  rw [i2cWrite_pointed ha hacc hp ho, if_pos hpec]
  unfold i2cPec
  dsimp only
  have page : (e.setPtr (p.toNat * 256 + o.toNat)).i2c.ptr / 256 = p.toNat := by
    show (p.toNat * 256 + o.toNat) / 256 = p.toNat
    have := o.isLt
    omega
  rw [if_neg (by simp), if_neg (by simp), if_neg (by simp), if_neg (fun same => hc same.symm), page]
  rfl

end

/-! ### A transaction of one register -/

/-- The engine while the two-wire port's transaction points at a register. -/
def Engine.pointing (e : Engine) (ptr : Nat) : Engine := { e with i2c := { e.i2c with busy := true, ptr := ptr } }

theorem Engine.atPtr_pointing (e : Engine) (p o : Byte) (w : Word) : (e.pointing (p.toNat * 256 + o.toNat)).atPtr (some w) =
    { port := .i2c, page := p.toNat, slot := o.toNat, be := 15#4, data := some w } := by
  have page : (p.toNat * 256 + o.toNat) / 256 = p.toNat := by have := o.isLt; omega
  have slot : (p.toNat * 256 + o.toNat) % 256 = o.toNat := by have := o.isLt; omega
  show (⟨.i2c, (p.toNat * 256 + o.toNat) / 256, (p.toNat * 256 + o.toNat) % 256, 15#4, some w⟩ : RegAccess) = _
  rw [page, slot]

theorem portHas_i2c {page : Nat} (h : (pageInfo? page).isSome = true) : portHas 2 page = true := by
  unfold portHas
  rw [h]
  rfl

section
variable {s : State} (hheld : s.eng.host.held = []) (hm : s.eng.sys.mode.isSleep = false) (ht : s.eng.sys.trans = none)
include hheld hm ht

/-- A write of one register whose bytes are accepted (R308 to R310). -/
theorem exec_write_one {bs : List Byte} {p o : Byte} {acks : List Bool} {pec : Bool} {w : Word} {n : Nat}
    (hp : (pageInfo? p.toNat).isSome = true) (hopen : s.eng.portOpen .i2c = true) (hc : isCliff p.toNat = false)
    (hbytes : (s.eng.setBusy true).i2cWrite bs =
      (s.eng.pointing (p.toNat * 256 + o.toNat), { acks := acks, todo := [w], pec := pec }))
    (hacks : (if pec then acks else acks ++ [true, true, true, true]) = List.replicate n true) :
    let r := State.writeReg { s with eng := (s.eng.pointing (p.toNat * 256 + o.toNat)).served .i2c } 2 p.toNat o.toNat 15#4 w
    exec (.i2cWriteTransaction bs) s = .next { r with eng := { r.eng with
      i2c := { r.eng.i2c with
        busy := false
        ptr := if r.eng.access = true then r.eng.i2c.ptr / 256 * 256 + (r.eng.i2c.ptr % 256 + 4) % 256 else r.eng.i2c.ptr }
      tx := r.eng.tx ++ [Tx.i2cAcks (List.replicate n true)] }.settle } := by
  intro r
  let pointed : State := { s with eng := s.eng.pointing (p.toNat * 256 + o.toNat) }
  let run : I2cRun := { acks := acks, todo := [w], pec := pec }
  have done : pointed.attempt (s.eng.serves run) (pointed.eng.atPtr (some w)) = (r, .done none) := by
    rw [Engine.atPtr_pointing]
    exact State.attempt_performs (s := pointed) rfl rfl hopen rfl (portHas_i2c hp) hc
  refine exec_transaction (exec_i2cWrite s bs) hheld ?_
  rw [Engine.i2cStart_write hm ht, hbytes]
  exact State.runI2c_one (s := pointed) hacks done

/-- A read of one register (R305, R308). -/
theorem exec_read_one {a : Byte} (ha : a = s.eng.addrByte true) (hopen : s.eng.portOpen .i2c = true)
    (hp : portHas 2 (s.eng.i2c.ptr / 256) = true) (hc : isCliff (s.eng.i2c.ptr / 256) = false) (hpec : s.eng.rb R.I2CT_CTL 0 = false)
    (hpop : s.eng.popWaits (s.eng.atPtr none) = false) :
    let r := State.readReg { s with eng := (s.eng.setBusy true).served .i2c } 2 (s.eng.i2c.ptr / 256) (s.eng.i2c.ptr % 256)
    exec (.i2cReadTransaction [] a 4) s = .next { r.1 with eng := { r.1.eng with
      i2c := { r.1.eng.i2c with busy := false, ptr := r.1.eng.i2c.ptr / 256 * 256 + (r.1.eng.i2c.ptr % 256 + 4) % 256 }
      tx := r.1.eng.tx ++ [Tx.i2cAcks [true]] ++ [Tx.i2cSent (bytesOfWord r.2)] }.settle } := by
  intro r
  let busy : State := { s with eng := s.eng.setBusy true }
  let run : I2cRun := { rd := some (a, 4), head := [a] }
  have reads : (s.eng.setBusy true).i2cRead run a 4 = { rd := some (a, 4), acks := [true], reading := true, left := 1 } := by
    unfold Engine.i2cRead
    rw [if_pos ⟨ha, Engine.access_of_portOpen hopen⟩, show (s.eng.setBusy true).pec = false from hpec]
    rfl
  have done : busy.attempt (s.eng.serves run) (busy.eng.atPtr none) = (r.1, .done (some r.2)) :=
    State.attempt_performs (s := busy) rfl rfl hopen hpop hp hc
  refine exec_transaction (exec_i2cRead s [] a 4) hheld ?_
  rw [Engine.i2cStart_read hm ht, State.runI2c_tail rfl]
  unfold State.i2cTail
  dsimp only
  rw [if_pos rfl, if_neg Bool.false_ne_true]
  refine (congrArg (fun t : I2cRun => busy.i2cReads (s.eng.serves run) t t.left) reads).trans ?_
  exact State.i2cReads_one rfl rfl rfl rfl rfl done

end

namespace Engine

/-- A wrong PEC is told (R310). -/
theorem pecFail_spec (e : Engine) (page : Nat) :
    Pushes [e.event 0xC 0x02 2 page] e (e.pecFail page) ∧
    (e.pecFail page).rd R.I2CT_PEC_CNT = bump16 (e.rd R.I2CT_PEC_CNT) ∧
    (e.pecFail page).rd (estatKey 0x07) = e.rd (estatKey 0x07) ||| 1#32 ∧
    (e.pecFail page).rd (istatKey 0x07) = e.rd (istatKey 0x07) ||| 16#32 ∧
    RegsKept [R.I2CT_PEC_CNT, estatKey 0x07, istatKey 0x07] e (e.pecFail page) := by
  unfold pecFail i2cErr
  refine ⟨(((onlyRegs_count e _).pushes.estat 0x07 _).istat 0x07 16).push _ _ _ _, ?_, ?_, ?_, ?_⟩
  · rw [rd_push, rd_istat_other _ _ _ _ (by decide), rd_estat_other _ _ _ _ (by decide), rd_count_same]
  · rw [rd_push, rd_istat_other _ _ _ _ (by decide), rd_estat_same, rd_count_other _ _ _ (by decide)]
    rfl
  · rw [rd_push, rd_istat_same, rd_estat_other _ _ _ _ (by decide), rd_count_other _ _ _ (by decide)]
    rfl
  · exact (((regsKept_count e _).trans (regsKept_estat _ 0x07 _)).trans (regsKept_istat _ 0x07 16)).of_rd fun k =>
      rd_push _ _ _ _ _ k

/-! ### A timeout as target (R315) -/

/-- b is a after transactions of the port have ended: their outputs, the port, and the interrupt of one that a lost arbitration
has brought (R319). -/
def Ended (a b : Engine) : Prop := RegsKept [istatKey 0x07] a b ∧ b = { a.marked b with i2c := b.i2c, tx := b.tx }

theorem Ended.refl (a : Engine) : Ended a a := ⟨fun _ _ => rfl, rfl⟩

theorem Ended.trans {a b c : Engine} (h : Ended a b) (h' : Ended b c) : Ended a c := by
  refine ⟨fun k hk => (h'.1 k hk).trans (h.1 k hk), ?_⟩
  obtain ⟨-, hb⟩ := h
  obtain ⟨-, hc⟩ := h'
  rw [hb] at hc
  exact hc

theorem ended_i2cEnd (e : Engine) (t : I2cRun) : Ended e (e.i2cEnd t) := by
  have told (e : Engine) : Ended e (if t.lost then e.istat 0x07 4 else e) := by
    split
    · exact ⟨regsKept_istat e 0x07 4, onlyRegs_istat e 0x07 4⟩
    · exact Ended.refl e
  have sent (e : Engine) (bs : List Byte) : Ended e (e.send (.i2cSent bs)) := by
    rw [send_local rfl]
    exact ⟨fun _ _ => rfl, rfl⟩
  have acked : Ended e ((e.setBusy false).send (.i2cAcks t.acks)) := by
    rw [send_local rfl]
    exact ⟨fun _ _ => rfl, rfl⟩
  unfold i2cEnd
  refine acked.trans (Ended.trans ?_ (told _))
  split
  · exact sent _ _
  · exact Ended.refl _

/-- What a timeout ends of one that a port has waiting. -/
def endHeld (e : Engine) (h : Held) : Engine :=
  match h.work with
  | .i2c t => e.i2cEnd { t with rd := t.rd.map fun x => (x.1, t.got.length), head := [] }
  | _ => e

theorem ended_foldl (l : List Held) : ∀ e : Engine, Ended e (l.foldl endHeld e) := by
  induction l with
  | nil => exact Ended.refl
  | cons h l ih =>
    intro e
    refine Ended.trans ?_ (ih _)
    unfold endHeld
    split
    · exact ended_i2cEnd e _
    · exact Ended.refl e

theorem foldl_endHeld_none {l : List Held} (hl : ∀ h ∈ l, ∀ t, h.work ≠ .i2c t) (e : Engine) : l.foldl endHeld e = e := by
  induction l with
  | nil => rfl
  | cons h l ih =>
    have idle : e.endHeld h = e := by
      unfold endHeld
      split
      next t served => exact absurd served (hl h List.mem_cons_self t)
      next => rfl
    rw [List.foldl_cons, idle]
    exact ih fun g hg => hl g (List.mem_cons_of_mem h hg)

theorem targetAbort_eq (e : Engine) : e.targetAbort = ((e.host.held.foldl endHeld e).heldDrop .i2c).busTimeout false := rfl

/-- A timeout as target is counted and told, and ends what the port serves (R315). -/
theorem targetAbort_spec (e : Engine) :
    let f := e.targetAbort
    f.rd R.I2CT_TMO_CNT = bump16 (e.rd R.I2CT_TMO_CNT) ∧ f.rd (estatKey 0x07) = e.rd (estatKey 0x07) ||| 2#32 ∧
    bit (f.rd (istatKey 0x07)) 3 = true ∧ RegsKept [R.I2CT_TMO_CNT, estatKey 0x07, istatKey 0x07] e f ∧
    f = { e.marked f with
      tx := f.tx, i2c := f.i2c, host := { e.host with held := e.host.held.filter fun h => h.port != .i2c }
      arriving := e.arriving ++ [e.event 0xC 0x01 1 0] } ∧
    ((∀ h ∈ e.host.held, ∀ t, h.work ≠ .i2c t) →
      f.rd (istatKey 0x07) = e.rd (istatKey 0x07) ||| 8#32 ∧ f.tx = e.tx ∧ f.i2c = e.i2c) := by
  intro f
  obtain ⟨kept, ended⟩ := ended_foldl e.host.held e
  obtain ⟨said, hcnt, hest, hist, kept'⟩ := ((e.host.held.foldl endHeld e).heldDrop .i2c).busTimeout_spec false
  rw [← targetAbort_eq] at said hcnt hest hist kept'
  refine ⟨?_, ?_, ?_, fun k hk => ?_, ?_, fun hl => ?_⟩
  · exact hcnt.trans (congrArg bump16 (kept _ (by decide)))
  · exact hest.trans (congrArg (· ||| 2#32) (kept _ (by decide)))
  · rw [hist, bit, BitVec.getLsbD_or]
    exact Bool.or_true _
  · exact (kept' k hk).trans (kept k fun h => hk (List.mem_cons_of_mem _ (List.mem_cons_of_mem _ h)))
  · unfold Pushes at said
    rw [ended] at said
    exact said
  · unfold Pushes at said
    rw [foldl_endHeld_none hl] at said hist
    exact ⟨hist, (congrArg Engine.tx said :), (congrArg Engine.i2c said :)⟩

end Engine

/-! ### The commands -/

theorem exec_aonAddressMatch (s : State) (a : Byte) : exec (.aonAddressMatch a) s = done s fun e =>
    let e := e.addressed a
    if e.access then e else e.send (.i2cAcks [false]) := rfl

theorem exec_i2cBusTimeout (s : State) (c : Bool) (ms : Nat) : exec (.i2cBusTimeout c ms) s = done s fun e =>
    if !(e.access && e.rb R.I2CT_CTL 12 && decide (25 ≤ ms)) then e
    else if !c then e.targetAbort
    else if e.noticeStart e.i2c.waiting then (e.notice .timeout).1 else e := rfl

/-- Where registers are not accepted an address finds no ACK (R320). -/
theorem leaves_addressMatch_nack {s : State} {a : Byte} (h : (s.eng.addressed a).access = false) :
    Leaves (.aonAddressMatch a) s { s.eng.addressed a with tx := (s.eng.addressed a).tx ++ [.i2cAcks [false]] } := by
  refine (exec_aonAddressMatch s a).trans ?_
  unfold done
  dsimp only
  rw [if_neg (by rw [h]; decide), Engine.send_local rfl]

/-- A timeout that is not one changes nothing (R315). -/
theorem idles_busTimeout {s : State} {c : Bool} {ms : Nat}
    (h : s.eng.access = false ∨ s.eng.rb R.I2CT_CTL 12 = false ∨ ms < 25 ∨ (c = true ∧ s.eng.noticeStart s.eng.i2c.waiting = false)) :
    Idles (.i2cBusTimeout c ms) s := by
  refine (exec_i2cBusTimeout s c ms).trans (congrArg (fun e : Engine => (.next { s with eng := e.settle } : Out)) ?_)
  have early (h : (s.eng.access && s.eng.rb R.I2CT_CTL 12 && decide (25 ≤ ms)) = false) :
      (!(s.eng.access && s.eng.rb R.I2CT_CTL 12 && decide (25 ≤ ms))) = true := by rw [h]; rfl
  rcases h with h | h | h | ⟨rfl, h⟩
  · exact if_pos (early (by rw [h]; rfl))
  · exact if_pos (early (by rw [h, Bool.and_false]; rfl))
  · exact if_pos (early (by rw [decide_eq_false (Nat.not_le.mpr h), Bool.and_false]))
  · beta_reduce
    rw [if_neg (show ¬(!true) = true by decide), if_neg (show ¬s.eng.noticeStart s.eng.i2c.waiting = true by rw [h]; decide)]
    exact ite_self _

section
variable {s : State} {ms : Nat} (hacc : s.eng.access = true) (hctl : s.eng.rb R.I2CT_CTL 12 = true) (hms : 25 ≤ ms)
include hacc hctl hms

/-- A timeout of the port as controller is a failure of the attempt at a notice (R315, R318). -/
theorem exec_timeout_controller (hstart : s.eng.noticeStart s.eng.i2c.waiting = true) : exec (.i2cBusTimeout true ms) s =
    exec (if s.eng.i2c.waiting then .noticeRetry .timeout else .notice .timeout) s := by
  have attempt : exec (if s.eng.i2c.waiting then .noticeRetry .timeout else .notice .timeout) s =
      doneS (s.attemptNotice .timeout) := by
    cases hw : s.eng.i2c.waiting with
    | false => rw [hw] at hstart; exact (exec_notice s .timeout).trans (by rw [if_pos hstart])
    | true => rw [hw] at hstart; exact (exec_noticeRetry s .timeout).trans (by rw [if_pos hstart])
  have none : (s.eng.notice .timeout).2 = none := by
    unfold Engine.notice
    split <;> rfl
  rw [attempt, attemptNotice_none (e := (s.eng.notice .timeout).1) (Prod.ext rfl none), exec_i2cBusTimeout, done]
  rw [if_neg (by simp [hacc, hctl, hms]), if_neg (by decide), if_pos hstart]
  rfl

theorem leaves_timeout_target : Leaves (.i2cBusTimeout false ms) s s.eng.targetAbort := by
  refine (exec_i2cBusTimeout s false ms).trans ?_
  unfold done
  dsimp only
  rw [if_neg (by simp [hacc, hctl, hms]), if_pos (by decide)]

end

/-- Settles O55: another address, a write and a read of one register, an address in sleep, and a timeout. -/
theorem twoWireTransactions : Obligations.TwoWireTransactions := by
  refine ⟨fun s bs a n => ⟨queues_transaction (exec_i2cWrite s bs), queues_transaction (exec_i2cRead s bs a n)⟩,
    fun s a t hheld haddr ha => ⟨leaves_write_other hheld haddr ha t, leaves_read_other hheld haddr ha⟩,
    fun s a p o b0 b1 b2 b3 hheld ha hacc hm ht hp ho => ⟨fun bs n hopen hc hbs => ?_, fun c hpec hwrong => ?_⟩,
    fun s a hheld ha hopen hm ht hp hc hpec hpop => exec_read_one hheld hm ht ha hopen hp hc hpec hpop,
    fun s a => ⟨fun hacc hm ht => ?_, fun hacc ha => ?_, fun hmode hwake hvdd hen ha => ?_⟩,
    fun s c ms => ⟨idles_busTimeout, fun hacc hctl hms => ⟨exec_timeout_controller hacc hctl hms,
      s.eng.targetAbort, leaves_timeout_target hacc hctl hms, s.eng.targetAbort_spec⟩⟩⟩
  · obtain ⟨hpec, rfl, rfl⟩ | ⟨hpec, rfl, rfl⟩ := hbs
    · exact exec_write_one hheld hm ht hp hopen hc (Engine.i2cWrite_plain ha hacc hp ho hpec) rfl
    · exact exec_write_one hheld hm ht hp hopen hc (Engine.i2cWrite_pec ha hacc hp ho hpec) rfl
  · let ptr := p.toNat * 256 + o.toNat
    obtain ⟨said, hcnt, hest, hist, kept⟩ := (s.eng.pointing ptr).pecFail_spec p.toNat
    have wrong : (s.eng.setBusy true).i2cWrite [a, p, o, b0, b1, b2, b3, c] =
        ((s.eng.pointing ptr).pecFail p.toNat, { acks := List.replicate 7 true ++ [false] }) :=
      Engine.i2cWrite_wrongPec (e := s.eng.setBusy true) ha hacc hp ho hpec hwrong
    have ends : Leaves (.i2cWriteTransaction [a, p, o, b0, b1, b2, b3, c]) s { (s.eng.pointing ptr).pecFail p.toNat with
        i2c := { ((s.eng.pointing ptr).pecFail p.toNat).i2c with busy := false }
        tx := ((s.eng.pointing ptr).pecFail p.toNat).tx ++ [.i2cAcks (List.replicate 7 true ++ [false])] } := by
      refine exec_transaction (t := s) (exec_i2cWrite s _) hheld ?_
      rw [Engine.i2cStart_write hm ht, wrong, State.runI2c_ends rfl rfl rfl, Engine.i2cEnd_quiet rfl rfl]
    refine ⟨_, ends, hcnt, hest, hist, kept, ?_⟩
    rw [said]
    rfl
  · refine (exec_aonAddressMatch s a).trans ?_
    unfold done
    dsimp only
    rw [Engine.addressed_awake hm ht, if_pos hacc]
  · have other : s.eng.addressed a = s.eng := Engine.addressed_other ha
    have nack := leaves_addressMatch_nack (s := s) (a := a) (by rw [other]; exact hacc)
    rw [other] at nack
    exact nack
  · have named : s.eng.addressed a = s.eng.wakeSource 0 := if_pos ⟨ha, by rw [hmode]; rfl, hvdd⟩
    have woken := Engine.woken_wakeSource (by decide) hmode hen hwake
    have asleep : (s.eng.wakeSource 0).access = false := by
      obtain ⟨-, -, hsys, -, -⟩ := woken
      unfold Engine.access
      rw [hsys]
    have tx : (s.eng.wakeSource 0).tx = s.eng.tx := by
      obtain ⟨-, -, -, -, rest⟩ := woken
      exact (congrArg Engine.tx rest :)
    have nack := leaves_addressMatch_nack (s := s) (a := a) (by rw [named]; exact asleep)
    rw [named, tx] at nack
    refine ⟨_, nack, rfl, ?_⟩
    rw [← tx]
    exact woken

end Sys2Proof.Machine
end

section
/-! PROOF. O30: frames of the lanes and of the timing stream. -/

namespace Sys2Proof.Machine

namespace Engine

/-- Without an injection of its kind nothing is injected (R334). -/
theorem inject_none {e : Engine} {kind : Nat} (h : e.hinge.active = false ∨ e.hinge.kind ≠ kind) : e.inject kind = (e, false) := by
  unfold inject
  rw [if_neg (fun both => ?_)]
  obtain ⟨active, same⟩ := (Bool.and_eq_true _ _).mp both
  rcases h with h | h
  · rw [h] at active; cases active
  · exact h (eq_of_beq same)

/-- A frame is intact (R331). -/
def intact (e : Engine) (f : Frame) : Prop :=
  f.arrived = true ∧ e.hinge.c.st ≠ .retrain ∧ linkDead e.hinge.c = false ∧ f.crcOk = true ∧ f.cyc = e.time.tb.setWidth 4

/-- Without an injection a frame is taken as it has come. -/
theorem frameOk_eq {e : Engine} (h : e.hinge.active = false ∨ e.hinge.kind ≠ 2) (s : Nat) (f : Frame) :
    (e.frameOk s f).1 = e ∧ ((e.frameOk s f).2 = true ↔ e.intact f) := by
  unfold frameOk
  dsimp only
  rw [inject_none h, ite_self]
  refine ⟨rfl, ?_⟩
  unfold intact
  simp only [Bool.and_eq_true, bne_iff_ne, Bool.not_eq_true', beq_iff_eq, and_true, and_assoc]

/-! ### Damaged frames (R332) -/

theorem Pushes.withRecb {vs : List Event} {a b : Engine} (h : Pushes vs a b) (x : RecBlk) :
    Pushes vs { a with recb := x } { b with recb := x } := by
  unfold Pushes at h ⊢
  exact congrArg (fun e : Engine => { e with recb := x }) h


/-- The registers in which a damaged frame is told. -/
def damageTold (e : Engine) (s : Nat) : Engine :=
  (((e.count R.HINGE_C_SMP_CNT).estat 0x23 4).istat 0x23 16).wr R.HINGE_C_LAST
    (w32 (6 * 2 ^ 28 + s * 2 ^ 20 + e.time.tb.toNat % 2 ^ 20))

theorem onlyRegs_damageTold (e : Engine) (s : Nat) : OnlyRegs e (e.damageTold s) :=
  (((onlyRegs_count e _).trans (onlyRegs_estat _ _ _)).trans (onlyRegs_istat _ _ _)).trans (onlyRegs_wr _ _ _)

theorem regsKept_damageTold (e : Engine) (s : Nat) :
    RegsKept [R.HINGE_C_SMP_CNT, estatKey 0x23, istatKey 0x23, R.HINGE_C_LAST] e (e.damageTold s) :=
  (((regsKept_count e _).trans (regsKept_estat _ _ _)).trans (regsKept_istat _ _ _)).trans (regsKept_wr _ _ _)

theorem rd_damageTold (e : Engine) (s : Nat) :
    (e.damageTold s).rd R.HINGE_C_SMP_CNT = bump16 (e.rd R.HINGE_C_SMP_CNT) ∧
    (e.damageTold s).rd (estatKey 0x23) = e.rd (estatKey 0x23) ||| 4#32 ∧
    (e.damageTold s).rd (istatKey 0x23) = e.rd (istatKey 0x23) ||| 16#32 ∧
    (e.damageTold s).rd R.HINGE_C_LAST = w32 (6 * 2 ^ 28 + s * 2 ^ 20 + e.time.tb.toNat % 2 ^ 20) := by
  unfold damageTold
  refine ⟨?_, ?_, ?_, rd_wr_same _ _ _⟩
  · rw [rd_wr_other _ _ _ _ (by decide), rd_istat_other _ _ _ _ (by decide), rd_estat_other _ _ _ _ (by decide), rd_count_same]
  · rw [rd_wr_other _ _ _ _ (by decide), rd_istat_other _ _ _ _ (by decide), rd_estat_same, rd_count_other _ _ _ (by decide)]
    rfl
  · rw [rd_wr_other _ _ _ _ (by decide), rd_istat_same, rd_estat_other _ _ _ _ (by decide), rd_count_other _ _ _ (by decide)]
    rfl

theorem inCyc_of_same {e f : Engine} (hr : f.recb = e.recb) (ht : f.time = e.time) (s n : Nat) (g : CycAcc → CycAcc) :
    f.inCyc s n g = { f with recb := (e.inCyc s n g).recb } :=
  congrArg (fun r => { f with recb := r }) (inCyc_recb hr ht s n g)

/-- A damaged frame of a stream is told, and marked in the stream's cycle (R332). -/
theorem damage_spec (e : Engine) (s : Nat) (said : Bool) :
    (∀ k, (e.damage s said).rd k = (e.damageTold s).rd k) ∧
    Pushes (if !said && e.rb R.HINGE_CTL 0 then [e.event 0xD 0x04 2 s] else [])
      { e with recb := (e.inCyc s e.time.now fun c => { c with damaged := true }).recb } (e.damage s said) := by
  have wanted : (e.damageTold s).rb R.HINGE_CTL 0 = e.rb R.HINGE_CTL 0 :=
    congrArg (bit · 0) (regsKept_damageTold e s R.HINGE_CTL (by decide))
  let vs := if !said && e.rb R.HINGE_CTL 0 then [e.event 0xD 0x04 2 s] else []
  let pushed := (e.damageTold s).pushIf (!said && e.rb R.HINGE_CTL 0) 0xD 0x04 2 s
  have pushes : Pushes vs e pushed := (onlyRegs_damageTold e s).pushes.pushIf _ 0xD 0x04 2 s
  have told : e.damage s said = pushed.inCyc s pushed.time.now fun c => { c with damaged := true } :=
    congrArg (fun w => ((e.damageTold s).pushIf (!said && w) 0xD 0x04 2 s).inCyc s
      ((e.damageTold s).pushIf (!said && w) 0xD 0x04 2 s).time.now fun c => { c with damaged := true }) wanted
  have time : pushed.time = e.time := (congrArg Engine.time pushes :)
  refine ⟨fun k => ?_, ?_⟩
  · rw [told, rd_inCyc]
    exact rd_pushIf _ _ _ _ _ _ k
  · rw [told, time, inCyc_of_same (f := pushed) (e := e) (congrArg Engine.recb pushes :) time]
    exact pushes.withRecb _

/-! ### The frame of a lane (R331 to R333) -/

/-- What a frame that is taken makes of a lane, of its stream's cycle and of what the sequencer is given, the vectors after it. -/
theorem laneTaken_eq {e : Engine} {lanes : List Lane} {m : Nat} (pwr : PwrBlk) (g : Lane → Lane) (c : CycAcc → CycAcc)
    (q : Seen → Seen) : (((({ e with lanes := lanes, pwr := pwr } : Engine).setLane m g).inCyc m e.time.now c).setSeen e.time.now q).vecs m =
      let x := ((({ e with lanes := lanes } : Engine).setLane m g).setSeen e.time.now q).vecs m
      { e with lanes := x.lanes, seq := x.seq, pwr := pwr, recb := (e.inCyc m e.time.now c).recb } := by
  let shown := ({ e with lanes := lanes } : Engine).setLane m g
  let marked : Engine := { shown with pwr := pwr, recb := (e.inCyc m e.time.now c).recb }
  have given : marked.setSeen e.time.now q = { marked with seq := (shown.setSeen e.time.now q).seq } :=
    setSeen_of_same (e := shown) (f := marked) rfl _ _
  have vectors := vecs_of_same (f := marked.setSeen e.time.now q) (e := shown.setSeen e.time.now q)
    (by rw [setSeen_lanes, setSeen_lanes]) (by rw [given]) (by rw [setSeen_time, setSeen_time]) m
  rw [inCyc_of_same (f := ({ e with lanes := lanes, pwr := pwr } : Engine).setLane m g) (e := e) rfl rfl]
  rw [given] at vectors
  exact (congrArg (fun x : Engine => x.vecs m) given).trans vectors

/-- What a damaged frame of a lane leaves of it, and of what the sequencer is given. -/
theorem laneDamaged_eq {vs : List Event} {a b e : Engine} (h : Pushes vs a b) (hs : a.seq = e.seq) (m n : Nat) (g : Lane → Lane)
    (q : Seen → Seen) : let f := (b.setLane m g).setSeen n q
    f = { a.marked f with lanes := (a.setLane m g).lanes, seq := (e.setSeen n q).seq, arriving := a.arriving ++ vs } := by
  intro f
  have seq : b.seq = a.seq := (congrArg Engine.seq h :)
  have shown : f = { b.setLane m g with seq := (e.setSeen n q).seq } := setSeen_of_same (f := b.setLane m g) (seq.trans hs) n q
  rw [shown]
  unfold Pushes at h
  rw [h]
  rfl

section
variable {e : Engine} {m : Fin 4} {f : Frame} {pins : List (List Int)} (h : e.hinge.active = false ∨ e.hinge.kind ≠ 2)
include h

/-- An intact frame gives its words to the sequencer and to the lane's stream (R331). -/
theorem laneFrame_intact (hf : e.intact f) : e.laneFrame m f pins =
    let now := e.time.now
    let r := e.laneStep m pins
    let x := ((r.1.setLane m fun l => { l with words := r.2, intactTo := now + 1, damaged := 0 }).setSeen now
      fun q => { q with words := upd q.words m fun _ => r.2 }).vecs m
    { e with
      lanes := x.lanes, seq := x.seq, pwr := (e.setBlk (1 + m) fun b => { b with worked := true }).pwr
      recb := (e.inCyc m now fun c => { c with
        words := r.2, got := true, integ := if (e.lane m).damaged = 0 then none else some (e.lane m).damaged }).recb } := by
  obtain ⟨same, taken⟩ := frameOk_eq (e := (e.laneStep m pins).1) h m f
  unfold laneFrame
  dsimp only
  rw [if_pos (taken.mpr hf), same]
  exact laneTaken_eq (lanes := (e.laneStep m pins).1.lanes) _ _ _ _

/-- A damaged one is told, and the sequencer keeps the last word in every position (R332, R333). -/
theorem laneFrame_damaged (hf : ¬e.intact f) :
    let now := e.time.now
    let l := e.lane m
    (∀ k, (e.laneFrame m f pins).rd k = (e.damageTold m).rd k) ∧
    e.laneFrame m f pins = { e.marked (e.laneFrame m f pins) with
      lanes := ((e.laneStep m pins).1.setLane m fun l => { l with damaged := l.damaged + 1, dmgTide := true }).lanes
      pwr := (e.setBlk (1 + m) fun b => { b with worked := true }).pwr
      seq := (e.setSeen now fun q => { q with
        words := upd q.words m fun _ => List.replicate l.words.length (l.words.getLastD 0#14)
        rg := q.rg ||| BitVec.ofNat 4 (at1 (l.rgVec != 0#14) m), am := q.am ||| BitVec.ofNat 4 (at1 (l.amVec != 0#14) m) }).seq
      recb := (e.inCyc m now fun c => { c with damaged := true }).recb
      arriving := e.arriving ++ if !l.dmgTide && e.rb R.HINGE_CTL 0 then [e.event 0xD 0x04 2 m] else [] } := by
  intro now l
  let base := (e.laneStep m pins).1.setBlk (1 + m) fun b => { b with worked := true }
  obtain ⟨same, taken⟩ := frameOk_eq (e := (e.laneStep m pins).1) h m f
  obtain ⟨rd_told, said⟩ := base.damage_spec m l.dmgTide
  have told : e.laneFrame m f pins = (((base.damage m l.dmgTide).setLane m fun l => { l with
      damaged := l.damaged + 1, dmgTide := true }).setSeen now fun q => { q with
        words := upd q.words m fun _ => List.replicate l.words.length (l.words.getLastD 0#14)
        rg := q.rg ||| BitVec.ofNat 4 (at1 (l.rgVec != 0#14) m), am := q.am ||| BitVec.ofNat 4 (at1 (l.amVec != 0#14) m) }) := by
    have time : (base.damage m l.dmgTide).time = e.time := (congrArg Engine.time said :)
    unfold laneFrame
    dsimp only
    rw [if_neg (mt taken.mp hf), same, setLane_time]
    exact congrArg (fun t : TimeBlk => Engine.setSeen _ t.now _) time
  refine ⟨fun k => ?_, ?_⟩
  · rw [told, rd_setSeen, rd_setLane, rd_told]
    rfl
  · rw [told]
    exact laneDamaged_eq (e := e) said rfl m now _ _

end

/-! ### The frame of the timing stream (R331, R332) -/

/-- An intact frame of the timing stream ends a span of damaged ones. -/
theorem timingFrame_intact {e : Engine} {f : Frame} (h : e.hinge.active = false ∨ e.hinge.kind ≠ 2) (hf : e.intact f) :
    e.timingFrame f = { e with
      tdc := { e.tdc with frameTo := e.time.now + 1, damaged := 0 }
      recb := if e.tdc.damaged = 0 then e.recb
        else (e.inCyc 4 e.time.now fun c => { c with integ := some e.tdc.damaged }).recb } := by
  obtain ⟨same, taken⟩ := frameOk_eq h 4 f
  unfold timingFrame
  dsimp only
  rw [if_pos (taken.mpr hf), same]
  split
  · rfl
  · have marked := inCyc_recb (a := { e with tdc.frameTo := e.time.now + 1 }) (b := e) rfl rfl 4 e.time.now
      fun c => { c with integ := some e.tdc.damaged }
    exact congrArg (fun r : RecBlk => { e with tdc := { e.tdc with frameTo := e.time.now + 1, damaged := 0 }, recb := r }) marked

theorem sampleFrame_lane {e : Engine} {f : Frame} {m : Fin 4} {pins : List (List Int)} (hb : f.body = .lane m pins) :
    e.sampleFrame f = if e.laneDue m then e.laneFrame m f pins else e := by
  unfold sampleFrame
  rw [hb]

theorem sampleFrame_timing {e : Engine} {f : Frame} (hb : f.body = .timing) :
    e.sampleFrame f = if e.timingDue then e.timingFrame f else e := by
  unfold sampleFrame
  rw [hb]

theorem laneDue_iff {e : Engine} {m : Nat} : e.laneDue m = true ↔
    (e.lane m).running = true ∧ e.seq.arm ≤ e.time.now ∧ (e.lane m).evalTo ≤ e.time.now := by
  simp only [laneDue, Bool.and_eq_true, decide_eq_true_eq, and_assoc]

end Engine

/-- A frame that is taken leaves what it makes. -/
theorem leaves_sampleFrame {s : State} {f : Frame} {e : Engine} (h : s.eng.sampleFrame f = e) : Leaves (.sampleFrame f) s e := by
  rw [← h]
  exact show exec (.sampleFrame f) s = done s fun e => e.sampleFrame f from rfl

/-- Settles O30: a source that does not sample, the timing stream, and a lane's frame intact or damaged. -/
theorem laneFrames : Obligations.LaneFrames := by
  refine ⟨fun s f hidle => ?_, fun s f hinj => ⟨fun hb hdue hf => ?_, fun m pins hb hrun harm hdue => ⟨fun hf => ?_, fun hf => ?_⟩⟩⟩
  · refine leaves_sampleFrame ?_
    obtain ⟨m, pins, hb, hdue⟩ | ⟨hb, hdue⟩ := hidle
    · rw [Engine.sampleFrame_lane hb, if_neg (by rw [hdue]; decide)]
    · rw [Engine.sampleFrame_timing hb, if_neg (by rw [hdue]; decide)]
  · exact leaves_sampleFrame (by rw [Engine.sampleFrame_timing hb, if_pos hdue, Engine.timingFrame_intact hinj hf])
  · have due := Engine.laneDue_iff.mpr ⟨hrun, harm, hdue⟩
    exact leaves_sampleFrame (by rw [Engine.sampleFrame_lane hb, if_pos due, Engine.laneFrame_intact hinj hf])
  · have due := Engine.laneDue_iff.mpr ⟨hrun, harm, hdue⟩
    obtain ⟨rd_told, rest⟩ := Engine.laneFrame_damaged (m := m) (pins := pins) hinj hf
    obtain ⟨hcnt, hest, hist, hlast⟩ := s.eng.rd_damageTold m
    exact ⟨_, leaves_sampleFrame (by rw [Engine.sampleFrame_lane hb, if_pos due]), (rd_told _).trans hcnt, (rd_told _).trans hest,
      (rd_told _).trans hist, (rd_told _).trans hlast, (s.eng.regsKept_damageTold m).of_rd rd_told, rest⟩

end Sys2Proof.Machine
end

section
/-! SUPPORT. The Hinge links: the two ends of a link, a link that is replaced, what an acknowledgement makes of a link. -/

namespace Sys2Proof.Machine

/-! ### The ends of a link (R325 to R327) -/

namespace HingeLink

/-- The end of the link at Headland, or at the other die. -/
def side (x : HingeLink) (h : Bool) : LinkEnd := if h then x.head else x.far

/-- The link with another state of an end. -/
def withEnd (x : HingeLink) (h : Bool) (n : LinkEnd) : HingeLink := if h then { x with head := n } else { x with far := n }

/-- DATA traffic passes (R328). -/
abbrev passes (x : HingeLink) : Prop := x.st = .trained ∨ x.st = .replay

variable (x : HingeLink) (h : Bool) (n m : LinkEnd)

@[simp] theorem side_withEnd_same : (x.withEnd h n).side h = n := by cases h <;> rfl
@[simp] theorem side_withEnd_other : (x.withEnd h n).side (!h) = x.side (!h) := by cases h <;> rfl
@[simp] theorem withEnd_withEnd : (x.withEnd h n).withEnd h m = x.withEnd h m := by cases h <;> rfl
@[simp] theorem withEnd_side : x.withEnd h (x.side h) = x := by cases h <;> rfl
@[simp] theorem withEnd_st : (x.withEnd h n).st = x.st := by cases h <;> rfl
@[simp] theorem withEnd_last : (x.withEnd h n).last = x.last := by cases h <;> rfl
@[simp] theorem side_state (v : LinkState) : ({ x with st := v } : HingeLink).side h = x.side h := by cases h <;> rfl

theorem withEnd_playing (v : LinkState) (t : Nat) :
    ({ x with st := v, last := t } : HingeLink).withEnd h n = { x.withEnd h n with st := v, last := t } := by cases h <;> rfl

/-- The link after an acknowledgement of the frames up to ack: they are free, and a replay is over with its last frame (R326). -/
def released (x : HingeLink) (h : Bool) (ack : Nat) : HingeLink :=
  let y := x.withEnd h { x.side h with out := (x.side h).out.filter fun o => decide (128 ≤ (ack + 256 - o.seq) % 256) }
  { y with st := if x.st = .replay ∧ ∀ o ∈ y.head.out ++ y.far.out, o.plays = 0 then .trained else x.st }

/-- And after those that waited for room have been sent (R327). -/
def acked (x : HingeLink) (h : Bool) (ack now : Nat) : HingeLink :=
  let y := x.released h ack
  y.withEnd h (if y.passes then (y.side h).flush now else y.side h)

variable {x} {h}

@[simp] theorem side_acked_other {ack now : Nat} : (x.acked h ack now).side (!h) = x.side (!h) := by
  unfold acked released
  rw [side_withEnd_other, side_state, side_withEnd_other]

@[simp] theorem exp_flush (n : LinkEnd) (now : Nat) : (n.flush now).exp = n.exp := rfl

/-- An acknowledgement leaves the number that the end expects. -/
@[simp] theorem exp_acked {ack now : Nat} : ((x.acked h ack now).side h).exp = (x.side h).exp := by
  unfold acked
  rw [side_withEnd_same]
  have kept : ((x.released h ack).side h).exp = (x.side h).exp := by
    unfold released
    rw [side_state, side_withEnd_same]
  split
  · rw [exp_flush, kept]
  · exact kept

/-- DATA traffic passes on. -/
theorem passes_acked {ack now : Nat} (hx : x.passes) : (x.acked h ack now).passes := by
  unfold acked passes
  rw [withEnd_st]
  unfold released
  dsimp only
  split
  · exact Or.inl rfl
  · exact hx

end HingeLink

namespace LinkEnd

/-- Never more than 32 frames are unacknowledged (R327). -/
theorem flush_room {n : LinkEnd} (h : n.out.length ≤ 32) (now : Nat) : (n.flush now).out.length ≤ 32 := by
  unfold flush
  simp only [List.length_append, List.length_map, List.length_zipIdx, List.length_take]
  omega

/-- What waited for room is sent in order, and nothing is lost. -/
theorem flush_order (n : LinkEnd) (now : Nat) : (n.flush now).out.map (·.op) ++ (n.flush now).queue = n.out.map (·.op) ++ n.queue := by
  let k := min (32 - n.out.length) n.queue.length
  have carried : ((n.queue.take k).zipIdx.map fun x : Option HingeOp × Nat =>
      ({ seq := (n.next + x.2) % 256, sent := now, op := x.1 } : OutFrame)).map (·.op) = n.queue.take k := by
    rw [List.map_map]
    exact List.zipIdx_map_fst 0 (n.queue.take k)
  show ((n.out ++ _).map (·.op)) ++ n.queue.drop k = _
  rw [List.map_append, carried, List.append_assoc, List.take_append_drop]

end LinkEnd

/-! ### A link that is replaced -/

namespace Engine

/-- The engine with link s as x. -/
def putLink (e : Engine) (s : Bool) (x : HingeLink) : Engine := e.setLink s fun _ => x

section
variable (e : Engine) (s h : Bool) (x y : HingeLink)

theorem setLink_eq (f : HingeLink → HingeLink) : e.setLink s f = e.putLink s (f (e.hlink s)) := by cases s <;> rfl
@[simp] theorem hlink_putLink : (e.putLink s x).hlink s = x := by cases s <;> rfl
@[simp] theorem putLink_putLink : (e.putLink s x).putLink s y = e.putLink s y := by cases s <;> rfl
@[simp] theorem putLink_hlink : e.putLink s (e.hlink s) = e := by cases s <;> rfl
@[simp] theorem putLink_time : (e.putLink s x).time = e.time := by cases s <;> rfl
@[simp] theorem putLink_tx : (e.putLink s x).tx = e.tx := by cases s <;> rfl
@[simp] theorem rd_putLink (k : Nat) : (e.putLink s x).rd k = e.rd k := rd_setLink e s _ k

theorem putLink_eq : e.putLink s x = { e with hinge := (e.putLink s x).hinge } := by cases s <;> rfl

theorem linkEnd_eq : e.linkEnd s h = (e.hlink s).side h := rfl

theorem setEnd_eq (f : LinkEnd → LinkEnd) : e.setEnd s h f = e.putLink s ((e.hlink s).withEnd h (f ((e.hlink s).side h))) := by
  unfold setEnd
  rw [setLink_eq]
  cases h <;> rfl

theorem linkOpen_iff : e.linkOpen s = true ↔ (e.hlink s).passes := by
  simp only [linkOpen, Bool.or_eq_true, beq_iff_eq, HingeLink.passes]

theorem linkFlush_eq : e.linkFlush s h = e.putLink s ((e.hlink s).withEnd h
    (if (e.hlink s).passes then ((e.hlink s).side h).flush e.time.now else (e.hlink s).side h)) := by
  unfold linkFlush
  simp only [linkOpen_iff]
  split
  · exact setEnd_eq e s h _
  · rw [HingeLink.withEnd_side, putLink_hlink]

/-- An acknowledgement reaches an end of the link (R326). -/
theorem linkAck_eq (ack : Nat) : e.linkAck s h ack = e.putLink s ((e.hlink s).acked h ack e.time.now) := by
  let n := (e.hlink s).side h
  let y := (e.hlink s).withEnd h (n.release ack)
  have ended : ((y.head.out ++ y.far.out).all fun f => f.plays == 0) = true ↔ ∀ o ∈ y.head.out ++ y.far.out, o.plays = 0 := by
    simp only [List.all_eq_true, beq_iff_eq]
  have freed : (e.setEnd s h fun n => n.release ack).setLink s (fun l =>
      { l with st := if l.st = .replay ∧ (l.head.out ++ l.far.out).all (fun f => f.plays == 0) = true then .trained else l.st }) =
      e.putLink s ((e.hlink s).released h ack) := by
    rw [setEnd_eq, setLink_eq, hlink_putLink, putLink_putLink]
    refine congrArg (e.putLink s) (congrArg (fun v => { y with st := v }) ?_)
    simp only [HingeLink.withEnd_st]
    exact if_congr (and_congr_right fun _ => ended) rfl rfl
  unfold linkAck
  dsimp only
  rw [freed, linkFlush_eq, hlink_putLink, putLink_putLink, putLink_time]
  rfl

end

end Engine

end Sys2Proof.Machine
end

section
/-! PROOF. O57: frames of the Hinge links: sequence, acknowledgement, replay; Shoal's self-refresh. -/

namespace Sys2Proof.Machine

namespace Engine

variable {e : Engine} {s h : Bool} {x : HingeLink}

/-- Without an injection nothing is injected (R334). -/
theorem inject_inactive (ha : e.hinge.active = false) (kind : Nat) : e.inject kind = (e, false) := inject_none (Or.inl ha)

/-! ### A DATA frame at its receiver (R326) -/

/-- The name of a link. -/
def linkName (s : Bool) : Link := if s then .s else .c

theorem linkName_isS (l : Link) : linkName (isS l) = l := by cases l <;> rfl

theorem OnlyRegs.tx {a b : Engine} (h : OnlyRegs a b) : b.tx = a.tx := by
  rw [h]
  rfl

theorem OnlyRegs.withTx {a b : Engine} (h : OnlyRegs a b) (t : List Tx) :
    ({ b with tx := t } : Engine) = { a.marked { b with tx := t } with tx := t } :=
  congrArg (fun e : Engine => { e with tx := t }) h

theorem OnlyRegs.time {a b : Engine} (h : OnlyRegs a b) : b.time = a.time := by
  rw [h]
  rfl

theorem OnlyRegs.hlink {a b : Engine} (h : OnlyRegs a b) (s : Bool) : b.hlink s = a.hlink s := by
  rw [h]
  rfl

theorem OnlyRegs.putLink {b : Engine} (h : OnlyRegs (e.putLink s x) b) (y : HingeLink) :
    b.putLink s y = { e.marked (b.putLink s y) with hinge := (e.putLink s y).hinge } := by
  rw [h]
  cases s <;> rfl

/-- HINGE_x_LAST is written alone (R336). -/
theorem linkLast_spec (e : Engine) (s : Bool) (kind seq : Nat) :
    OnlyRegs e (e.linkLast s kind seq) ∧ RegsKept [linkReg s R.HINGE_C_LAST R.HINGE_S_LAST] e (e.linkLast s kind seq) ∧
    (e.linkLast s kind seq).rd (linkReg s R.HINGE_C_LAST R.HINGE_S_LAST) =
      w32 (kind * 2 ^ 28 + seq % 256 * 2 ^ 20 + e.time.tb.toNat % 2 ^ 20) :=
  ⟨onlyRegs_wr _ _ _, regsKept_wr _ _ _, rd_wr_same _ _ _⟩

/-- A duplicate is counted, and kept as the last error. -/
def duplicate (e : Engine) (s : Bool) (seq : Nat) : Engine :=
  (e.count (linkReg s R.HINGE_C_DUP_CNT R.HINGE_S_DUP_CNT)).linkLast s 3 seq

theorem onlyRegs_duplicate (e : Engine) (s : Bool) (seq : Nat) : OnlyRegs e (e.duplicate s seq) :=
  (onlyRegs_count e _).trans (linkLast_spec _ s 3 seq).1

theorem duplicate_spec (e : Engine) (s : Bool) (seq : Nat) :
    let cnt := linkReg s R.HINGE_C_DUP_CNT R.HINGE_S_DUP_CNT
    let last := linkReg s R.HINGE_C_LAST R.HINGE_S_LAST
    (e.duplicate s seq).rd cnt = bump16 (e.rd cnt) ∧
    (e.duplicate s seq).rd last = w32 (3 * 2 ^ 28 + seq % 256 * 2 ^ 20 + e.time.tb.toNat % 2 ^ 20) ∧
    RegsKept [cnt, last] e (e.duplicate s seq) := by
  intro cnt last
  have other : cnt ∉ [last] := by cases s <;> decide
  obtain ⟨-, kept, written⟩ := linkLast_spec (e.count cnt) s 3 seq
  exact ⟨(kept cnt other).trans (rd_count_same e cnt), written, (regsKept_count e cnt).trans kept⟩

section
variable {exp seq : Nat} (hx : (x.side h).exp = exp)
include hx

/-- A frame in sequence moves the receiver's number on and is acknowledged. -/
theorem linkReceive_next (hs : seq = exp) : (e.putLink s x).linkReceive s h seq =
    ({ e.putLink s (x.withEnd h { x.side h with exp := (exp + 1) % 256 }) with
      tx := e.tx ++ [.hingeAck (linkName s) h exp] }, true) := by
  unfold linkReceive
  dsimp only
  rw [linkEnd_eq, hlink_putLink, hx, if_pos hs, setEnd_eq, hlink_putLink, putLink_putLink, send_local rfl, putLink_tx]
  rfl

/-- A later one is refused. -/
theorem linkReceive_later (hs : seq ≠ exp) (hlate : (seq + 256 - exp) % 256 < 128) : (e.putLink s x).linkReceive s h seq =
    ({ e.putLink s x with tx := e.tx ++ [.hingeNak (linkName s) h ((exp + 255) % 256)] }, false) := by
  unfold linkReceive
  dsimp only
  rw [linkEnd_eq, hlink_putLink, hx, if_neg hs, if_neg (Nat.not_le.mpr hlate), send_local rfl, putLink_tx]
  rfl

/-- An earlier one is a duplicate: counted, kept as the last error, acknowledged once more. -/
theorem linkReceive_earlier (hs : seq ≠ exp) (hearly : 128 ≤ (seq + 256 - exp) % 256) : (e.putLink s x).linkReceive s h seq =
    ({ (e.putLink s x).duplicate s seq with tx := e.tx ++ [.hingeAck (linkName s) h ((exp + 255) % 256)] }, false) := by
  have told : ((e.putLink s x).duplicate s seq).tx = e.tx :=
    (onlyRegs_duplicate (e.putLink s x) s seq).tx.trans (putLink_tx e s x)
  unfold linkReceive
  dsimp only
  rw [linkEnd_eq, hlink_putLink, hx, if_neg hs, if_pos hearly, send_local rfl, ← duplicate, told]
  rfl

end

/-- A frame that is not intact, not of the type, or not passed, changes nothing (R325, R328). -/
theorem dataFrame_refused {f : LinkFrame} (hf : ¬((frameIntact f = true ∧ frameType f = 1) ∧ (e.hlink s).passes)) :
    e.dataFrame s f = (e, none) := by
  unfold dataFrame
  rw [if_pos]
  rw [Bool.not_eq_true', ← Bool.not_eq_true, Bool.and_eq_true, Bool.and_eq_true, beq_iff_eq, linkOpen_iff]
  exact hf

/-- One that is passed acknowledges, and goes to its receiver. -/
theorem dataFrame_passed {f : LinkFrame} (ha : e.hinge.active = false) (hf : frameIntact f = true ∧ frameType f = 1)
    (hp : (e.hlink s).passes) : e.dataFrame s f =
      let h := f.atHeadland
      let q := (e.putLink s ((e.hlink s).acked h (frameAck f) e.time.now)).linkReceive s h (frameSeq f)
      (q.1, if q.2 then ((e.hlink s).side !h).opOf (frameSeq f) else none) := by
  have passed : (frameIntact f && frameType f == 1 && e.linkOpen s) = true := by
    rw [Bool.and_eq_true, Bool.and_eq_true, beq_iff_eq, linkOpen_iff]
    exact ⟨hf, hp⟩
  unfold dataFrame
  dsimp only
  rw [inject_inactive ha, ite_self, if_neg (by rw [passed]; decide), linkAck_eq]
  rfl

section
variable {f : LinkFrame} (ha : e.hinge.active = false) (hf : frameIntact f = true ∧ frameType f = 1) (hp : (e.hlink s).passes)
include ha hf hp

/-- The link after a frame that it passes has acknowledged (R326). -/
theorem dataFrame_next (hseq : frameSeq f = ((e.hlink s).side f.atHeadland).exp) : e.dataFrame s f =
    let h := f.atHeadland
    let x := (e.hlink s).acked h (frameAck f) e.time.now
    ({ e.putLink s (x.withEnd h { x.side h with exp := (((e.hlink s).side h).exp + 1) % 256 }) with
      tx := e.tx ++ [.hingeAck (linkName s) h ((e.hlink s).side h).exp] }, (x.side !h).opOf (frameSeq f)) := by
  rw [dataFrame_passed ha hf hp]
  dsimp only
  rw [linkReceive_next HingeLink.exp_acked hseq, HingeLink.side_acked_other]
  rfl

variable (hseq : frameSeq f ≠ ((e.hlink s).side f.atHeadland).exp)
include hseq

theorem dataFrame_later (hlate : (frameSeq f + 256 - ((e.hlink s).side f.atHeadland).exp) % 256 < 128) : e.dataFrame s f =
    let h := f.atHeadland
    ({ e.putLink s ((e.hlink s).acked h (frameAck f) e.time.now) with
      tx := e.tx ++ [.hingeNak (linkName s) h ((((e.hlink s).side h).exp + 255) % 256)] }, none) := by
  rw [dataFrame_passed ha hf hp]
  dsimp only
  rw [linkReceive_later HingeLink.exp_acked hseq hlate]
  rfl

theorem dataFrame_earlier (hearly : 128 ≤ (frameSeq f + 256 - ((e.hlink s).side f.atHeadland).exp) % 256) : e.dataFrame s f =
    let h := f.atHeadland
    ({ (e.putLink s ((e.hlink s).acked h (frameAck f) e.time.now)).duplicate s (frameSeq f) with
      tx := e.tx ++ [.hingeAck (linkName s) h ((((e.hlink s).side h).exp + 255) % 256)] }, none) := by
  rw [dataFrame_passed ha hf hp]
  dsimp only
  rw [linkReceive_earlier HingeLink.exp_acked hseq hearly]
  rfl

end

/-! ### Acknowledgements and refusals (R326) -/

theorem ackFrame_taken {f : LinkFrame} (ha : e.hinge.active = false)
    (hf : ((frameIntact f = true ∧ frameType f = 2) ∧ (e.hlink s).passes) ∨
      ((frameIntact f = true ∧ frameType f = 4) ∧ (e.hlink s).st ≠ .fault)) :
    e.ackFrame s f = e.putLink s ((e.hlink s).acked f.atHeadland (frameAck f) e.time.now) := by
  have taken : (frameIntact f && ((frameType f == 2 && e.linkOpen s) || (frameType f == 4 && (e.hlink s).st != .fault))) = true := by
    simp only [Bool.and_eq_true, Bool.or_eq_true, beq_iff_eq, bne_iff_ne, linkOpen_iff]
    exact hf.elim (fun ⟨⟨i, t⟩, p⟩ => ⟨i, Or.inl ⟨t, p⟩⟩) fun ⟨⟨i, t⟩, p⟩ => ⟨i, Or.inr ⟨t, p⟩⟩
  unfold ackFrame
  dsimp only
  rw [inject_inactive ha, ite_self, if_neg (by rw [taken]; decide), linkAck_eq]
  rfl

theorem ackFrame_refused {f : LinkFrame} (hf : ¬(((frameIntact f = true ∧ frameType f = 2) ∧ (e.hlink s).passes) ∨
    ((frameIntact f = true ∧ frameType f = 4) ∧ (e.hlink s).st ≠ .fault))) : e.ackFrame s f = e := by
  unfold ackFrame
  refine if_pos ?_
  rw [Bool.not_eq_true', ← Bool.not_eq_true]
  simp only [Bool.and_eq_true, Bool.or_eq_true, beq_iff_eq, bne_iff_ne, linkOpen_iff]
  exact fun ⟨i, c⟩ => hf (c.imp (fun ⟨t, p⟩ => ⟨⟨i, t⟩, p⟩) fun ⟨t, p⟩ => ⟨⟨i, t⟩, p⟩)

theorem nakFrame_iff {f : LinkFrame} : (frameIntact f && frameType f == 3 && e.linkOpen s) = true ↔
    (frameIntact f = true ∧ frameType f = 3) ∧ (e.hlink s).passes := by
  rw [Bool.and_eq_true, Bool.and_eq_true, beq_iff_eq, linkOpen_iff]

theorem nakFrame_refused {f : LinkFrame} (hf : ¬((frameIntact f = true ∧ frameType f = 3) ∧ (e.hlink s).passes)) : e.nakFrame s f = e :=
  if_neg (mt nakFrame_iff.mp hf)

theorem nakFrame_taken {f : LinkFrame} (hf : frameIntact f = true ∧ frameType f = 3) (hp : (e.hlink s).passes) : e.nakFrame s f =
    (e.putLink s ((e.hlink s).acked f.atHeadland (frameAck f) e.time.now)).replay s f.atHeadland 2 := by
  rw [← linkAck_eq]
  exact if_pos (nakFrame_iff.mpr ⟨hf, hp⟩)

/-! ### Replays (R327) -/

theorem countN_succ (e : Engine) (k n : Nat) : e.countN k (n + 1) = (e.countN k n).count k := by
  unfold countN
  rw [List.range_succ, List.foldl_append]
  rfl

theorem countN_spec (e : Engine) (k : Nat) : ∀ n, OnlyRegs e (e.countN k n) ∧ RegsKept [k] e (e.countN k n) ∧
    (e.countN k n).rd k = Nat.repeat bump16 n (e.rd k)
  | 0 => ⟨rfl, fun _ _ => rfl, rfl⟩
  | n + 1 => by
    obtain ⟨only, kept, counted⟩ := countN_spec e k n
    rw [countN_succ]
    refine ⟨only.trans (onlyRegs_count _ k), fun j hj => ?_, ?_⟩
    · exact (regsKept_count _ k j hj).trans (kept j hj)
    · rw [rd_count_same, counted]
      rfl

/-- What a replay from frame o writes: the last error, and a count for each of the n frames that are sent again. -/
def replayTold (e : Engine) (s : Bool) (kind : Nat) (o : OutFrame) (n : Nat) : Engine :=
  (e.linkLast s kind o.seq).countN (linkReg s R.HINGE_C_REPLAY_CNT R.HINGE_S_REPLAY_CNT) n

theorem replayTold_spec (e : Engine) (s : Bool) (kind : Nat) (o : OutFrame) (n : Nat) :
    let cnt := linkReg s R.HINGE_C_REPLAY_CNT R.HINGE_S_REPLAY_CNT
    let last := linkReg s R.HINGE_C_LAST R.HINGE_S_LAST
    OnlyRegs e (e.replayTold s kind o n) ∧ (e.replayTold s kind o n).rd cnt = Nat.repeat bump16 n (e.rd cnt) ∧
    (e.replayTold s kind o n).rd last = w32 (kind * 2 ^ 28 + o.seq % 256 * 2 ^ 20 + e.time.tb.toNat % 2 ^ 20) ∧
    RegsKept [cnt, last] e (e.replayTold s kind o n) := by
  intro cnt last
  have counts : cnt ∉ [last] ∧ last ∉ [cnt] := by cases s <;> decide
  obtain ⟨only, kept, written⟩ := linkLast_spec e s kind o.seq
  obtain ⟨only', kept', counted⟩ := countN_spec (e.linkLast s kind o.seq) cnt n
  refine ⟨only.trans only', counted.trans (congrArg _ (kept cnt counts.1)), (kept' last counts.2).trans written, fun j hj => ?_⟩
  simp only [List.mem_cons, List.not_mem_nil, or_false, not_or] at hj
  exact (kept' j (by simpa using hj.1)).trans (kept j (by simpa using hj.2))

theorem replay_empty (hx : (x.side h).out = []) (kind : Nat) : (e.putLink s x).replay s h kind = e.putLink s x := by
  unfold replay
  rw [linkEnd_eq, hlink_putLink, hx]

theorem replay_closed (hp : ¬x.passes) (kind : Nat) : (e.putLink s x).replay s h kind = e.putLink s x := by
  have closed : ¬(e.putLink s x).linkOpen s = true := by rw [linkOpen_iff, hlink_putLink]; exact hp
  unfold replay
  split
  · rfl
  · rw [if_pos (by rw [Bool.not_eq_true', ← Bool.not_eq_true]; exact closed)]

end Engine

/-- The link as an end of it sends what is unacknowledged again (R327). -/
def HingeLink.replayed (x : HingeLink) (h : Bool) (now : Nat) : HingeLink :=
  { x.withEnd h { x.side h with out := (x.side h).out.map fun f => { f with sent := now, plays := f.plays + 1 } } with
    st := .replay, last := if h then now else x.last }

theorem HingeLink.side_playing (x : HingeLink) (h : Bool) (v : LinkState) (t : Nat) :
    ({ x with st := v, last := t } : HingeLink).side h = x.side h := by cases h <;> rfl

namespace Engine

variable {e : Engine} {s h : Bool} {x : HingeLink}

section
variable {o : OutFrame} {t : List OutFrame} (hp : x.passes) (ho : (x.side h).out = o :: t)
include hp ho

/-- A retrain takes the place of a fourth replay (R327). -/
theorem replay_fourth (h3 : 3 ≤ o.plays) (kind : Nat) : (e.putLink s x).replay s h kind = (e.putLink s x).retrain s := by
  have opened : (e.putLink s x).linkOpen s = true := by rw [linkOpen_iff, hlink_putLink]; exact hp
  unfold replay
  rw [linkEnd_eq, hlink_putLink, ho]
  dsimp only
  rw [opened, if_neg (by decide), if_pos h3]

theorem replay_eq (h3 : o.plays < 3) (kind : Nat) : (e.putLink s x).replay s h kind =
    ((e.putLink s x).replayTold s kind o (o :: t).length).putLink s (x.replayed h e.time.now) := by
  have opened : (e.putLink s x).linkOpen s = true := by rw [linkOpen_iff, hlink_putLink]; exact hp
  have link : ((e.putLink s x).linkLast s kind o.seq).hlink s = x :=
    ((linkLast_spec (e.putLink s x) s kind o.seq).1.hlink s).trans (hlink_putLink e s x)
  obtain ⟨only, -⟩ := (e.putLink s x).replayTold_spec s kind o (o :: t).length
  unfold replay
  rw [linkEnd_eq, hlink_putLink, ho]
  dsimp only
  rw [opened, if_neg (by decide), if_neg (Nat.not_le.mpr h3)]
  unfold resend
  dsimp only
  rw [linkEnd_eq, link, ho, if_neg (show (o :: t).length ≠ 0 from Nat.succ_ne_zero _), ← replayTold, setLink_eq,
    setEnd_eq, hlink_putLink, putLink_putLink,
    putLink_time, only.hlink, only.time, hlink_putLink, putLink_time, HingeLink.side_playing, HingeLink.withEnd_playing]
  rfl

/-- A replay sends what is unacknowledged again, from the oldest frame on; each one counts (R327). -/
theorem replay_spec (h3 : o.plays < 3) (kind : Nat) :
    let f := (e.putLink s x).replay s h kind
    let cnt := linkReg s R.HINGE_C_REPLAY_CNT R.HINGE_S_REPLAY_CNT
    let last := linkReg s R.HINGE_C_LAST R.HINGE_S_LAST
    f.rd cnt = Nat.repeat bump16 (o :: t).length (e.rd cnt) ∧
    f.rd last = w32 (kind * 2 ^ 28 + o.seq % 256 * 2 ^ 20 + e.time.tb.toNat % 2 ^ 20) ∧ RegsKept [cnt, last] e f ∧
    f = { e.marked f with hinge := (e.putLink s (x.replayed h e.time.now)).hinge } := by
  intro f cnt last
  obtain ⟨only, counted, written, kept⟩ := (e.putLink s x).replayTold_spec s kind o (o :: t).length
  have played : f = _ := replay_eq hp ho h3 kind
  rw [played]
  refine ⟨?_, ?_, fun j hj => ?_, only.putLink _⟩
  · rw [rd_putLink, counted, rd_putLink]
  · rw [rd_putLink, written, putLink_time]
  · rw [rd_putLink, kept j hj, rd_putLink]

end

/-- The timer of an end runs from its oldest frame on (R327). -/
theorem replayDue_some {o : OutFrame} {t : List OutFrame} (ho : ((e.hlink s).side h).out = o :: t) (hdue : o.sent + 625 ≤ e.time.now) :
    e.replayDue s h = true := by
  unfold replayDue
  rw [linkEnd_eq, ho]
  exact decide_eq_true hdue

theorem replayDue_early {o : OutFrame} {t : List OutFrame} (ho : ((e.hlink s).side h).out = o :: t) (hdue : e.time.now < o.sent + 625) :
    e.replayDue s h = false := by
  unfold replayDue
  rw [linkEnd_eq, ho]
  exact decide_eq_false (Nat.not_le.mpr hdue)

theorem replayDue_none (ho : ((e.hlink s).side h).out = []) : e.replayDue s h = false := by
  unfold replayDue
  rw [linkEnd_eq, ho]

/-! ### Shoal's self-refresh (R329) -/

theorem linkDead_iff (x : HingeLink) : linkDead x = true ↔ x.st = .fault ∨ x.faulted = true := by
  rw [linkDead, Bool.or_eq_true, beq_iff_eq]

end Engine

/-! ### The commands -/

section
variable {s : State} {l : Link} {f : LinkFrame}

/-- A DATA frame that has its receiver execute nothing. -/
theorem leaves_dataFrame {e : Engine} {op : Option HingeOp} (h : s.eng.dataFrame (isS l) f = (e, op)) (hop : l = .s ∨ op = none) :
    Leaves (.hingeDataFrame l f) s e := by
  have run : exec (.hingeDataFrame l f) s = execHingeDataFrame l f s := rfl
  unfold execHingeDataFrame at run
  rw [h] at run
  obtain rfl | rfl := hop
  · exact run
  · cases l <;> exact run

/-- One over Hinge-C whose receiver executes what it carries (R324). -/
theorem exec_dataFrame {e : Engine} {op : HingeOp} (h : s.eng.dataFrame (isS .c) f = (e, some op)) :
    exec (.hingeDataFrame .c f) s = .next (({ s with eng := e } : State).linkExec (frameSeq f) op).settled := by
  have run : exec (.hingeDataFrame .c f) s = execHingeDataFrame .c f s := rfl
  unfold execHingeDataFrame at run
  rw [h] at run
  exact run

theorem leaves_hingeAck {e : Engine} (h : s.eng.ackFrame (isS l) f = e) : Leaves (.hingeAck l f) s e := by
  rw [← h]
  exact show exec (.hingeAck l f) s = done s fun e => e.ackFrame (isS l) f from rfl

theorem leaves_hingeNak {e : Engine} (h : s.eng.nakFrame (isS l) f = e) : Leaves (.hingeNak l f) s e := by
  rw [← h]
  exact show exec (.hingeNak l f) s = done s fun e => e.nakFrame (isS l) f from rfl

theorem leaves_replayTimeout {h : Bool} (hdue : s.eng.replayDue (isS l) h = true) :
    Leaves (.replayTimeout { link := l, atHeadland := h }) s (s.eng.replay (isS l) h 1) := by
  exact leaves_guarded (·.replayDue (isS l) h) (·.replay (isS l) h 1) rfl hdue

theorem idles_replayTimeout {h : Bool} (hdue : s.eng.replayDue (isS l) h = false) :
    Idles (.replayTimeout { link := l, atHeadland := h }) s :=
  idles_guarded (·.replayDue (isS l) h) (·.replay (isS l) h 1) rfl hdue

end

/-- Settles O57: DATA frames by their sequence, acknowledgements, refusals and the timer by what they replay, Shoal's self-refresh. -/
theorem hingeFramesAreProtected : Obligations.HingeFramesAreProtected := by
  refine ⟨fun n now => ⟨fun h => n.flush_room h now, n.flush_order now⟩, fun s l hact => ⟨fun f hf => ?_, fun f hf hp => ?_,
    fun f => ⟨fun hf => ?_, fun hf => ?_⟩, fun f => ⟨fun hf => ?_, fun hf hp hout => ?_⟩, fun c x h kind o t hp hc ho => ?_,
    fun h hidle => ?_⟩, fun s => ⟨fun hmay => ?_, fun hmay => ?_⟩⟩
  · exact leaves_dataFrame (Engine.dataFrame_refused hf) (Or.inr rfl)
  · refine ⟨fun hseq hquiet => ?_, fun o hseq hl hop => ?_, fun hseq hlate => ?_, fun hseq hearly => ?_⟩
    · have next := Engine.dataFrame_next hact hf hp hseq
      rw [Engine.linkName_isS] at next
      exact leaves_dataFrame next hquiet
    · subst hl
      have next := Engine.dataFrame_next hact hf hp hseq
      have runs := exec_dataFrame (next.trans (congrArg (Prod.mk _) hop))
      rw [hseq] at runs
      exact runs
    · have later := Engine.dataFrame_later hact hf hp hseq hlate
      rw [Engine.linkName_isS] at later
      exact leaves_dataFrame later (Or.inr rfl)
    · have earlier := Engine.dataFrame_earlier hact hf hp hseq hearly
      rw [Engine.linkName_isS] at earlier
      let x := (s.eng.hlink (isS l)).acked f.atHeadland (frameAck f) s.eng.time.now
      obtain ⟨counted, written, kept⟩ := (s.eng.putLink (isS l) x).duplicate_spec (isS l) (frameSeq f)
      have only := Engine.onlyRegs_duplicate (s.eng.putLink (isS l) x) (isS l) (frameSeq f)
      rw [Engine.putLink_time] at written
      refine ⟨_, leaves_dataFrame earlier (Or.inr rfl), ?_, written, fun j hj => ?_, ?_⟩
      · exact counted.trans (congrArg bump16 (Engine.rd_putLink _ _ _ _))
      · exact (kept j hj).trans (Engine.rd_putLink _ _ _ _)
      · exact only.withTx _
  · exact leaves_hingeAck (Engine.ackFrame_taken hact hf)
  · exact leaves_hingeAck (Engine.ackFrame_refused hf)
  · exact leaves_hingeNak (Engine.nakFrame_refused hf)
  · exact leaves_hingeNak ((Engine.nakFrame_taken hf hp).trans (Engine.replay_empty hout 2))
  · have replays : x.passes ∧ Leaves c s ((s.eng.putLink (isS l) x).replay (isS l) h kind) := by
      obtain ⟨rfl, rfl, rfl, due⟩ | ⟨f, rfl, hf, rfl, rfl, rfl⟩ := hc
      · rw [Engine.putLink_hlink]
        exact ⟨hp, leaves_replayTimeout (Engine.replayDue_some ho due)⟩
      · exact ⟨HingeLink.passes_acked hp, leaves_hingeNak (Engine.nakFrame_taken hf hp)⟩
    obtain ⟨hx, replays⟩ := replays
    refine ⟨fun h3 => ?_, fun h3 => ?_⟩
    · obtain ⟨counted, written, kept, rest⟩ := Engine.replay_spec (e := s.eng) (s := isS l) hx ho h3 kind
      unfold HingeLink.replayed at rest
      rw [show (x.side h).out = o :: t from ho] at rest
      exact ⟨_, replays, counted, written, kept, rest⟩
    · rw [Engine.replay_fourth hx ho h3] at replays
      exact replays
  · obtain ⟨o, t, ho, early⟩ | ho | closed := hidle
    · exact idles_replayTimeout (Engine.replayDue_early ho early)
    · exact idles_replayTimeout (Engine.replayDue_none ho)
    · cases due : s.eng.replayDue (isS l) h with
      | false => exact idles_replayTimeout due
      | true =>
        have replays := leaves_replayTimeout due
        rw [← Engine.putLink_hlink s.eng (isS l), Engine.replay_closed closed, Engine.putLink_hlink] at replays
        exact replays
  · obtain ⟨mem, dead, idle⟩ := hmay
    refine leaves_guarded (fun e => e.pwr.enMem && Engine.linkDead e.hinge.s && decide (e.hinge.s.last + 6250 ≤ e.time.now))
      (fun e => { e with mem.selfRef := true }) rfl ?_
    simp [mem, idle, (Engine.linkDead_iff _).mpr dead]
  · refine idles_guarded (fun e => e.pwr.enMem && Engine.linkDead e.hinge.s && decide (e.hinge.s.last + 6250 ≤ e.time.now))
      (fun e => { e with mem.selfRef := true }) rfl ?_
    rw [← Bool.not_eq_true, Bool.and_eq_true, Bool.and_eq_true, decide_eq_true_eq, Engine.linkDead_iff, and_assoc]
    exact hmay

end Sys2Proof.Machine
end

section
/-! PROOF. O58: retrains of the Hinge links, how they end, and the writes that arm and stop error injection. -/

namespace Sys2Proof.Machine

namespace Engine

/-- A link that is replaced after registers have been written and events pushed. -/
theorem Pushes.putLink {vs : List Event} {a b : Engine} (h : Pushes vs a b) (s : Bool) (y : HingeLink) :
    b.putLink s y = { a.marked (b.putLink s y) with hinge := (a.putLink s y).hinge, arriving := a.arriving ++ vs } := by
  rw [h]
  cases s <;> rfl

theorem Pushes.hinge {vs : List Event} {a b : Engine} (h : Pushes vs a b) : b.hinge = a.hinge := by
  rw [h]
  rfl

theorem Pushes.time {vs : List Event} {a b : Engine} (h : Pushes vs a b) : b.time = a.time := by
  rw [h]
  rfl

theorem Pushes.hlink {vs : List Event} {a b : Engine} (h : Pushes vs a b) (s : Bool) : b.hlink s = a.hlink s := by
  unfold Engine.hlink
  rw [h.hinge]

/-! ### A retrain begins (R328) -/

/-- The registers in which a retrain is told. -/
def retrainTold (e : Engine) (s : Bool) : Engine :=
  ((e.count (linkReg s R.HINGE_C_RETRAIN_CNT R.HINGE_S_RETRAIN_CNT)).linkLast s 4 (e.hlink s).head.oldest).istat 0x23 (if s then 2 else 1)

theorem retrainTold_spec (e : Engine) (s : Bool) :
    let cnt := linkReg s R.HINGE_C_RETRAIN_CNT R.HINGE_S_RETRAIN_CNT
    let last := linkReg s R.HINGE_C_LAST R.HINGE_S_LAST
    OnlyRegs e (e.retrainTold s) ∧ (e.retrainTold s).rd cnt = bump16 (e.rd cnt) ∧
    (e.retrainTold s).rd (istatKey 0x23) = e.rd (istatKey 0x23) ||| (if s then 2#32 else 1#32) ∧
    (e.retrainTold s).rd last = w32 (4 * 2 ^ 28 + (e.hlink s).head.oldest % 256 * 2 ^ 20 + e.time.tb.toNat % 2 ^ 20) ∧
    RegsKept [cnt, istatKey 0x23, last] e (e.retrainTold s) := by
  intro cnt last
  have other : cnt ≠ last ∧ cnt ≠ istatKey 0x23 ∧ last ≠ istatKey 0x23 := by cases s <;> decide
  obtain ⟨cntLast, cntIstat, lastIstat⟩ := other
  obtain ⟨only, kept, written⟩ := linkLast_spec (e.count cnt) s 4 (e.hlink s).head.oldest
  refine ⟨((onlyRegs_count e _).trans only).trans (onlyRegs_istat _ _ _), ?_, ?_, ?_, fun j hj => ?_⟩
  · unfold retrainTold
    rw [rd_istat_other _ _ _ _ cntIstat, kept cnt (by simpa using cntLast), rd_count_same]
  · unfold retrainTold
    rw [rd_istat_same, kept _ (by simpa using lastIstat.symm), rd_count_other _ _ _ cntIstat.symm]
    cases s <;> rfl
  · unfold retrainTold
    rw [rd_istat_other _ _ _ _ lastIstat]
    exact written
  · simp only [List.mem_cons, List.not_mem_nil, or_false, not_or] at hj
    obtain ⟨hcnt, hist, hlast⟩ := hj
    unfold retrainTold
    rw [rd_istat_other _ _ _ _ hist, kept j (by simpa using hlast), rd_count_other _ _ _ hcnt]

/-- A retrain that no injection dooms. -/
theorem retrain_spec {e : Engine} {s : Bool} (hinj : e.hinge.active = false ∨ e.hinge.kind ≠ 10) :
    (∀ k, (e.retrain s).rd k = (e.retrainTold s).rd k) ∧
    e.retrain s = { e.marked (e.retrain s) with
      hinge := (e.putLink s { e.hlink s with st := .retrain, start := e.time.now, doomed := false }).hinge
      arriving := e.arriving ++ if e.rb R.HINGE_CTL 1 then [e.event 0xD 0x01 1 (if s then 1 else 0)] else [] } := by
  obtain ⟨only, -⟩ := e.retrainTold_spec s
  have ctl : (e.count (linkReg s R.HINGE_C_RETRAIN_CNT R.HINGE_S_RETRAIN_CNT)).rb R.HINGE_CTL 1 = e.rb R.HINGE_CTL 1 :=
    congrArg (bit · 1) (rd_count_other e _ _ (by cases s <;> decide))
  let told := (e.retrainTold s).pushIf (e.rb R.HINGE_CTL 1) 0xD 0x01 1 (if s then 1 else 0)
  have pushes : Pushes _ e told := only.pushes.pushIf (e.rb R.HINGE_CTL 1) 0xD 0x01 1 (if s then 1 else 0)
  have quiet : (if s then (told, false) else told.inject 10) = (told, false) := by
    rw [inject_none (by rw [pushes.hinge]; exact hinj), ite_self]
  have retrains : e.retrain s = told.putLink s { e.hlink s with st := .retrain, start := e.time.now, doomed := false } := by
    unfold retrain
    dsimp only
    rw [(onlyRegs_count e _).hlink, ctl, ← retrainTold, quiet, setLink_eq, pushes.hlink, pushes.time]
  rw [retrains]
  refine ⟨fun k => ?_, pushes.putLink s _⟩
  rw [rd_putLink]
  exact rd_pushIf _ _ _ _ _ _ k

/-! ### A retrain completes (R328, R329) -/

theorem trainLat_spec (e : Engine) (s : Bool) :
    OnlyRegs e (e.trainLat s) ∧ RegsKept [R.HINGE_TRAIN_LAT] e (e.trainLat s) ∧
    (e.trainLat s).rd R.HINGE_TRAIN_LAT = w32 (at1 s 31 + min (e.time.now - (e.hlink s).start) (2 ^ 24 - 1)) :=
  ⟨onlyRegs_wr _ _ _, regsKept_wr _ _ _, rd_wr_same _ _ _⟩

end Engine

/-- An end that holds no frame, sent or waiting. -/
def LinkEnd.idle (n : LinkEnd) : Prop := n.out = [] ∧ n.queue = [] ∧ n.next < 256

theorem LinkEnd.fresh_idle {n : LinkEnd} (h : n.idle) : n.fresh = n := by
  obtain ⟨out, -, -⟩ := h
  obtain ⟨next, exp, out, queue⟩ := n
  subst out
  rfl

theorem LinkEnd.flush_idle {n : LinkEnd} (h : n.idle) (now : Nat) : n.flush now = n := by
  obtain ⟨out, queue, next⟩ := h
  unfold flush
  simp only [queue, List.length_nil, Nat.min_zero, List.take_nil, List.zipIdx_nil, List.map_nil, List.append_nil, List.drop_nil,
    Nat.add_zero, Nat.mod_eq_of_lt next]
  rw [← queue]

/-- A link that has been trained. -/
def HingeLink.trained (x : HingeLink) : HingeLink := { x with st := .trained, doomed := false, faulted := false, lost := false }

namespace Engine

theorem resend_empty {e : Engine} {s h : Bool} (hout : ((e.hlink s).side h).out = []) : e.resend s h = e := by
  unfold resend
  dsimp only
  rw [linkEnd_eq, hout]
  rfl

theorem linkFlush_idle {e : Engine} {s h : Bool} (hidle : ((e.hlink s).side h).idle) : e.linkFlush s h = e := by
  rw [linkFlush_eq, LinkEnd.flush_idle hidle, ite_self, HingeLink.withEnd_side, putLink_hlink]

theorem OnlyRegs.putLinks {a b : Engine} (h : OnlyRegs a b) (s : Bool) (y : HingeLink) : OnlyRegs (a.putLink s y) (b.putLink s y) := by
  rw [h]
  cases s <;> rfl

/-- Shoal leaves self-refresh where Hinge-S is trained again and MEM runs. -/
def shoalWakes (e : Engine) (s : Bool) : Engine := { e with mem.selfRef := e.mem.selfRef && !(s && e.isOn 13) }

theorem OnlyRegs.shoalWakes {a b : Engine} (h : OnlyRegs a b) (s : Bool) : OnlyRegs (a.shoalWakes s) (b.shoalWakes s) := by
  rw [h]
  rfl

section
variable {e : Engine} {s : Bool} (hhead : (e.hlink s).head.idle) (hfar : (e.hlink s).far.idle)
include hhead hfar

/-- A retrain of a link whose ends hold nothing. -/
theorem retrained_eq : e.retrained s =
    let t := ((e.trainLat s).putLink s (e.hlink s).trained).shoalWakes s
    if linkLost (e.hlink s) then (t.istat 0x23 32).push 0xD 0x03 2 (if s then 1 else 0) else t := by
  obtain ⟨only, -⟩ := e.trainLat_spec s
  let t := (e.trainLat s).putLink s (e.hlink s).trained
  have link : t.hlink s = (e.hlink s).trained := hlink_putLink _ _ _
  have head : ((t.hlink s).side true).idle := by rw [link]; exact hhead
  have far : ((t.hlink s).side false).idle := by rw [link]; exact hfar
  have sends : (((t.resend s true).resend s false).linkFlush s true).linkFlush s false = t := by
    rw [resend_empty head.1, resend_empty far.1, linkFlush_idle head, linkFlush_idle far]
  have wakes : (if s && t.isOn 13 then { t with mem.selfRef := false } else t) = t.shoalWakes s := by
    unfold shoalWakes
    cases s && t.isOn 13
    · rw [Bool.not_false, Bool.and_true]
      rfl
    · rw [Bool.not_true, Bool.and_false]
      rfl
  have trained : (e.trainLat s).setLink s (fun l =>
      { l with st := .trained, doomed := false, faulted := false, lost := false, head := l.head.fresh, far := l.far.fresh }) = t := by
    rw [setLink_eq, only.hlink, LinkEnd.fresh_idle hhead, LinkEnd.fresh_idle hfar]
    rfl
  unfold retrained
  dsimp only
  rw [trained, sends, wakes]

/-- A retrain that completes records its latency and trains the link; the end of a DIE_FAULT is told (R328, R329). -/
theorem retrained_spec :
    let ends := linkLost (e.hlink s)
    (e.retrained s).rd R.HINGE_TRAIN_LAT = w32 (at1 s 31 + min (e.time.now - (e.hlink s).start) (2 ^ 24 - 1)) ∧
    (e.retrained s).rd (istatKey 0x23) = e.rd (istatKey 0x23) ||| (if ends then 32#32 else 0#32) ∧
    RegsKept [R.HINGE_TRAIN_LAT, istatKey 0x23] e (e.retrained s) ∧
    Pushes (if ends then [e.event 0xD 0x03 2 (if s then 1 else 0)] else [])
      ((e.putLink s (e.hlink s).trained).shoalWakes s) (e.retrained s) := by
  intro ends
  obtain ⟨only, kept, written⟩ := e.trainLat_spec s
  let a := (e.putLink s (e.hlink s).trained).shoalWakes s
  let t := ((e.trainLat s).putLink s (e.hlink s).trained).shoalWakes s
  have told : OnlyRegs a t := (only.putLinks s _).shoalWakes s
  have rd_t (k : Nat) : t.rd k = (e.trainLat s).rd k := rd_putLink _ _ _ k
  have event : a.event 0xD 0x03 2 (if s then 1 else 0) = e.event 0xD 0x03 2 (if s then 1 else 0) :=
    congrArg (fun x : TimeBlk => ({ e with time := x } : Engine).event 0xD 0x03 2 (if s then 1 else 0)) (putLink_time e s _)
  rw [retrained_eq hhead hfar]
  dsimp only
  cases hends : linkLost (e.hlink s) with
  | true =>
    simp only [ends, hends, if_true]
    refine ⟨?_, ?_, fun k hk => ?_, ?_⟩
    · rw [rd_push, rd_istat_other _ _ _ _ (by decide)]
      exact (rd_t _).trans written
    · rw [rd_push, rd_istat_same]
      exact congrArg (· ||| 32#32) ((rd_t _).trans (kept _ (by decide)))
    · simp only [List.mem_cons, List.not_mem_nil, or_false, not_or] at hk
      rw [rd_push, rd_istat_other _ _ _ _ hk.2]
      exact (rd_t k).trans (kept k (by simpa using hk.1))
    · rw [← event]
      exact (told.pushes.istat 0x23 32).push _ _ _ _
  | false =>
    simp only [ends, hends, Bool.false_eq_true, if_false]
    refine ⟨(rd_t _).trans written, ?_, fun k hk => ?_, told.pushes⟩
    · rw [BitVec.or_zero]
      exact (rd_t _).trans (kept _ (by decide))
    · exact (rd_t k).trans (kept k fun hc => hk (List.mem_cons.mpr (Or.inl (List.mem_singleton.mp hc))))

end

/-! ### Commits that waited for Hinge-C (R31) -/

/-- The inputs of the TDC are started and stopped in their own records. -/
theorem tinSync_eq (e : Engine) : ∃ tins, e.tinSync = { e with tdc := { e.tdc with tins := tins } } := by
  unfold tinSync
  generalize List.range 4 = l
  induction l generalizing e with
  | nil => exact ⟨e.tdc.tins, rfl⟩
  | cons i l ih =>
    rw [List.foldl_cons]
    dsimp only
    split
    · obtain ⟨tins, h⟩ := ih (e.setTin i _)
      exact ⟨tins, h⟩
    · split
      · obtain ⟨tins, h⟩ := ih (e.setTin i _)
        exact ⟨tins, h⟩
      · exact ih e

theorem foldLate_none {e : Engine} (h : e.tdc.fold = none) : e.foldLate = e := by
  unfold foldLate
  rw [h]

/-- Where neither a commit nor a fold has waited, none is made. -/
theorem lateCommit_none {e : Engine} (hlate : e.tide.late = []) (hfold : e.tdc.fold = none) :
    ∃ tins, e.lateCommit = { e with tdc := { e.tdc with tins := tins } } := by
  have same : ({ e with tide := { e.tide with late := [] } } : Engine) = e := by rw [← hlate]
  obtain ⟨tins, h⟩ := e.tinSync_eq
  refine ⟨tins, ?_⟩
  unfold lateCommit
  dsimp only
  rw [hlate, same]
  have made : (([] : List Pend).foldl commit e).lanesCommitted [] = e := rfl
  rw [made, h]
  exact foldLate_none hfold

/-! ### DIE_FAULT (R329) -/

end Engine

/-- A link in DIE_FAULT: what its ends held is discarded (R329). -/
def HingeLink.failed (x : HingeLink) : HingeLink :=
  { x with
    st := .fault, faulted := true, lost := true, doomed := false
    head := { x.head with out := [], queue := [] }, far := { x.far with out := [], queue := [] } }

namespace Engine

/-- The registers in which a DIE_FAULT is told. -/
def faultTold (e : Engine) (s : Bool) : Engine :=
  ((((e.trainLat s).estat 0x23 (if s then 2 else 1)).istat 0x23 (if s then 8 else 4)).count R.HINGE_FAULT_CNT).linkLast s 5
    (e.hlink s).head.oldest

theorem faultTold_spec (e : Engine) (s : Bool) :
    let last := linkReg s R.HINGE_C_LAST R.HINGE_S_LAST
    let f := e.faultTold s
    OnlyRegs e f ∧ f.rd (estatKey 0x23) = e.rd (estatKey 0x23) ||| (if s then 2#32 else 1#32) ∧
    f.rd (istatKey 0x23) = e.rd (istatKey 0x23) ||| (if s then 8#32 else 4#32) ∧
    f.rd R.HINGE_FAULT_CNT = bump16 (e.rd R.HINGE_FAULT_CNT) ∧
    f.rd R.HINGE_TRAIN_LAT = w32 (at1 s 31 + min (e.time.now - (e.hlink s).start) (2 ^ 24 - 1)) ∧
    f.rd last = w32 (5 * 2 ^ 28 + (e.hlink s).head.oldest % 256 * 2 ^ 20 + e.time.tb.toNat % 2 ^ 20) ∧
    RegsKept [estatKey 0x23, istatKey 0x23, R.HINGE_FAULT_CNT, R.HINGE_TRAIN_LAT, last] e f := by
  intro last f
  have notLast : estatKey 0x23 ≠ last ∧ istatKey 0x23 ≠ last ∧ R.HINGE_FAULT_CNT ≠ last ∧ R.HINGE_TRAIN_LAT ≠ last := by
    cases s <;> decide
  obtain ⟨estLast, istLast, cntLast, latLast⟩ := notLast
  obtain ⟨only, kept, written⟩ := e.trainLat_spec s
  let counted := (((e.trainLat s).estat 0x23 (if s then 2 else 1)).istat 0x23 (if s then 8 else 4)).count R.HINGE_FAULT_CNT
  have only' : OnlyRegs e counted :=
    ((only.trans (onlyRegs_estat _ _ _)).trans (onlyRegs_istat _ _ _)).trans (onlyRegs_count _ _)
  obtain ⟨onlyLast, keptLast, writtenLast⟩ := counted.linkLast_spec s 5 (e.hlink s).head.oldest
  have other (j : Nat) (h : j ≠ last) : f.rd j = counted.rd j := keptLast j (by simpa using h)
  refine ⟨only'.trans onlyLast, ?_, ?_, ?_, ?_, ?_, fun j hj => ?_⟩
  · rw [other _ estLast, rd_count_other _ _ _ (by decide), rd_istat_other _ _ _ _ (by decide), rd_estat_same, kept _ (by decide)]
    cases s <;> rfl
  · rw [other _ istLast, rd_count_other _ _ _ (by decide), rd_istat_same, rd_estat_other _ _ _ _ (by decide), kept _ (by decide)]
    cases s <;> rfl
  · rw [other _ cntLast, rd_count_same, rd_istat_other _ _ _ _ (by decide), rd_estat_other _ _ _ _ (by decide), kept _ (by decide)]
  · rw [other _ latLast, rd_count_other _ _ _ (by decide), rd_istat_other _ _ _ _ (by decide), rd_estat_other _ _ _ _ (by decide)]
    exact written
  · rw [only'.time] at writtenLast
    exact writtenLast
  · simp only [List.mem_cons, List.not_mem_nil, or_false, not_or] at hj
    obtain ⟨hest, hist, hcnt, hlat, hlast⟩ := hj
    rw [other j hlast, rd_count_other _ _ _ hcnt, rd_istat_other _ _ _ _ hist, rd_estat_other _ _ _ _ hest, kept j (by simpa using hlat)]

/-- A retrain that has failed puts its link in DIE_FAULT. -/
theorem dieFault_spec (e : Engine) (s : Bool) :
    (∀ k, (e.dieFault s).rd k = (e.faultTold s).rd k) ∧
    e.dieFault s = { e.marked (e.dieFault s) with
      hinge := (e.putLink s (e.hlink s).failed).hinge
      arriving := e.arriving ++ [e.event 0xD 0x02 0 (if s then 1 else 0)] } := by
  obtain ⟨only, -⟩ := e.faultTold_spec s
  let told := (e.faultTold s).push 0xD 0x02 0 (if s then 1 else 0)
  have pushes : Pushes _ e told := only.pushes.push 0xD 0x02 0 (if s then 1 else 0)
  have fails : e.dieFault s = told.putLink s (e.hlink s).failed := by
    unfold dieFault
    dsimp only
    rw [← faultTold, setLink_eq, pushes.hlink]
    rfl
  rw [fails]
  refine ⟨fun k => ?_, pushes.putLink s _⟩
  rw [rd_putLink]
  exact rd_push _ _ _ _ _ k

/-! ### What a DIE_FAULT of Hinge-S ends (R58, R258) -/

/-- b has what a has of the time, the mode, the ports' requests and the links, and of the registers of Hinge. -/
def KeepsLinks (a b : Engine) : Prop :=
  b.time = a.time ∧ b.sys = a.sys ∧ b.host = a.host ∧ b.hinge = a.hinge ∧
  ∀ k ∈ [estatKey 0x23, istatKey 0x23, R.HINGE_FAULT_CNT, R.HINGE_TRAIN_LAT], b.rd k = a.rd k

theorem KeepsLinks.refl (a : Engine) : KeepsLinks a a := ⟨rfl, rfl, rfl, rfl, fun _ _ => rfl⟩

theorem KeepsLinks.trans {a b c : Engine} (h : KeepsLinks a b) (h' : KeepsLinks b c) : KeepsLinks a c := by
  obtain ⟨time, sys, host, hinge, regs⟩ := h
  obtain ⟨time', sys', host', hinge', regs'⟩ := h'
  exact ⟨time'.trans time, sys'.trans sys, host'.trans host, hinge'.trans hinge, fun k hk => (regs' k hk).trans (regs k hk)⟩

theorem keepsLinks_foldl {α : Type} {f : Engine → α → Engine} (hf : ∀ e x, KeepsLinks e (f e x)) (l : List α) :
    ∀ e, KeepsLinks e (l.foldl f e) := by
  induction l with
  | nil => exact KeepsLinks.refl
  | cons x l ih => exact fun e => (hf e x).trans (ih (f e x))

/-- The jobs that run over Shoal end in the job block. -/
theorem keepsLinks_jobsHingeDown (e : Engine) : KeepsLinks e e.jobsHingeDown := by
  refine keepsLinks_foldl (fun e k => ?_) _ e
  dsimp only
  split
  · exact ⟨rfl, rfl, rfl, rfl, fun _ _ => rfl⟩
  · exact KeepsLinks.refl e

theorem keepsLinks_pushes {vs : List Event} {ks : List Nat} {a b : Engine} (h : Pushes vs a b) (kept : RegsKept ks a b)
    (hks : ∀ k ∈ [estatKey 0x23, istatKey 0x23, R.HINGE_FAULT_CNT, R.HINGE_TRAIN_LAT], k ∉ ks) : KeepsLinks a b := by
  refine ⟨h.time, ?_, ?_, h.hinge, fun k hk => kept k (hks k hk)⟩ <;> (rw [h]; rfl)

/-- The end of a run is told in the recorder's registers (R195). -/
theorem keepsLinks_runTold (e : Engine) (arg : Nat) : KeepsLinks e ((e.istat 0x1C 1).push 0x6 0x02 2 arg) :=
  keepsLinks_pushes ((onlyRegs_istat e 0x1C 1).pushes.push 0x6 0x02 2 arg)
    ((regsKept_istat e 0x1C 1).of_rd fun k => rd_push _ _ _ _ _ k) (by decide)

theorem keepsLinks_runEnd (e : Engine) : KeepsLinks e e.runEnd := by
  have streams : KeepsLinks e ((List.range 5).foldl (fun e s =>
      if (e.memS s).writing && e.streamDone s then e.setMem s fun m => { m with writing := false } else e) e) := by
    refine keepsLinks_foldl (fun e s => ?_) _ e
    split
    · exact ⟨rfl, rfl, rfl, rfl, fun _ _ => rfl⟩
    · exact KeepsLinks.refl e
  unfold runEnd
  dsimp only
  generalize (List.range 5).foldl _ e = swept at streams ⊢
  have keeps : KeepsLinks e { swept with mem := { swept.mem with old := swept.mem.old.filter fun o => swept.inFlight o.run fun _ => true } } :=
    streams.trans ⟨rfl, rfl, rfl, rfl, fun _ _ => rfl⟩
  split
  · exact keeps.trans (keepsLinks_runTold _ _)
  · exact keeps

/-- The blocks that are lost are counted. -/
theorem keepsLinks_dropShoal (e : Engine) : KeepsLinks e e.dropShoal := by
  have counted (n : Nat) : KeepsLinks e (e.countN R.STG_DROP_CNT n) := by
    obtain ⟨only, kept, -⟩ := e.countN_spec R.STG_DROP_CNT n
    exact keepsLinks_pushes only.pushes kept (by decide)
  unfold dropShoal
  dsimp only
  refine KeepsLinks.trans ?_ (keepsLinks_runEnd _)
  exact (counted _).trans ⟨rfl, rfl, rfl, rfl, fun _ _ => rfl⟩

end Engine

/-! ### The commands -/

/-- A retrain that no access waits for fails at once (R329). -/
theorem leaves_dieFault {s : State} {l : Link} (hfail : s.eng.trainFailed (isS l) = true)
    (hheld : (s.eng.linkFails (isS l)).host.held = []) : Leaves (.hingeDieFault l) s (s.eng.linkFails (isS l)) := by
  have run : exec (.hingeDieFault l) s = execHingeDieFault l s := rfl
  unfold execHingeDieFault at run
  rw [if_pos hfail] at run
  dsimp only at run
  rw [State.serveAll_none (s := { s with eng := s.eng.linkFails (isS l) }) hheld] at run
  exact run

theorem trainFailed_iff {e : Engine} {s : Bool} :
    e.trainFailed s = true ↔ (e.hlink s).st = .retrain ∧ (e.hlink s).start + 10625 ≤ e.time.now := by
  rw [Engine.trainFailed, Bool.and_eq_true, beq_iff_eq, decide_eq_true_eq]

theorem canTrain_iff {e : Engine} {s : Bool} : e.canTrain s = true ↔
    (e.hlink s).st = .retrain ∧ (e.hlink s).doomed = false ∧ e.time.now ≤ (e.hlink s).start + 10625 := by
  rw [Engine.canTrain, Bool.and_eq_true, Bool.and_eq_true, beq_iff_eq, decide_eq_true_eq, Bool.not_eq_true', and_assoc]

theorem Engine.linkLost_iff (x : HingeLink) : Engine.linkLost x = true ↔ x.st = .fault ∨ x.faulted = true ∨ x.lost = true := by
  rw [Engine.linkLost, Bool.or_eq_true, Engine.linkDead_iff, or_assoc]

/-- Beside the retrain only the inputs of the TDC are touched, where nothing has waited for Hinge-C. -/
theorem Engine.retrainDone_eq {e : Engine} {s : Bool} (hlate : s = true ∨ ((e.retrained s).tide.late = [] ∧ (e.retrained s).tdc.fold = none)) :
    ∃ d, e.retrainDone s = { e.retrained s with tdc := d } := by
  unfold retrainDone
  cases s with
  | true => exact ⟨(e.retrained true).tdc, rfl⟩
  | false =>
    obtain h | ⟨late, fold⟩ := hlate
    · cases h
    · obtain ⟨tins, h⟩ := lateCommit_none late fold
      exact ⟨_, h⟩

/-- A retrain that completes in time, of a link whose ends hold nothing. -/
theorem retrainComplete_done {s : State} {l : Link} (hcan : s.eng.canTrain (isS l) = true)
    (hhead : (s.eng.hlink (isS l)).head.idle) (hfar : (s.eng.hlink (isS l)).far.idle)
    (hlate : l = .s ∨ (s.eng.tide.late = [] ∧ s.eng.tdc.fold = none)) : Does (.retrainComplete l) s fun e =>
      let L := s.eng.hlink (isS l)
      let ends := L.st = .fault ∨ L.faulted = true ∨ L.lost = true
      e.rd R.HINGE_TRAIN_LAT = w32 (at1 (isS l) 31 + min (s.eng.time.now - L.start) (2 ^ 24 - 1)) ∧
      e.rd (istatKey 0x23) = s.eng.rd (istatKey 0x23) ||| (if ends then 32#32 else 0#32) ∧
      RegsKept [R.HINGE_TRAIN_LAT, istatKey 0x23] s.eng e ∧ e.hinge = (s.eng.putLink (isS l) L.trained).hinge ∧
      e.arriving = s.eng.arriving ++ (if ends then [s.eng.event 0xD 0x03 2 (if isS l then 1 else 0)] else []) ∧
      e.time = s.eng.time ∧ e.sys = s.eng.sys ∧ e.job = s.eng.job ∧
      e.mem = { s.eng.mem with selfRef := s.eng.mem.selfRef && !(isS l && s.eng.isOn 13) } := by
  obtain ⟨lat, hist, kept, said⟩ := Engine.retrained_spec hhead hfar
  rw [Engine.putLink_eq] at said
  have tide : (s.eng.retrained (isS l)).tide = s.eng.tide := (congrArg Engine.tide said :)
  have tdc : (s.eng.retrained (isS l)).tdc = s.eng.tdc := (congrArg Engine.tdc said :)
  obtain ⟨d, done⟩ := Engine.retrainDone_eq (e := s.eng) (s := isS l) (by
    rw [tide, tdc]
    exact hlate.imp_left fun h => by rw [h]; rfl)
  have leaves := leaves_guarded (c := .retrainComplete l) (s := s) (·.canTrain (isS l)) (·.retrainDone (isS l)) rfl hcan
  rw [done] at leaves
  refine ⟨_, leaves, lat, ?_, kept, (congrArg Engine.hinge said :), ?_, (congrArg Engine.time said :),
    (congrArg Engine.sys said :), (congrArg Engine.job said :), (congrArg Engine.mem said :)⟩
  · exact hist.trans (congrArg (_ ||| ·) (if_congr (Engine.linkLost_iff _) rfl rfl))
  · exact (congrArg Engine.arriving said :).trans (congrArg (_ ++ ·) (if_congr (Engine.linkLost_iff _) rfl rfl))

end Sys2Proof.Machine
end

section
/-! PROOF. O58, the commands: retrains, their ends, and the writes that arm and stop error injection. -/

namespace Sys2Proof.Machine

/-! ### Retrains on command (R328) -/

theorem exec_retrain (s : State) (b : Bool) : exec (if b then .retrainS else .retrainC) s =
    done s fun e => if e.access then e.retrainCmd b else e := by cases b <;> rfl

theorem idles_retrain {s : State} {b : Bool} (h : s.eng.access = false ∨ (s.eng.hlink b).st = .retrain) :
    Idles (if b then .retrainS else .retrainC) s := by
  refine (exec_retrain s b).trans (congrArg (fun e : Engine => (.next { s with eng := e.settle } : Out)) ?_)
  have running (h : (s.eng.hlink b).st = .retrain) : s.eng.retrainCmd b = s.eng := by
    unfold Engine.retrainCmd
    rw [h]
    rfl
  obtain h | h := h
  · exact if_neg (by rw [h]; decide)
  · exact (congrArg (fun x => if s.eng.access then x else s.eng) (running h)).trans (ite_self _)

theorem leaves_retrain {s : State} {b : Bool} (hacc : s.eng.access = true) (hst : (s.eng.hlink b).st ≠ .retrain) :
    Leaves (if b then .retrainS else .retrainC) s (s.eng.retrain b) := by
  have begins : s.eng.retrainCmd b = s.eng.retrain b := if_neg (by rw [beq_iff_eq]; exact hst)
  rw [← begins]
  exact leaves_guarded (·.access) (·.retrainCmd b) (exec_retrain s b) hacc

/-! ### DIE_FAULT (R329) -/

namespace Engine

/-- What a DIE_FAULT of Hinge-S ends leaves the links. -/
theorem keepsLinks_linkFails (e : Engine) : KeepsLinks (e.dieFault true) (e.linkFails true) := by
  unfold linkFails
  dsimp only
  generalize e.dieFault true = f
  have down := keepsLinks_jobsHingeDown f
  rw [if_pos rfl]
  split
  · exact down
  · exact down.trans (keepsLinks_dropShoal _)

/-- After one of Hinge-C the commits that waited are lost (R18). -/
theorem linkFails_cliff (e : Engine) :
    e.linkFails false = { e.dieFault false with tide := { (e.dieFault false).tide with late := [] } } := by
  unfold linkFails
  dsimp only
  rw [if_neg Bool.false_ne_true]

section
variable (e : Engine) (s : Bool)

theorem dieFault_host : (e.dieFault s).host = e.host := by
  rw [(e.dieFault_spec s).2]
  rfl

theorem dieFault_time : (e.dieFault s).time = e.time := by
  rw [(e.dieFault_spec s).2]
  rfl

theorem dieFault_sys : (e.dieFault s).sys = e.sys := by
  rw [(e.dieFault_spec s).2]
  rfl

theorem dieFault_hinge : (e.dieFault s).hinge = (e.putLink s (e.hlink s).failed).hinge := by
  rw [(e.dieFault_spec s).2]

end

end Engine

/-! ### The writes of DIAG_CTL (R334) -/

namespace Engine

/-- What a write of DIAG_CTL.arm makes of the injection. -/
def injected (e : Engine) (arm : Bool) : HingeBlk :=
  if arm then { e.hinge with
    active := true, kind := e.rf R.DIAG_INJ_SEL 0 4, left := e.rf R.DIAG_INJ_CNT 0 16, done := 0 }
  else { e.hinge with active := false }

/-- The value that such a write has. -/
def armWord (arm : Bool) : Word := if arm then 1#32 else 0#32

theorem diagArm_eq (e : Engine) (arm : Bool) :
    e.diagArm arm = { e.wr R.DIAG_CTL (armWord arm) with hinge := e.injected arm } := by
  have other (k : Nat) (h : k ≠ R.DIAG_CTL) : (e.wr R.DIAG_CTL 1#32).rd k = e.rd k := rd_wr_other e _ _ _ h
  cases arm with
  | false => rfl
  | true =>
    unfold diagArm injectArm injected rf
    rw [if_pos rfl, other _ (by decide), other _ (by decide)]
    rfl

/-- A write of all of DIAG_CTL arms or stops the injection. -/
theorem storeReg_diag (e : Engine) (r : Row) (arm : Bool) :
    e.storeReg r R.DIAG_CTL 15#4 (armWord arm) =
      (e.wr R.DIAG_CTL (written r R.DIAG_CTL (e.rd R.DIAG_CTL) (merge (beMask 15#4) (e.rd R.DIAG_CTL) (armWord arm)))).diagArm arm := by
  have frozen : e.frozenReg R.DIAG_CTL = false := by
    unfold frozenReg
    exact Bool.and_false _
  have armed : bit (armWord arm) 0 = arm := by cases arm <;> rfl
  unfold storeReg afterWrite
  dsimp only
  rw [if_neg (show ¬(ringBase R.DIAG_CTL && e.jobsBusy) = true from Bool.false_ne_true),
    frozen, if_neg Bool.false_ne_true, if_neg (by decide), if_neg (by decide), if_pos rfl, armed]

/-- Under a SERVICE session the write arms or stops the injection, and the session is not idle. -/
theorem guarded_diag {e : Engine} {auth : List Bool} (h : opens auth 3 = true) (p : Nat) (r : Row) (arm : Bool) :
    let f := e.guarded auth p r (R.DIAG_CTL / 256) (R.DIAG_CTL % 256) 15#4 (armWord arm) 3 false
    f.rd R.DIAG_CTL = armWord arm ∧ RegsKept [R.DIAG_CTL] e f ∧
    f = { e.marked f with sec := (e.touchSess p 3).sec, hinge := e.injected arm } := by
  intro f
  let g := e.touchSess p 3
  let stored := g.wr R.DIAG_CTL (written r R.DIAG_CTL (g.rd R.DIAG_CTL) (merge (beMask 15#4) (g.rd R.DIAG_CTL) (armWord arm)))
  have other (k : Nat) (hk : k ≠ R.DIAG_CTL) : stored.rd k = e.rd k := (rd_wr_other g _ _ _ hk).trans (rd_touchSess e p 3 k)
  have same : stored.injected arm = e.injected arm := by
    unfold injected rf
    rw [other _ (by decide), other _ (by decide)]
    rfl
  have acts : f = { stored.wr R.DIAG_CTL (armWord arm) with hinge := e.injected arm } := by
    rw [← same, ← diagArm_eq]
    refine (if_pos h).trans ((if_neg Bool.false_ne_true).trans ?_)
    rw [show armWord arm &&& beMask 15#4 = armWord arm by cases arm <;> decide]
    exact storeReg_diag g r arm
  rw [acts]
  refine ⟨rd_wr_same stored _ _, fun k hk => ?_, rfl⟩
  have hk : k ≠ R.DIAG_CTL := by simpa using hk
  exact (rd_wr_other stored _ _ _ hk).trans (other k hk)

end Engine

section
variable {s : State} {p : Port} {arm : Bool} {c : Instr} (hc : exec c s = doneS (s.access (wrAccess p R.DIAG_CTL (Engine.armWord arm))))
  (hr : s.ready p = true)
include hc hr

/-- Function 1 has no DIAG page (R16). -/
theorem injection_pageMissing (hp : p = .f1) : Does c s (PageMissing p (s.eng.arrivesAt p)) := by
  subst hp
  obtain ⟨e, leaves, missing⟩ := write_pageMissing (page := R.DIAG_CTL / 256) (slot := R.DIAG_CTL % 256) (be := 15#4)
    (v := Engine.armWord arm) hr (by decide) (by decide)
  exact ⟨e, hc.trans leaves, missing⟩

/-- A port with a SERVICE session arms or stops the injection. -/
theorem injection_acts (hp : p ≠ .f1) (hsess : s.eng.sessAt (portCode p) 3 = true) : Does c s fun e =>
    e.rd R.DIAG_CTL = Engine.armWord arm ∧ RegsKept [R.DIAG_CTL] (s.eng.serving p) e ∧
    e = { (s.eng.serving p).marked e with
      sec := ((s.eng.serving p).touchSess (portCode p) 3).sec, hinge := (s.eng.serving p).injected arm } := by
  have page : portHas (portCode p) (R.DIAG_CTL / 256) = true := by
    cases p with
    | f0 => decide
    | f1 => exact absurd rfl hp
    | i2c => decide
  have row : row? (R.DIAG_CTL / 256) (R.DIAG_CTL % 256) = some ⟨0x20, .rwk 3 false, 0x1#32, 0x0#32⟩ := by decide
  have opened := (State.opens_of_ready hr (by decide) (by decide)).trans hsess
  have written := State.writeAs_rwk (s := { s with eng := s.eng.serving p }) ((s.eng.arrivesAt p).auth (portCode p))
    (be := 15#4) (v := Engine.armWord arm) (p := portCode p) row (by decide) rfl
  have leaves := leaves_write (page := R.DIAG_CTL / 256) (slot := R.DIAG_CTL % 256) (be := 15#4) (v := Engine.armWord arm)
    hr (by decide) page (by decide) written
  exact ⟨_, hc.trans leaves, Engine.guarded_diag opened (portCode p) _ arm⟩

end

namespace Engine

theorem rd_tide (f : Engine) (t : TideBlk) (k : Nat) : Engine.rd { f with tide := t } k = f.rd k := rfl

/-- With the commits that waited lost, what a fault of Hinge-C changes stands in these fields. -/
theorem withoutLate {e f : Engine} {x : HingeBlk} {v : Event}
    (h : f = { e.marked f with hinge := x, arriving := e.arriving ++ [v] }) :
    { f with tide := { f.tide with late := [] } } =
      { e.marked { f with tide := { f.tide with late := [] } } with
        tide := { e.tide with late := [] }
        hinge := x
        arriving := e.arriving ++ [v] } :=
  congrArg (fun f : Engine => { f with tide := { f.tide with late := [] } }) h

theorem linkFails_cliff_held (e : Engine) : (e.linkFails false).host.held = e.host.held := by
  rw [linkFails_cliff]
  exact congrArg (·.held) (e.dieFault_host false)

end Engine

theorem leaves_failed_cliff {s : State} (hfail : s.eng.trainFailed false = true) (hheld : s.eng.host.held = []) :
    Leaves (.hingeDieFault .c) s
      { s.eng.dieFault false with tide := { (s.eng.dieFault false).tide with late := [] } } := by
  rw [← Engine.linkFails_cliff]
  exact leaves_dieFault (l := .c) hfail ((s.eng.linkFails_cliff_held).trans hheld)

/-- A retrain of Hinge-C that fails: what both ends hold, and the commits that wait, are discarded and told (R18, R329). -/
theorem hingeDieFault_cliff {s : State} (hfail : s.eng.trainFailed false = true) (hheld : s.eng.host.held = []) :
    Does (.hingeDieFault .c) s fun e => (∀ k, e.rd k = (s.eng.faultTold false).rd k) ∧
      e = { s.eng.marked e with
        tide := { s.eng.tide with late := [] }
        hinge := (s.eng.putLink false (s.eng.hlink false).failed).hinge
        arriving := s.eng.arriving ++ [s.eng.event 0xD 0x02 0 0] } := by
  obtain ⟨rd_told, faulted⟩ := s.eng.dieFault_spec false
  exact ⟨_, leaves_failed_cliff hfail hheld, fun k => (Engine.rd_tide _ _ k).trans (rd_told k), Engine.withoutLate faulted⟩

/-- Settles O58: retrains on command, their completion and failure, and the writes that arm and stop error injection. -/
theorem hingeRetrainsAndInjection : Obligations.HingeRetrainsAndInjection := by
  refine ⟨fun s b hinj => ⟨idles_retrain, fun hacc hst => ?_⟩, fun s l => ⟨fun h => ?_, fun h => ?_,
    fun hst hdoom hnow hho hhq hfo hfq hhn hfn hlate => ?_, fun hst hnow hheld hl => ?_, fun hst hnow hheld hl => ?_⟩,
    fun s p arm => ⟨?_, ?_, ?_, ?_⟩⟩
  · obtain ⟨only, counted, hist, written, kept⟩ := s.eng.retrainTold_spec b
    obtain ⟨rd_told, rest⟩ := Engine.retrain_spec (s := b) hinj
    rw [← Engine.setLink_eq s.eng b fun l => { l with st := .retrain, start := s.eng.time.now, doomed := false }] at rest
    exact ⟨_, leaves_retrain hacc hst, (rd_told _).trans counted, (rd_told _).trans hist, (rd_told _).trans written, kept.of_rd rd_told, rest⟩
  · refine idles_guarded (·.canTrain (isS l)) (·.retrainDone (isS l)) rfl (Bool.eq_false_iff.mpr fun hcan => ?_)
    obtain ⟨hst, hdoom, hnow⟩ := canTrain_iff.mp hcan
    obtain h | h | h := h
    · exact h hst
    · rw [h] at hdoom
      cases hdoom
    · omega
  · have quiet : ¬s.eng.trainFailed (isS l) = true := fun hfail => by
      obtain ⟨hst, hnow⟩ := trainFailed_iff.mp hfail
      obtain h | h := h
      · exact h hst
      · omega
    have run : exec (.hingeDieFault l) s = execHingeDieFault l s := rfl
    unfold execHingeDieFault at run
    rw [if_neg quiet] at run
    exact run
  · obtain ⟨e, leaves, lat, hist, kept, hinge, rest⟩ :=
      retrainComplete_done (canTrain_iff.mpr ⟨hst, hdoom, hnow⟩) ⟨hho, hhq, hhn⟩ ⟨hfo, hfq, hfn⟩ hlate
    exact ⟨e, leaves, lat, hist, kept, hinge.trans (congrArg Engine.hinge (Engine.setLink_eq s.eng (isS l) _).symm), rest⟩
  · subst hl
    obtain ⟨-, hest, hist, hcnt, hlat, -⟩ := s.eng.faultTold_spec true
    obtain ⟨rd_told, -⟩ := s.eng.dieFault_spec true
    obtain ⟨time, sys, host, hinge, regs⟩ := s.eng.keepsLinks_linkFails
    have held : (s.eng.linkFails true).host.held = [] := by
      rw [host, s.eng.dieFault_host]
      exact hheld
    have told (k : Nat) (hk : k ∈ [estatKey 0x23, istatKey 0x23, R.HINGE_FAULT_CNT, R.HINGE_TRAIN_LAT]) :
        (s.eng.linkFails true).rd k = (s.eng.faultTold true).rd k := (regs k hk).trans (rd_told k)
    exact ⟨_, leaves_dieFault (trainFailed_iff.mpr ⟨hst, hnow⟩) held, (told _ (by decide)).trans hest, (told _ (by decide)).trans hist,
      (told _ (by decide)).trans hcnt, (told _ (by decide)).trans hlat, time.trans (s.eng.dieFault_time true),
      sys.trans (s.eng.dieFault_sys true), hinge.trans (s.eng.dieFault_hinge true)⟩
  · subst hl
    obtain ⟨-, hest, hist, hcnt, hlat, hlast, kept⟩ := s.eng.faultTold_spec false
    obtain ⟨e, leaves, rd_told, rest⟩ := hingeDieFault_cliff (trainFailed_iff.mpr ⟨hst, hnow⟩) hheld
    exact ⟨e, leaves, (rd_told _).trans hest, (rd_told _).trans hist, (rd_told _).trans hcnt, (rd_told _).trans hlat,
      (rd_told _).trans hlast, kept.of_rd rd_told, rest⟩
  · cases arm
    · exact waitsItsTurn_access (a := wrAccess p R.DIAG_CTL 0#32) rfl (show (15#4 : BitVec 4) ≠ 0#4 by decide)
    · exact waitsItsTurn_access (a := wrAccess p R.DIAG_CTL 1#32) rfl (show (15#4 : BitVec 4) ≠ 0#4 by decide)
  · cases arm <;> rfl
  · intro hp hr
    exact injection_pageMissing (arm := arm) (by cases arm <;> rfl) hr hp
  · intro hp hr hsess
    obtain ⟨e, leaves, written, kept, rest⟩ := injection_acts (arm := arm) (c := if arm then .injectionArm p else .injectionStop p)
      (by cases arm <;> rfl) hr hp hsess
    unfold Engine.injected at rest
    rw [State.serving_hinge hr] at rest
    exact ⟨e, leaves, written, kept, rest⟩

end Sys2Proof.Machine
end
